-- ==== Sys2Proof/Word.lean ====
section
/-! DEFINITION. The word types of the S9 and the plainest views of a bit vector as a number: signed and unsigned
value, a bit slice, and a number narrowed back to a width. Everything a later repair could need to mend
(rounding, formats, memory) stands elsewhere. -/

namespace Sys2Proof

/-- A general register or an address: 64 bits (00 R7). -/
abbrev Word := BitVec 64

/-- One byte of memory. -/
abbrev Byte := BitVec 8

/-- One 32-bit Thielm word (07 R114). -/
abbrev Half := BitVec 32

/-- The bits of `x` from `lo` on, `n` of them, as a number: x[lo + n - 1 : lo] (00 R10). -/
def bitsOf (x lo n : Nat) : Nat := x / 2 ^ lo % 2 ^ n

/-- Bit `i` of `x`. -/
def bitOf (x i : Nat) : Bool := x / 2 ^ i % 2 == 1

/-- The signed value of the low `n` bits of `x` (two's complement). -/
def sextNat (n x : Nat) : Int :=
  if x % 2 ^ n < 2 ^ (n - 1) then (x % 2 ^ n : Nat) else ((x % 2 ^ n : Nat) : Int) - (2 ^ n : Nat)

/-- An integer wrapped to `n` bits (00 R10, "modulo 2^n"), as the number of its bit pattern. -/
def wrapInt (n : Nat) (x : Int) : Nat := (x % (2 ^ n : Nat)).toNat

end Sys2Proof
end

