-- ==== Sys2Proof/Machine/Cipher.lean ====
section
/-! DEFINITION. The memory cipher the manual names (25 R421): AES-256 in XTS mode over one 128-byte line, the tweak being the
line number. The manual names AES-XTS and does not write it out; the algorithm here is the published standard's
(PRESUMED, log entry 11). Bytes are numbers below 256, the first byte of a key or a line being its lowest. -/

namespace Sys2Proof.Machine

/-! ## The field of 2^8 elements -/

/-- A byte times x. -/
def gfDouble (b : Nat) : Nat := if b ≥ 128 then (2 * b) ^^^ 0x11B else 2 * b

/-- A product, bit by bit of the second factor from its lowest of `n` bits. -/
def gfMul (a b : Nat) : Nat → Nat
  | 0 => 0
  | n + 1 => (if bitOf b 0 then a else 0) ^^^ gfMul (gfDouble a) (b / 2) n

/-- The product of two bytes. -/
def gfTimes (a b : Nat) : Nat := gfMul a b 8

/-- The inverse of a byte, its 254th power; that of 0 is 0. -/
def gfInverse (a : Nat) : Nat :=
  let a2 := gfTimes a a
  let a4 := gfTimes a2 a2
  let a8 := gfTimes a4 a4
  let a16 := gfTimes a8 a8
  let a32 := gfTimes a16 a16
  let a64 := gfTimes a32 a32
  let a128 := gfTimes a64 a64
  [a4, a8, a16, a32, a64, a128].foldl gfTimes a2

/-- A byte rotated left. -/
def rotByte (b k : Nat) : Nat := (b * 2 ^ k + b / 2 ^ (8 - k)) % 256

/-- The substitution of a byte. -/
def subByte (b : Nat) : Nat :=
  let i := gfInverse b
  i ^^^ rotByte i 1 ^^^ rotByte i 2 ^^^ rotByte i 3 ^^^ rotByte i 4 ^^^ 0x63

/-- Its inverse. -/
def unsubByte (b : Nat) : Nat := gfInverse (rotByte b 1 ^^^ rotByte b 3 ^^^ rotByte b 6 ^^^ 0x05)

/-! ## The block cipher -/

/-- The bytes of a number, lowest first. -/
def cipherBytes (n x : Nat) : List Nat := (List.range n).map fun i => bitsOf x (8 * i) 8

/-- Bytewise exclusive or. -/
def xorBytes (a b : List Nat) : List Nat := (a.zip b).map fun p => p.1 ^^^ p.2

/-- The next key word, the words so far being listed newest first. -/
def nextKeyWord (i : Nat) (ws : List (List Nat)) : List Nat :=
  let last := ws.headD []
  let mixed :=
    if i % 8 = 0 then
      xorBytes ((last.drop 1 ++ last.take 1).map subByte) [2 ^ (i / 8 - 1), 0, 0, 0]
    else if i % 8 = 4 then last.map subByte else last
  xorBytes (ws.getD 7 []) mixed

/-- Key words up to a number of them, newest first. -/
def keyWords : Nat → Nat → List (List Nat) → List (List Nat)
  | 0, _, ws => ws
  | n + 1, i, ws => keyWords n (i + 1) (nextKeyWord i ws :: ws)

/-- The fifteen round keys of a 256-bit key, of 16 bytes each. -/
def roundKeys (key : Nat) : List (List Nat) :=
  let bs := cipherBytes 32 key
  let ws := (keyWords 52 8 ((List.range 8).map fun i => (bs.drop (4 * i)).take 4).reverse).reverse
  (List.range 15).map fun r => ((ws.drop (4 * r)).take 4).flatten

/-- Row r of a block turns left by r places; `turn` is 1, or 3 for the inverse. -/
def shiftRows (turn : Nat) (b : List Nat) : List Nat :=
  (List.range 16).map fun i => b.getD (4 * ((i / 4 + turn * (i % 4)) % 4) + i % 4) 0

/-- Every column of a block times the circulant matrix of a row. -/
def mixColumns (row b : List Nat) : List Nat :=
  (List.range 16).map fun i => (List.range 4).foldl (fun x k =>
    x ^^^ gfTimes (b.getD (i / 4 * 4 + k) 0) (row.getD ((k + 4 - i % 4) % 4) 0)) 0

/-- One block encrypted: the first round key, thirteen full rounds and a last one without the columns. -/
def aesEncrypt (key : Nat) (b : List Nat) : List Nat :=
  let ks := roundKeys key
  let sub := fun (x : List Nat) => shiftRows 1 (x.map subByte)
  let x := ((ks.drop 1).take 13).foldl (fun x k => xorBytes (mixColumns [2, 3, 1, 1] (sub x)) k) (xorBytes b (ks.headD []))
  xorBytes (sub x) (ks.getD 14 [])

/-- One block decrypted. -/
def aesDecrypt (key : Nat) (b : List Nat) : List Nat :=
  let ks := roundKeys key
  let unsub := fun (x : List Nat) => (shiftRows 3 x).map unsubByte
  let x := ((ks.drop 1).take 13).reverse.foldl (fun x k => mixColumns [14, 11, 13, 9] (xorBytes (unsub x) k))
    (xorBytes b (ks.getD 14 []))
  xorBytes (unsub x) (ks.headD [])

/-! ## XTS over a line -/

/-- A tweak for the next block: times x in the field of 2^128 elements. -/
def nextTweak (t : Nat) : Nat := if t ≥ 2 ^ 127 then (2 * t % 2 ^ 128) ^^^ 0x87 else 2 * t

/-- The blocks of a line through a block function, each between two additions of its tweak. -/
def xtsBlocks (f : List Nat → List Nat) : Nat → Nat → List Nat → List Nat
  | 0, _, _ => []
  | n + 1, t, bs =>
    let k := cipherBytes 16 t
    xorBytes (f (xorBytes (bs.take 16) k)) k ++ xtsBlocks f n (nextTweak t) (bs.drop 16)

/-- The first tweak of a line. -/
def lineTweak (tkey line : Nat) : Nat := (aesEncrypt tkey (cipherBytes 16 line)).foldr (fun b x => b + 256 * x) 0

/-- A 128-byte line under a block function. -/
def xtsLine (f : List Nat → List Nat) (tkey line : Nat) (bs : List Byte) : List Byte :=
  (xtsBlocks f 8 (lineTweak tkey line) (bs.map (·.toNat))).map (BitVec.ofNat 8)

/-- A line encrypted under a data key and a tweak key. -/
def xtsEncrypt (dkey tkey line : Nat) (bs : List Byte) : List Byte := xtsLine (aesEncrypt dkey) tkey line bs
/-- A line decrypted. -/
def xtsDecrypt (dkey tkey line : Nat) (bs : List Byte) : List Byte := xtsLine (aesDecrypt dkey) tkey line bs

end Sys2Proof.Machine
end

