-- ==== Sys2Proof/Machine/Formats.lean ====
section
/-! DEFINITION. Number formats and rounding (chapter 03): decoding bits to exact values, rounding an exact value once
to a format in each mode with the IEEE flags, saturation, conversions between all formats, stochastic rounding, the
counter generator, microscaling blocks and Picot-8. Everything here is exact integer arithmetic. -/

namespace Sys2Proof.Machine

/-! ## Flags -/

/-- NX, inexact (Table 3.6). -/
def flNX : BitVec 5 := 1#5
/-- UF, underflow. -/
def flUF : BitVec 5 := 2#5
/-- OF, overflow. -/
def flOF : BitVec 5 := 4#5
/-- DZ, divide by zero. -/
def flDZ : BitVec 5 := 8#5
/-- NV, invalid. -/
def flNV : BitVec 5 := 16#5

/-- A flag when a condition holds. -/
def flagIf (b : Bool) (f : BitVec 5) : BitVec 5 := bif b then f else 0#5

/-! ## Floating-point formats -/

/-- A floating-point format: exponent and fraction widths, bias, whether it has infinities, whether it has NaNs
(R48, R49, Tables 3.1 and 3.2). -/
structure FloatFmt where
  ebits : Nat
  fbits : Nat
  bias : Nat
  hasInf : Bool
  hasNan : Bool
deriving DecidableEq, Repr

/-- FP32. -/
def fp32 : FloatFmt := ⟨8, 23, 127, true, true⟩
/-- FP16. -/
def fp16 : FloatFmt := ⟨5, 10, 15, true, true⟩
/-- BF16. -/
def bf16 : FloatFmt := ⟨8, 7, 127, true, true⟩
/-- E4M3: finite up to 448, NaN 0x7F only. -/
def e4m3 : FloatFmt := ⟨4, 3, 7, false, true⟩
/-- E5M2. -/
def e5m2 : FloatFmt := ⟨5, 2, 15, true, true⟩
/-- E2M1: every code finite. -/
def e2m1 : FloatFmt := ⟨2, 1, 1, false, false⟩

/-- Width in bits. -/
def FloatFmt.width (f : FloatFmt) : Nat := f.ebits + f.fbits + 1

/-- Formats named by a core float instruction's MIN (07 R137). -/
def minFmt (m : Nat) : FloatFmt := if m = 0 then fp32 else if m = 1 then fp16 else bf16

/-- Formats by the 4-bit codes of Table 3.1, where the code is a float. -/
def floatOf (c : Nat) : Option FloatFmt :=
  match c with
  | 0 => some fp32 | 1 => some fp16 | 2 => some bf16 | 3 => some e4m3 | 4 => some e5m2 | 5 => some e2m1 | _ => none

/-- Integer formats by code: width and signedness. -/
def intOf (c : Nat) : Option (Nat × Bool) :=
  match c with
  | 7 => some (8, true) | 8 => some (16, true) | 9 => some (32, true) | 10 => some (64, true)
  | 11 => some (8, false) | 12 => some (16, false) | _ => none

/-- Width in bits of a format code (Table 3.1). -/
def fmtBits (c : Nat) : Nat :=
  match c with
  | 0 => 32 | 1 => 16 | 2 => 16 | 3 => 8 | 4 => 8 | 5 => 4 | 6 => 8 | 7 => 8 | 8 => 16 | 9 => 32 | 10 => 64
  | 11 => 8 | 12 => 16 | 13 => 16 | _ => 8

/-- An exact value: NaN (signalling or not), infinity, or (-1)^neg * m * 2^e. -/
inductive FVal where
  | nan (sig : Bool)
  | inf (neg : Bool)
  | fin (neg : Bool) (m : Nat) (e : Int)
deriving DecidableEq, Repr

/-- The code's all-ones exponent field. -/
def FloatFmt.emaxField (f : FloatFmt) : Nat := 2 ^ f.ebits - 1

/-- The largest finite encoding without its sign (Table 3.2). -/
def FloatFmt.maxFinite (f : FloatFmt) : Nat :=
  if f.hasInf then f.emaxField * 2 ^ f.fbits - 1
  else if f.hasNan then 2 ^ (f.ebits + f.fbits) - 2
  else 2 ^ (f.ebits + f.fbits) - 1

/-- The canonical NaN (R50); E2M1, which has none, converts a NaN to 0 (R59). -/
def FloatFmt.canonNan (f : FloatFmt) : Nat :=
  if !f.hasNan then 0
  else if f.hasInf then f.emaxField * 2 ^ f.fbits + 2 ^ (f.fbits - 1)
  else 2 ^ (f.ebits + f.fbits) - 1

/-- Infinity's encoding without its sign. -/
def FloatFmt.infBits (f : FloatFmt) : Nat := f.emaxField * 2 ^ f.fbits

/-- The sign bit in place. -/
def FloatFmt.signBit (f : FloatFmt) (neg : Bool) : Nat := bif neg then 2 ^ (f.ebits + f.fbits) else 0

/-- The value an encoding stands for (R49, R50, Table 3.2). -/
def decodeF (f : FloatFmt) (x : Nat) : FVal :=
  let neg := bitOf x (f.ebits + f.fbits)
  let e := bitsOf x f.fbits f.ebits
  let m := bitsOf x 0 f.fbits
  if e = f.emaxField ∧ f.hasInf then
    if m = 0 then .inf neg
    else .nan (f.fbits ≥ 7 && m < 2 ^ (f.fbits - 1))
  else if f.hasNan ∧ !f.hasInf ∧ e = f.emaxField ∧ m = 2 ^ f.fbits - 1 then .nan false
  else if e = 0 then .fin neg m (1 - (f.bias : Int) - f.fbits)
  else .fin neg (2 ^ f.fbits + m) ((e : Int) - f.bias - f.fbits)

/-- A subnormal encoding: exponent 0, fraction not 0. -/
def isSubnormal (f : FloatFmt) (x : Nat) : Bool := bitsOf x f.fbits f.ebits == 0 && bitsOf x 0 f.fbits != 0

/-- Reads an operand, a subnormal as a zero of its sign under flush-to-zero (R55). -/
def readF (f : FloatFmt) (ftz : Bool) (x : Nat) : FVal :=
  if ftz ∧ isSubnormal f x then .fin (bitOf x (f.ebits + f.fbits)) 0 0 else decodeF f x

/-- Whether a value is a signalling NaN. -/
def FVal.isSig : FVal → Bool
  | .nan s => s
  | _ => false

/-- Whether a value is a NaN. -/
def FVal.isNan : FVal → Bool
  | .nan _ => true
  | _ => false

/-! ## Rounding (R52-R55) -/

/-- Result bits and the flags raised. -/
structure FRes where
  bits : Nat
  fl : BitVec 5
deriving DecidableEq, Repr

/-- Whether the magnitude `n + r / 2^k` (plus something smaller when `st`) rounds up to n + 1, by mode code (Table 3.4). -/
def roundsUp (mode : Nat) (neg : Bool) (n r k : Nat) (st : Bool) : Bool :=
  let inexact := r != 0 || st
  match mode with
  | 0 => (2 * r > 2 ^ k || (2 * r == 2 ^ k && (st || n % 2 == 1)))
  | 1 => false
  | 2 => inexact && !neg
  | 3 => inexact && neg
  | _ => 2 * r ≥ 2 ^ k

/-- A magnitude m * 2^e (plus something smaller than one unit of m when `st`) rounded to a multiple of 2^q: the count
of units, and whether it is inexact. -/
def roundUnits (mode : Nat) (neg : Bool) (m : Nat) (e q : Int) (st : Bool) : Nat × Bool :=
  if q ≤ e then
    let n := m * 2 ^ (e - q).toNat
    (bif st && roundsUp mode neg n 0 1 true then n + 1 else n, st)
  else
    let k := (q - e).toNat
    let n := m / 2 ^ k
    let r := m % 2 ^ k
    (bif roundsUp mode neg n r k st then n + 1 else n, r != 0 || st)

/-- The exponent of the unit in the last place of m * 2^e in a format, its exponent range unbounded below when `wide`. -/
def unitExp (f : FloatFmt) (m : Nat) (e : Int) (wide : Bool) : Int :=
  let top := (Nat.log2 m : Int) + e
  let emin := 1 - (f.bias : Int)
  (if !wide && top < emin then emin else top) - f.fbits

/-- The magnitude bits of n * 2^q, with q a unit exponent of the format and n at most 2^(fbits + 1). -/
def packMag (f : FloatFmt) (n : Nat) (q : Int) : Nat :=
  let (n, q) := if n ≥ 2 ^ (f.fbits + 1) then (n / 2, q + 1) else (n, q)
  if n < 2 ^ f.fbits then n
  else ((q + f.fbits + f.bias).toNat) * 2 ^ f.fbits + (n - 2 ^ f.fbits)

/-- What overflow delivers, by mode and sign (R53). -/
def overflowMag (f : FloatFmt) (mode : Nat) (neg : Bool) : Nat :=
  let toInf := match mode with
    | 0 => true | 1 => false | 2 => !neg | 3 => neg | _ => true
  if f.hasInf && toInf then f.infBits else f.maxFinite

/-- Rounds (-1)^neg * m * 2^e (with sticky tail `st`) once to the format in a mode, flushing a subnormal result when
`ftz` (R53, R55, R57). -/
def roundF (f : FloatFmt) (mode : Nat) (ftz neg : Bool) (m : Nat) (e : Int) (st : Bool) : FRes :=
  if m = 0 then ⟨f.signBit neg, 0⟩
  else
    let q := unitExp f m e false
    let (n, inexact) := roundUnits mode neg m e q st
    let mag := packMag f n q
    if mag > f.maxFinite then ⟨f.signBit neg + overflowMag f mode neg, flOF ||| flNX⟩
    else
      let qw := unitExp f m e true
      let nw := (roundUnits mode neg m e qw st).1
      let tiny := (Nat.log2 nw : Int) + qw < 1 - (f.bias : Int)
      if ftz ∧ mag ≠ 0 ∧ mag < 2 ^ f.fbits then ⟨f.signBit neg, flUF ||| flNX⟩
      else ⟨f.signBit neg + mag, flagIf inexact flNX ||| flagIf (inexact && tiny) flUF⟩

/-- Delivers an exact value in a format: NaN canonical, infinities kept, finite rounded. -/
def deliver (f : FloatFmt) (mode : Nat) (ftz : Bool) (v : FVal) : FRes :=
  match v with
  | .nan _ => ⟨f.canonNan, 0⟩
  | .inf neg => ⟨f.signBit neg + (if f.hasInf then f.infBits else f.maxFinite), 0⟩
  | .fin neg m e => roundF f mode ftz neg m e false

/-- rne32 of an exact value (00 R11): FP32 bits, subnormals kept. -/
def rne32 (v : FVal) : Nat := (deliver fp32 0 false v).bits

/-! ## Exact operations on values -/

/-- Negation. -/
def FVal.neg : FVal → FVal
  | .nan s => .nan s
  | .inf n => .inf (!n)
  | .fin n m e => .fin (!n) m e

/-- The signed integer of a finite value at exponent `q` not above its own. -/
def scaledInt (neg : Bool) (m : Nat) (e q : Int) : Int :=
  let a : Int := (m * 2 ^ (e - q).toNat : Nat)
  if neg then -a else a

/-- Exact sum with its invalid flag; an exact zero sum of opposite signs is +0, or -0 under RDN (R53). -/
def addV (mode : Nat) (x y : FVal) : FVal × BitVec 5 :=
  match x, y with
  | .nan a, .nan b => (.nan false, flagIf (a || b) flNV)
  | .nan a, _ => (.nan false, flagIf a flNV)
  | _, .nan b => (.nan false, flagIf b flNV)
  | .inf a, .inf b => if a = b then (.inf a, 0) else (.nan false, flNV)
  | .inf a, _ => (.inf a, 0)
  | _, .inf b => (.inf b, 0)
  | .fin na ma ea, .fin nb mb eb =>
    let q := min ea eb
    let s := scaledInt na ma ea q + scaledInt nb mb eb q
    if s = 0 then
      let neg := if ma = 0 ∧ mb = 0 ∧ na = nb then na else mode == 3
      (.fin neg 0 0, 0)
    else (.fin (s < 0) s.natAbs q, 0)

/-- Exact product with its invalid flag (0 times infinity). -/
def mulV (x y : FVal) : FVal × BitVec 5 :=
  match x, y with
  | .nan a, .nan b => (.nan false, flagIf (a || b) flNV)
  | .nan a, _ => (.nan false, flagIf a flNV)
  | _, .nan b => (.nan false, flagIf b flNV)
  | .inf a, .inf b => (.inf (a != b), 0)
  | .inf a, .fin nb mb _ => if mb = 0 then (.nan false, flNV) else (.inf (a != nb), 0)
  | .fin na ma _, .inf b => if ma = 0 then (.nan false, flNV) else (.inf (na != b), 0)
  | .fin na ma ea, .fin nb mb eb => (.fin (na != nb) (ma * mb) (ea + eb), 0)

/-- a + b in a format. -/
def addF (f : FloatFmt) (mode : Nat) (ftz : Bool) (a b : Nat) : FRes :=
  let (v, fl) := addV mode (readF f ftz a) (readF f ftz b)
  let r := deliver f mode ftz v
  ⟨r.bits, r.fl ||| fl⟩

/-- a - b in a format. -/
def subF (f : FloatFmt) (mode : Nat) (ftz : Bool) (a b : Nat) : FRes :=
  let (v, fl) := addV mode (readF f ftz a) (readF f ftz b).neg
  let r := deliver f mode ftz v
  ⟨r.bits, r.fl ||| fl⟩

/-- a * b in a format. -/
def mulF (f : FloatFmt) (mode : Nat) (ftz : Bool) (a b : Nat) : FRes :=
  let (v, fl) := mulV (readF f ftz a) (readF f ftz b)
  let r := deliver f mode ftz v
  ⟨r.bits, r.fl ||| fl⟩

/-- a * b + c rounded once; 0 times infinity is invalid even with a quiet NaN addend (09 Table 9.3). -/
def fmaF (f : FloatFmt) (mode : Nat) (ftz : Bool) (a b c : Nat) : FRes :=
  let x := readF f ftz a
  let y := readF f ftz b
  let z := readF f ftz c
  let (p, fl1) := mulV x y
  let (v, fl2) := addV mode p z
  let r := deliver f mode ftz v
  ⟨r.bits, r.fl ||| fl1 ||| fl2⟩

/-- The quotient of two magnitudes as m * 2^e with a sticky tail, at least 70 significant bits. -/
def divMag (ma : Nat) (ea : Int) (mb : Nat) (eb : Int) : Nat × Int × Bool :=
  let k := 80 + Nat.log2 mb
  (ma * 2 ^ k / mb, ea - eb - k, ma * 2 ^ k % mb != 0)

/-- a / b in a format (09 Table 9.3). -/
def divF (f : FloatFmt) (mode : Nat) (ftz : Bool) (a b : Nat) : FRes :=
  let x := readF f ftz a
  let y := readF f ftz b
  match x, y with
  | .nan s, .nan t => ⟨f.canonNan, flagIf (s || t) flNV⟩
  | .nan s, _ => ⟨f.canonNan, flagIf s flNV⟩
  | _, .nan t => ⟨f.canonNan, flagIf t flNV⟩
  | .inf _, .inf _ => ⟨f.canonNan, flNV⟩
  | .inf s, .fin t _ _ => ⟨f.signBit (s != t) + f.infBits, 0⟩
  | .fin s _ _, .inf t => ⟨f.signBit (s != t), 0⟩
  | .fin s ma ea, .fin t mb eb =>
    if mb = 0 then
      if ma = 0 then ⟨f.canonNan, flNV⟩ else ⟨f.signBit (s != t) + f.infBits, flDZ⟩
    else if ma = 0 then ⟨f.signBit (s != t), 0⟩
    else
      let (m, e, st) := divMag ma ea mb eb
      roundF f mode ftz (s != t) m e st

/-- The integer square root of `x`, one bit of the root at a time from bit `n - 1` down. -/
def isqrtBits (x : Nat) : Nat → Nat → Nat
  | 0, r => r
  | n + 1, r => let c := r + 2 ^ n; isqrtBits x n (if c * c ≤ x then c else r)

/-- The integer square root, rounded down. -/
def isqrt (x : Nat) : Nat := isqrtBits x (Nat.log2 x / 2 + 1) 0

/-- The square root of m * 2^e as a magnitude with a sticky tail, at least 70 significant bits. -/
def sqrtMag (m : Nat) (e : Int) : Nat × Int × Bool :=
  let k := 160 + (e % 2).toNat
  let x := m * 2 ^ k
  let r := isqrt x
  (r, (e - k) / 2, r * r != x)

/-- The square root in a format (09 Table 9.3). -/
def sqrtF (f : FloatFmt) (mode : Nat) (ftz : Bool) (a : Nat) : FRes :=
  match readF f ftz a with
  | .nan s => ⟨f.canonNan, flagIf s flNV⟩
  | .inf neg => if neg then ⟨f.canonNan, flNV⟩ else ⟨f.infBits, 0⟩
  | .fin neg m e =>
    if m = 0 then ⟨f.signBit neg, 0⟩
    else if neg then ⟨f.canonNan, flNV⟩
    else
      let (r, q, st) := sqrtMag m e
      roundF f mode ftz false r q st

/-- Rounds an exact finite value to an integer in a mode: the signed integer and whether it is inexact. -/
def roundToInt (mode : Nat) (neg : Bool) (m : Nat) (e : Int) : Int × Bool :=
  let (n, inexact) := roundUnits mode neg m e 0 false
  (if neg then -(n : Int) else n, inexact)

/-- FRND: rounded to an integral value of its own format, NX never raised (09 Table 9.3). -/
def rndF (f : FloatFmt) (mode : Nat) (ftz : Bool) (a : Nat) : FRes :=
  match readF f ftz a with
  | .nan s => ⟨f.canonNan, flagIf s flNV⟩
  | .inf neg => ⟨f.signBit neg + f.infBits, 0⟩
  | .fin neg m e =>
    let (n, _) := roundToInt mode neg m e
    ⟨(roundF f 1 false neg n.natAbs 0 false).bits, 0⟩

/-! ## Comparison -/

/-- How two values that are no NaN compare. -/
def cmpV (x y : FVal) : Ordering :=
  match x, y with
  | .inf a, .inf b => if a = b then .eq else if a then .lt else .gt
  | .inf a, _ => if a then .lt else .gt
  | _, .inf b => if b then .gt else .lt
  | .fin na ma ea, .fin nb mb eb =>
    let q := min ea eb
    compare (scaledInt na ma ea q) (scaledInt nb mb eb q)
  | _, _ => .eq

/-- FMIN and FMAX (09 R172): -0 below +0, one NaN gives the other operand, a signalling NaN raises NV. Operands are
bits; a subnormal is read as zero when `ftz`. -/
def minMaxF (f : FloatFmt) (ftz max : Bool) (a b : Nat) : FRes :=
  let flush := fun x => if ftz ∧ isSubnormal f x then f.signBit (bitOf x (f.ebits + f.fbits)) else x
  let a := flush (a % 2 ^ f.width)
  let b := flush (b % 2 ^ f.width)
  let x := decodeF f a
  let y := decodeF f b
  let fl := flagIf (x.isSig || y.isSig) flNV
  if x.isNan ∧ y.isNan then ⟨f.canonNan, fl⟩
  else if x.isNan then ⟨b, fl⟩
  else if y.isNan then ⟨a, fl⟩
  else
    let aLess := match cmpV x y with
      | .lt => true
      | .gt => false
      | .eq => bitOf a (f.ebits + f.fbits)
    ⟨if aLess != max then a else b, fl⟩

/-- FCMP's condition and flag (09 R174, Table 7.9). -/
def cmpF (f : FloatFmt) (ftz : Bool) (c a b : Nat) : Bool × BitVec 5 :=
  let x := readF f ftz a
  let y := readF f ftz b
  let un := x.isNan || y.isNan
  let ordering := c == 2 || c == 3 || c == 4 || c == 5
  let fl := flagIf (x.isSig || y.isSig || (un && ordering)) flNV
  let o := cmpV x y
  let r := match c with
    | 0 => !un && o == .eq
    | 1 => un || o != .eq
    | 2 => !un && o == .lt
    | 3 => !un && o != .lt
    | 4 => !un && o != .gt
    | 5 => !un && o == .gt
    | 6 => un
    | _ => !un
  (r, fl)

/-- FCLASS (09 Table 9.4). -/
def classF (f : FloatFmt) (a : Nat) : Nat :=
  let neg := bitOf a (f.ebits + f.fbits)
  match decodeF f a with
  | .nan s => if s then 2 ^ 8 else 2 ^ 9
  | .inf n => if n then 1 else 2 ^ 7
  | .fin _ m _ =>
    if m = 0 then (if neg then 2 ^ 3 else 2 ^ 4)
    else if isSubnormal f a then (if neg then 2 ^ 2 else 2 ^ 5)
    else (if neg then 2 ^ 1 else 2 ^ 6)

/-! ## Saturation (R58) -/

/-- Clamps an exact integer by kind at a width and gives its low bits; unit is refused before this. -/
def satInt (kind n : Nat) (x : Int) : Nat :=
  match kind with
  | 1 => wrapInt n (max (-(2 ^ (n - 1) : Nat) : Int) (min x ((2 ^ (n - 1) : Nat) - 1)))
  | 2 => wrapInt n (max 0 (min x ((2 ^ n : Nat) - 1)))
  | _ => wrapInt n x

/-- Clamps a float result by kind (Table 3.7). -/
def satF (f : FloatFmt) (kind : Nat) (x : Nat) : Nat :=
  let neg := bitOf x (f.ebits + f.fbits)
  match kind, decodeF f x with
  | 0, _ => x
  | 1, .inf n => f.signBit n + f.maxFinite
  | 1, _ => x
  | 2, .nan _ => 0
  | 2, .inf n => if n then 0 else f.maxFinite
  | 2, .fin _ _ _ => if neg then 0 else x
  | _, .nan _ => 0
  | _, v => if neg then 0 else if cmpV v (.fin false 1 0) == .gt then f.bias * 2 ^ f.fbits else x

/-! ## The counter generator (R81) -/

/-- One round of the generator. -/
def qcgRound (xy : Nat × Nat) : Nat × Nat :=
  let x := (xy.1 + xy.2) % 2 ^ 64
  let y := ((xy.2 * 2 ^ 23 + xy.2 / 2 ^ 41) % 2 ^ 64) ^^^ x
  ((((x * 2 ^ 41 + x / 2 ^ 23) % 2 ^ 64) + 0xD6E8FEB86659FD93) % 2 ^ 64, y)

/-- qcg(k, c, s): the 32-bit output for a key, counter and stream. -/
def qcg (k c s : Nat) : Nat :=
  let y := (k % 2 ^ 64) ^^^ (s % 2 ^ 32 * 0x9E3779B97F4A7C15 % 2 ^ 64)
  let p := qcgRound (qcgRound (qcgRound (qcgRound (qcgRound (qcgRound (c % 2 ^ 64, y))))))
  (p.1 ^^^ p.2) / 2 ^ 32

/-! ## Stochastic rounding (R54) -/

/-- Rounds a finite value to the format in mode STO with draw `d`; a value beyond the largest finite gives what R59
gives. A zero neighbour takes the value's sign. -/
def roundSto (f : FloatFmt) (neg : Bool) (m : Nat) (e : Int) (d : Nat) : Nat :=
  if m = 0 then f.signBit neg
  else
    let q := unitExp f m e false
    if q ≤ e then
      let mag := packMag f (m * 2 ^ (e - q).toNat) q
      if mag > f.maxFinite then f.signBit neg + (if f.hasInf && f.fbits != 2 then f.infBits else f.maxFinite)
      else f.signBit neg + mag
    else
      let k := (q - e).toNat
      let n := m / 2 ^ k
      let r := m % 2 ^ k
      let beyond := packMag f n q ≥ f.maxFinite && r != 0 || packMag f n q > f.maxFinite
      if beyond then f.signBit neg + (if f.hasInf && f.fbits != 2 then f.infBits else f.maxFinite)
      else if r = 0 then f.signBit neg + packMag f n q
      else
        let t := (if neg then 2 ^ k - r else r) * 2 ^ 32 / 2 ^ k
        let up := (decide (d < t)) != neg
        f.signBit neg + packMag f (if up then n + 1 else n) q

/-! ## Conversions (R59, 09 Table 9.6) -/

/-- Narrowing to a small float: round in the mode, then saturate; infinities become the largest finite, NaN the
canonical NaN or 0. -/
def narrowSmall (f : FloatFmt) (mode : Nat) (v : FVal) : FRes :=
  match v with
  | .nan s => ⟨f.canonNan, flagIf (s || !f.hasNan) flNV⟩
  | .inf neg => ⟨f.signBit neg + f.maxFinite, flNV⟩
  | .fin neg m e =>
    if m = 0 then ⟨f.signBit neg, 0⟩
    else
      let q := unitExp f m e false
      let (n, inexact) := roundUnits mode neg m e q false
      let mag := packMag f n q
      if mag > f.maxFinite then ⟨f.signBit neg + f.maxFinite, flNX⟩
      else
        let qw := unitExp f m e true
        let tiny := (Nat.log2 (roundUnits mode neg m e qw false).1 : Int) + qw < 1 - (f.bias : Int)
        ⟨f.signBit neg + mag, flagIf inexact flNX ||| flagIf (inexact && tiny) flUF⟩

/-- Whether a format is one of FP32, FP16, BF16. -/
def isWideFloat (c : Nat) : Bool := c < 3

/-- The value bits of an operand in a format, cut to its width. -/
def fmtCut (c x : Nat) : Nat := x % 2 ^ fmtBits c

/-- Conversion between two formats (neither E8M0 nor Picot-8): bits and flags. -/
def convert (src dst mode sat : Nat) (ftz : Bool) (x : Nat) : FRes :=
  let x := fmtCut src x
  match floatOf src, floatOf dst with
  | some fs, some fd =>
    let v := readF fs (ftz && isWideFloat src) x
    if src = dst then
      let r : FRes := match v with
        | .nan s => ⟨fd.canonNan, flagIf s flNV⟩
        | _ => (⟨if ftz && isWideFloat src && isSubnormal fs x
                 then fs.signBit (bitOf x (fs.ebits + fs.fbits)) else x, 0⟩ : FRes)
      ⟨satF fd sat r.bits, r.fl⟩
    else if dst < 3 then
      let r := deliver fd mode ftz v
      ⟨satF fd sat r.bits, r.fl ||| flagIf v.isSig flNV⟩
    else
      let r := narrowSmall fd mode v
      ⟨satF fd sat r.bits, r.fl⟩
  | some fs, none =>
    match intOf dst with
    | none => ⟨0, 0⟩
    | some (n, sg) =>
      let lo : Int := if sg then -(2 ^ (n - 1) : Nat) else 0
      let hi : Int := if sg then (2 ^ (n - 1) : Nat) - 1 else (2 ^ n : Nat) - 1
      match readF fs (ftz && isWideFloat src) x with
      | .nan _ => ⟨0, flNV⟩
      | .inf neg => ⟨wrapInt n (if neg then lo else hi), flNV⟩
      | .fin neg m e =>
        let (i, inexact) := roundToInt mode neg m e
        if i < lo then ⟨wrapInt n lo, flNV⟩
        else if i > hi then ⟨wrapInt n hi, flNV⟩
        else ⟨wrapInt n i, flagIf inexact flNX⟩
  | none, some fd =>
    match intOf src with
    | none => ⟨0, 0⟩
    | some (n, sg) =>
      let i : Int := if sg then sextNat n x else (x : Nat)
      let r :=
        if dst < 3 then roundF fd mode ftz (i < 0) i.natAbs 0 false
        else narrowSmall fd mode (.fin (i < 0) i.natAbs 0)
      ⟨satF fd sat r.bits, r.fl⟩
  | none, none =>
    match intOf src, intOf dst with
    | some (n, sg), some (k, _) => ⟨satInt sat k (if sg then sextNat n x else (x : Nat)), 0⟩
    | _, _ => ⟨0, 0⟩

/-- A conversion by an engine, which has a SAT field of its own: a float narrowed to a small format by R59 also from that
same format, so that no infinity is delivered, and a float converted to an integer clamped by SAT after R59 (R58). -/
def convertSat (src dst mode sat x : Nat) : Nat :=
  match floatOf src, floatOf dst, intOf dst with
  | some fs, some fd, _ =>
    if src = dst ∧ 3 ≤ dst then satF fd sat (narrowSmall fd mode (readF fs false (fmtCut src x))).bits
    else (convert src dst mode sat false x).bits
  | some _, none, some (n, sg) =>
    let r := (convert src dst mode 0 false x).bits
    satInt sat n (if sg then sextNat n r else (r : Int))
  | _, _, _ => (convert src dst mode sat false x).bits

/-- Exact widening of a float of a format to FP32 bits, NaN canonical (R59). -/
def widen32 (f : FloatFmt) (x : Nat) : Nat := rne32 (decodeF f x)

/-! ## Microscaling and Picot-8 (R60-R65) -/

/-- The exact value of an MX element: an E4M3, E5M2 or E2M1 float, or INT8 as k * 2^-6 (Table 3.8). -/
def mxElem (fmt x : Nat) : FVal :=
  match floatOf fmt with
  | some f => decodeF f (fmtCut fmt x)
  | none => let i := sextNat 8 x; .fin (i < 0) i.natAbs (-6)

/-- A value times 2^(s - 127) for an E8M0 byte; 0xFF gives NaN (R49, R61). -/
def scaleE8 (s : Nat) (v : FVal) : FVal :=
  if s % 256 = 255 then .nan false
  else match v with
    | .fin n m e => .fin n m (e + (s % 256 : Nat) - 127)
    | v => v

/-- emax_elem of Table 3.8. -/
def mxEmax (fmt : Nat) : Int := match fmt with | 3 => 8 | 4 => 15 | 5 => 2 | _ => 0

/-- One packed element: the quotient rounded RNE, or STO with draw `d`, saturated to the element range (R62). -/
def mxPackElem (fmt : Nat) (d : Option Nat) (neg : Bool) (m : Nat) (e : Int) : Nat :=
  match floatOf fmt with
  | some f =>
    match d with
    | none => (narrowSmall f 0 (.fin neg m e)).bits
    | some d =>
      let r := roundSto f neg m e d
      if (decodeF f r).isNan then r else match decodeF f r with
        | .inf n => f.signBit n + f.maxFinite
        | _ => r
  | none =>
    let e := e + 6
    let i : Int := match d with
      | none => (roundToInt 0 neg m e).1
      | some d =>
        if 0 ≤ e then (if neg then -(m * 2 ^ e.toNat : Nat) else (m * 2 ^ e.toNat : Nat))
        else
          let k := (-e).toNat
          let n := m / 2 ^ k
          let r := m % 2 ^ k
          let t := (if neg then 2 ^ k - r else r) * 2 ^ 32 / 2 ^ k
          let up := r != 0 && ((decide (d < t)) != neg)
          let a : Int := (if up then n + 1 else n : Nat)
          if neg then -a else a
    wrapInt 8 (max (-128) (min i 127))

/-- The magnitude of a finite value with its exponent, largest of a list by exact comparison. -/
def maxMag : List FVal → FVal
  | [] => .fin false 0 0
  | v :: vs =>
    let r := maxMag vs
    match v with
    | .fin _ m e => match cmpV (.fin false m e) r with
      | .lt => r
      | _ => .fin false m e
    | _ => r

/-- Packs 32 values into one MX block: scale byte and elements; `draws` gives an element's draw under STO (R62). -/
def mxPack (fmt : Nat) (draws : Option (List Nat)) (vs : List FVal) : Nat × List Nat :=
  if vs.any (fun v => match v with | .fin _ _ _ => false | _ => true) then (255, vs.map fun _ => 0)
  else match maxMag vs with
    | .fin _ mm me =>
      if mm = 0 then
        (0, vs.map fun v => match v, floatOf fmt with
          | .fin n _ _, some f => f.signBit n
          | _, _ => 0)
      else
        let x := max (-127) (min ((Nat.log2 mm : Int) + me - mxEmax fmt) 127)
        let elem := fun (v : FVal) (d : Option Nat) => match v with
          | .fin n m e => if m = 0 then (match floatOf fmt with | some f => f.signBit n | none => 0)
                          else mxPackElem fmt d n m (e - x)
          | _ => 0
        ((x + 127).toNat, match draws with
          | none => vs.map fun v => elem v none
          | some ds => (vs.zip ds).map fun p => elem p.1 (some p.2))
    | _ => (0, vs.map fun _ => 0)

/-- The key of R64's sort for the tuple v: four times its sum of squares. -/
def picotKey (v : Nat) : Nat :=
  ((List.range 8).map fun i => (2 * (v / 3 ^ (7 - i) % 3) + 1) ^ 2).foldl (· + ·) 0

/-- The tuples of the first 512 patterns in R64's order: shells by key, each in ascending v. -/
def picotOrder : List Nat :=
  ([8, 16, 24, 32, 40, 48, 56].flatMap fun k => (List.range 6561).filter fun v => picotKey v == k).take 512

/-- Twice the signed weight of coordinate i of a Picot-8 index (R63, R65): an odd integer. -/
def picotWeight (idx i : Nat) : Int :=
  let v := picotOrder.getD (bitsOf idx 7 9) 0
  let a : Int := 2 * (v / 3 ^ (7 - i) % 3 : Nat) + 1
  let ones := ((List.range 7).filter fun k => bitOf idx k).length
  let neg := if i = 7 then ones % 2 == 1 else bitOf idx i
  if neg then -a else a

/-- The exact value of a Picot-8 coordinate. -/
def picotValue (idx i : Nat) : FVal :=
  let a := picotWeight idx i
  .fin (a < 0) a.natAbs (-1)

/-! ## Reductions (R74, R75, R77) -/

/-- One level of the reduction tree: neighbours joined, an odd last one passing up. -/
def pairUp {α : Type} (op : α → α → α) : List α → List α
  | a :: b :: r => op a b :: pairUp op r
  | l => l

/-- The reduction tree of R74 over a list, `fuel` levels. -/
def treeFold {α : Type} (op : α → α → α) : Nat → List α → List α
  | 0, l => l
  | n + 1, l => treeFold op n (pairUp op l)

/-- The reduction of a non-empty list by the tree of R74. -/
def reduceTree {α : Type} (op : α → α → α) (dflt : α) (l : List α) : α :=
  (treeFold op (Nat.log2 l.length + 1) l).headD dflt

/-- One step of R75 at distance d. -/
def scanStep {α : Type} (op : α → α → α) (d : Nat) (y : List α) : List α :=
  y.take d ++ (List.zipWith op y (y.drop d))

/-- The inclusive scan of R75: distances 1, 2, 4, ... below the length. -/
def scanTree {α : Type} (op : α → α → α) : Nat → Nat → List α → List α
  | 0, _, y => y
  | n + 1, d, y => if d < y.length then scanTree op n (2 * d) (scanStep op d y) else y

/-- FP32 addition with one rounding, canonical NaN (R77). -/
def fadd32 (a b : Nat) : Nat := (addF fp32 0 false a b).bits
/-- FP32 multiplication with one rounding. -/
def fmul32 (a b : Nat) : Nat := (mulF fp32 0 false a b).bits
/-- fma(a, b, c) := rne32(a * b + c) (13 R271). -/
def fma32 (a b c : Nat) : Nat := (fmaF fp32 0 false a b c).bits

end Sys2Proof.Machine
end

