-- ==== Sys2Proof/Syntax.lean ====
section
/-! DEFINITION. `Instr`: everything the S9 can be told to do, one constructor per row of the opcode table: the
instructions of core streams, prefix words, patch words of strands, template opcodes of engine commands, and the
events of the package (completions, protocol steps, driver commands, bring-up). Fields are the encoded fields of the
word, unread bits being none; the records that driver commands carry stand first. -/

namespace Sys2Proof

/-- The guard of a format A or W word (07 R121): predicate number and negation. -/
structure Guard where
  /-- qg: the predicate; 0 means always -/
  q : BitVec 3
  /-- gn: guard negate -/
  n : Bool
deriving DecidableEq, Repr, Inhabited

/-- Who acts: a thread (proof thread or control core), an engine of a tile, or the hub (05 R101). Threads are numbered
core * 1024 + slot for proof threads and 65536 + tile for control cores. -/
inductive Agent where
  | thread (tid : Nat)
  | engine (tile e : Nat)
  | hub
deriving DecidableEq, Repr, Inhabited

/-- A frame table entry as the driver writes it (19 R355, Table 19.8). -/
structure FrameEntry where
  frame : BitVec 32
  deadline : Word
  margin : BitVec 32
  nstep : BitVec 7
  dropm : Word
  fix : Bool
  fmask : Word
  od : Word
deriving DecidableEq, Repr, Inhabited

/-- A record control block (21 R373, Table 21.4). -/
structure RecordBlock where
  mode : BitVec 2
  nw : BitVec 5
  /-- watch ranges: base and length -/
  ranges : List (Word × BitVec 40)
  logbase : Word
  loglen : BitVec 32
  digbase : Word
  diglen : BitVec 40
deriving DecidableEq, Repr, Inhabited

/-- An address-space entry (23 R379, Table 23.1; KEYSLOT of 25 R421). -/
structure AsidEntry where
  root : BitVec 52
  tvec : BitVec 55
  cut : BitVec 57
  wdog : BitVec 6
  rlim : BitVec 40
  spool : BitVec 57
  splen : BitVec 40
  keyslot : BitVec 9
deriving DecidableEq, Repr, Inhabited

/-- Where an uncorrectable error lies (25 Table 25.5b). -/
inductive ErrPlace where
  /-- an HBM or L2 line, by physical address -/
  | hbm (pa : Nat)
  /-- an L1 line of a unit (tiles 0-95, proof cores 96 + core) -/
  | l1 (unit line : Nat)
  /-- a scratchpad offset of a tile -/
  | scratch (tile off : Nat)
  /-- a group-memory offset of a proof core -/
  | groupMem (core off : Nat)
  /-- registers, templates, queue state, accumulators, easel, slots, loop state of an agent -/
  | unitState (a : Agent)
  /-- a line of host memory, reached over Jalys Link -/
  | host (pa : Nat)
  /-- a line of another package's device memory, reached over PEER -/
  | peer (pkg pa : Nat)
deriving DecidableEq, Repr, Inhabited

/-- A read of a die's CECNT: the die, and the size of the read in bytes (25 R408, Table 25.1). -/
structure CountRead where
  die : Nat
  size : Nat
deriving DecidableEq, Repr, Inhabited

/-- A reading of the energy meters, the hub's first, when a die's stands at its allowance (19 R358). -/
structure MeterReading where
  die : Nat
  used : List Nat
deriving DecidableEq, Repr, Inhabited

/-- The instructions and events of the S9: core instructions, patch words and the package's own events in the order of the
opcode table, then the rows without operands, then what comes from outside the package. -/
inductive Instr where
  /-- NOP (R181): Changes nothing but the PC. -/
  | nop (g : Guard)
  /-- HALT (R183): Stops the issuing group or tile, and sends a halt report of KIND 3 with cause 0x00. -/
  | halt (g : Guard)
  /-- TRET (R382): Returns from a trap to c.tepc, restores the privilege level and restarts a tile's engines from the cut. -/
  | tret (g : Guard)
  /-- ADD (R163): 64-bit add, with optional saturation from a prefix. -/
  | add (g : Guard) (d a b : BitVec 6)
  /-- SUB (R163): 64-bit subtract. -/
  | sub (g : Guard) (d a b : BitVec 6)
  /-- MUL (R163): Low 64 bits of the product. -/
  | mul (g : Guard) (d a b : BitVec 6)
  /-- MAD (R163): Multiply and add into gd. -/
  | mad (g : Guard) (d a b : BitVec 6)
  /-- MULH (R163): High 64 bits of the signed product. -/
  | mulh (g : Guard) (d a b : BitVec 6)
  /-- MULHU (R163): High 64 bits of the unsigned product. -/
  | mulhu (g : Guard) (d a b : BitVec 6)
  /-- DIV (R163): Signed quotient, by Table 3.3. -/
  | div (g : Guard) (d a b : BitVec 6)
  /-- DIVU (R163): Unsigned quotient, by Table 3.3. -/
  | divu (g : Guard) (d a b : BitVec 6)
  /-- REM (R163): Signed remainder. -/
  | rem (g : Guard) (d a b : BitVec 6)
  /-- REMU (R163): Unsigned remainder. -/
  | remu (g : Guard) (d a b : BitVec 6)
  /-- MIN (R163): Signed minimum. -/
  | min (g : Guard) (d a b : BitVec 6)
  /-- MAX (R163): Signed maximum. -/
  | max (g : Guard) (d a b : BitVec 6)
  /-- MINU (R163): Unsigned minimum. -/
  | minu (g : Guard) (d a b : BitVec 6)
  /-- MAXU (R163): Unsigned maximum. -/
  | maxu (g : Guard) (d a b : BitVec 6)
  /-- ABS (R163): Signed absolute value. -/
  | abs (g : Guard) (d a : BitVec 6)
  /-- SEL (R165): Selects ga or gb by a predicate held in the guard fields; never guarded off. -/
  | sel (s : Guard) (d a b : BitVec 6)
  /-- AND (R163): Bitwise and. -/
  | and (g : Guard) (d a b : BitVec 6)
  /-- OR (R163): Bitwise or. -/
  | or (g : Guard) (d a b : BitVec 6)
  /-- XOR (R163): Bitwise exclusive or. -/
  | xor (g : Guard) (d a b : BitVec 6)
  /-- ANDN (R163): ga and not gb. -/
  | andn (g : Guard) (d a b : BitVec 6)
  /-- SHL (R163): Left shift by gb mod 64. -/
  | shl (g : Guard) (d a b : BitVec 6)
  /-- SHR (R163): Logical right shift. -/
  | shr (g : Guard) (d a b : BitVec 6)
  /-- SAR (R163): Arithmetic right shift. -/
  | sar (g : Guard) (d a b : BitVec 6)
  /-- ROTL (R163): Left rotation at 64 bits. -/
  | rotl (g : Guard) (d a b : BitVec 6)
  /-- CLZ (R163): Count of leading zero bits. -/
  | clz (g : Guard) (d a : BitVec 6)
  /-- CTZ (R163): Count of trailing zero bits. -/
  | ctz (g : Guard) (d a : BitVec 6)
  /-- POPC (R163): Count of one bits. -/
  | popc (g : Guard) (d a : BitVec 6)
  /-- BREV (R163): Bit reversal. -/
  | brev (g : Guard) (d a : BitVec 6)
  /-- CMP (R168): Writes a condition result to a predicate. -/
  | cmp (g : Guard) (c p : BitVec 3) (a b : BitVec 6)
  /-- CMP_AND (R168): Ands a condition result into a predicate. -/
  | cmpAnd (g : Guard) (c p : BitVec 3) (a b : BitVec 6)
  /-- CMP_OR (R168): Ors a condition result into a predicate. -/
  | cmpOr (g : Guard) (c p : BitVec 3) (a b : BitVec 6)
  /-- CMP_XOR (R168): Xors a condition result into a predicate. -/
  | cmpXor (g : Guard) (c p : BitVec 3) (a b : BitVec 6)
  /-- MOV (R163): Register copy. -/
  | mov (g : Guard) (d a : BitVec 6)
  /-- LLD (R266): Loads a layout register from two general registers. -/
  | lld (g : Guard) (l : BitVec 4) (a b : BitVec 6)
  /-- LSET (R266): Sets one field of a layout register. -/
  | lset (g : Guard) (l : BitVec 4) (a f : BitVec 6)
  /-- LGET (R266): Reads one field of a layout register. -/
  | lget (g : Guard) (d : BitVec 6) (l : BitVec 4) (f : BitVec 6)
  /-- LMOV (R266): Copies a layout register. -/
  | lmov (g : Guard) (l m : BitVec 4)
  /-- LEA_INDEXED (R163): Forms ga + gb × s without any access. -/
  | leaIndexed (g : Guard) (sz : BitVec 2) (d a b : BitVec 6)
  /-- BRA (R179): PC-relative branch, conditional through its guard. -/
  | bra (g : Guard) (off : BitVec 18)
  /-- CALL (R179): Branch that writes the return address to g14. -/
  | call (g : Guard) (off : BitVec 18)
  /-- CALLR (R179): Register-indirect call. -/
  | callr (g : Guard) (d a : BitVec 6)
  /-- JMPR (R179): Register-indirect jump. -/
  | jmpr (g : Guard) (a : BitVec 6)
  /-- RET (R179): Return to the address in ga. -/
  | ret (g : Guard) (a : BitVec 6)
  /-- EXIT (R181): Ends the thread after its port commands, and on a control core its strands, complete. -/
  | exit (g : Guard)
  /-- BRK (R182): Raises BREAKPOINT without completing. -/
  | brk (g : Guard)
  /-- TRAP (R182): Completes and raises TRAP with a 6-bit code. -/
  | trap (g : Guard) (code : BitVec 6)
  /-- YIELD (R352): The point at which a requested pre-emption stops the wave. -/
  | yield (g : Guard)
  /-- DFLUSH (R365): Waits for a deterministic-mode flush point and the close of its epoch; a checkpoint. -/
  | dflush (g : Guard)
  /-- FADD (R171): Floating-point add, rounded once. -/
  | fadd (g : Guard) (f : BitVec 2) (d a b : BitVec 6)
  /-- FSUB (R171): Floating-point subtract. -/
  | fsub (g : Guard) (f : BitVec 2) (d a b : BitVec 6)
  /-- FMUL (R171): Floating-point multiply. -/
  | fmul (g : Guard) (f : BitVec 2) (d a b : BitVec 6)
  /-- FFMA (R171): Fused multiply-add into gd, rounded once. -/
  | ffma (g : Guard) (f : BitVec 2) (d a b : BitVec 6)
  /-- FMIN (R172): Floating-point minimum with NaN and signed-zero rules. -/
  | fmin (g : Guard) (f : BitVec 2) (d a b : BitVec 6)
  /-- FMAX (R172): Floating-point maximum. -/
  | fmax (g : Guard) (f : BitVec 2) (d a b : BitVec 6)
  /-- FABS (R173): Clears the sign bit. -/
  | fabs (g : Guard) (f : BitVec 2) (d a : BitVec 6)
  /-- FNEG (R173): Inverts the sign bit. -/
  | fneg (g : Guard) (f : BitVec 2) (d a : BitVec 6)
  /-- FCMP (R174): Floating-point compare into a predicate. -/
  | fcmp (g : Guard) (f : BitVec 2) (c p : BitVec 3) (a b : BitVec 6)
  /-- FDIV (R171): Correctly rounded divide. -/
  | fdiv (g : Guard) (f : BitVec 2) (d a b : BitVec 6)
  /-- FSQRT (R171): Correctly rounded square root. -/
  | fsqrt (g : Guard) (f : BitVec 2) (d a : BitVec 6)
  /-- FRCP (R175): Reciprocal by the strip S algorithm. -/
  | frcp (g : Guard) (f : BitVec 2) (d a : BitVec 6)
  /-- FRSQ (R175): Reciprocal square root by the strip S algorithm. -/
  | frsq (g : Guard) (f : BitVec 2) (d a : BitVec 6)
  /-- FEXP2 (R175): 2 to the power a, by the strip S algorithm. -/
  | fexp2 (g : Guard) (f : BitVec 2) (d a : BitVec 6)
  /-- FLOG2 (R175): Log base 2, by the strip S algorithm. -/
  | flog2 (g : Guard) (f : BitVec 2) (d a : BitVec 6)
  /-- FSIN (R176): Sine of an argument in turns, correctly rounded. -/
  | fsin (g : Guard) (f : BitVec 2) (d a : BitVec 6)
  /-- FCOS (R176): Cosine of an argument in turns. -/
  | fcos (g : Guard) (f : BitVec 2) (d a : BitVec 6)
  /-- FRND (R171): Rounds to an integral value of the same format. -/
  | frnd (g : Guard) (f : BitVec 2) (d a : BitVec 6)
  /-- FCLASS (R173): Writes a one-hot class code. -/
  | fclass (g : Guard) (f : BitVec 2) (d a : BitVec 6)
  /-- LD_INDEXED (R184): Zero-extending load at ga + gb × size. -/
  | ldIndexed (g : Guard) (sz : BitVec 2) (d a b : BitVec 6)
  /-- LD_SX_INDEXED (R184): Sign-extending indexed load. -/
  | ldSxIndexed (g : Guard) (sz : BitVec 2) (d a b : BitVec 6)
  /-- ST_INDEXED (R184): Indexed store of the low bits of gd. -/
  | stIndexed (g : Guard) (sz : BitVec 2) (d a b : BitVec 6)
  /-- LD_ACQ_INDEXED (R186): Indexed acquire load. -/
  | ldAcqIndexed (g : Guard) (sz : BitVec 2) (d a b : BitVec 6)
  /-- ST_REL_INDEXED (R186): Indexed release store. -/
  | stRelIndexed (g : Guard) (sz : BitVec 2) (d a b : BitVec 6)
  /-- FENCE_FULL (R103): Orders every earlier access before every later one. -/
  | fenceFull (g : Guard)
  /-- FENCE_ACQ (R103): Orders earlier loads before later accesses. -/
  | fenceAcq (g : Guard)
  /-- FENCE_REL (R103): Orders earlier accesses before later stores. -/
  | fenceRel (g : Guard)
  /-- FENCE_PORT (R207): Waits until every port command the thread pushed has completed. -/
  | fencePort (g : Guard)
  /-- MON (R193): Arms the thread's monitor on a 128-byte block and keeps its bytes as the reference. -/
  | mon (g : Guard) (a : BitVec 6)
  /-- MWAIT (R194): Parks until the monitor is triggered. -/
  | mwait (g : Guard)
  /-- SEMWAIT (R198): Checks a semaphore against a threshold and parks if it is not met, optionally consuming it. -/
  | semwait (g : Guard) (a b : BitVec 6)
  /-- SEMSIG (R197): Release, then an increment of a named semaphore. -/
  | semsig (g : Guard) (a b : BitVec 6)
  /-- DEQP (R204): Pops the result of the oldest outstanding command on a port, waiting for it to complete. -/
  | deqp (g : Guard) (d p : BitVec 6)
  /-- PORTQ (R205): Reads a port's state for the thread. -/
  | portq (g : Guard) (d p : BitVec 6)
  /-- JOIN (R214): Parks until every live thread of the group is at the same JOIN. -/
  | join (g : Guard)
  /-- FLRD (R226): Reads the thread's sticky flags. -/
  | flrd (g : Guard) (d : BitVec 6)
  /-- FLCL (R226): Clears the sticky flags named by ga. -/
  | flcl (g : Guard) (a : BitVec 6)
  /-- GANGQ (R220): Writes the shape of the issuing gang. -/
  | gangq (g : Guard) (d : BitVec 6)
  /-- DIVB (R213): Marked divergent branch that gathers every live thread of the group before branching. -/
  | divb (g : Guard) (off : BitVec 18)
  /-- RBGET (R227): Maps a register block, taking the reserve block or parking when none is free. -/
  | rbget (g : Guard) (b : BitVec 6)
  /-- RBPUT (R228): Returns a register block; a parked RBGET may be granted it in the same cycle. -/
  | rbput (g : Guard) (b : BitVec 6)
  /-- LEND (R180): Decrements the matching loop-stack count and loops back or pops. -/
  | lend (g : Guard)
  /-- HALLOC (R293): Places a hoop on the lowest free queue and writes its identifier. -/
  | halloc (g : Guard) (p : BitVec 3) (d a : BitVec 6)
  /-- HFREE (R296): Waits for a hoop to drain, then releases it. -/
  | hfree (g : Guard) (a : BitVec 6)
  /-- HRSH (R297): Replaces a set of drained hoops with a new set, atomically. -/
  | hrsh (g : Guard) (d a b : BitVec 6)
  /-- ERES (R300): Reserves an easel range and record. -/
  | eres (g : Guard) (d a b : BitVec 6)
  /-- EREL (R301): Waits for the commands naming an easel record, then frees it. -/
  | erel (g : Guard) (a : BitVec 6)
  /-- ESET (R302): Rewrites the RW fields of an easel record. -/
  | eset (g : Guard) (a b : BitVec 6)
  /-- TMLD (R249): Loads a template working copy, waiting for a running strand to fetch SDONE. -/
  | tmld (g : Guard) (k a e : BitVec 6)
  /-- ADDI (R166): Add of a 12-bit signed immediate. -/
  | addi (d a : BitVec 6) (imm : BitVec 12)
  /-- CMPI (R168): Compare with a 12-bit immediate into a predicate. -/
  | cmpi (c p : BitVec 3) (a : BitVec 6) (imm : BitVec 12)
  /-- MOVI (R166): Loads an 18-bit signed immediate. -/
  | movi (d : BitVec 6) (imm : BitVec 18)
  /-- LD_B_SHORT (R184): Byte load at ga + imm12. -/
  | ldBShort (d a : BitVec 6) (imm : BitVec 12)
  /-- LD_H_SHORT (R184): Half-word load at ga + imm12. -/
  | ldHShort (d a : BitVec 6) (imm : BitVec 12)
  /-- LD_W_SHORT (R184): Word load at ga + imm12. -/
  | ldWShort (d a : BitVec 6) (imm : BitVec 12)
  /-- LD_D_SHORT (R184): Double-word load at ga + imm12. -/
  | ldDShort (d a : BitVec 6) (imm : BitVec 12)
  /-- LD_SX_B_SHORT (R184): Sign-extending byte load at ga + imm12. -/
  | ldSxBShort (d a : BitVec 6) (imm : BitVec 12)
  /-- LD_SX_H_SHORT (R184): Sign-extending half-word load. -/
  | ldSxHShort (d a : BitVec 6) (imm : BitVec 12)
  /-- LD_SX_W_SHORT (R184): Sign-extending word load. -/
  | ldSxWShort (d a : BitVec 6) (imm : BitVec 12)
  /-- ST_B_SHORT (R184): Byte store at ga + imm12. -/
  | stBShort (d a : BitVec 6) (imm : BitVec 12)
  /-- ST_H_SHORT (R184): Half-word store at ga + imm12. -/
  | stHShort (d a : BitVec 6) (imm : BitVec 12)
  /-- ST_W_SHORT (R184): Word store at ga + imm12. -/
  | stWShort (d a : BitVec 6) (imm : BitVec 12)
  /-- ST_D_SHORT (R184): Double-word store at ga + imm12. -/
  | stDShort (d a : BitVec 6) (imm : BitVec 12)
  /-- PREF (R187): Prefetch hint that never faults and orders nothing. -/
  | pref (k : BitVec 2) (a : BitVec 6) (imm : BitVec 12)
  /-- RNGB (R208): Writes 32 counter-generator bits for c.rkey, the counter in ga and a stream number. -/
  | rngb (d a : BitVec 6) (imm : BitVec 12)
  /-- PFX (R133): A raw prefix word that begins a prefixed instruction sequence. -/
  | pfx (kind : BitVec 3) (v : BitVec 27)
  /-- MOVI_WIDE (R166): Loads a sign-extended 32-bit immediate. -/
  | moviWide (g : Guard) (d : BitVec 6) (imm : BitVec 32)
  /-- MOVI_HI (R166): Writes the upper 32 bits of gd. -/
  | moviHi (g : Guard) (d : BitVec 6) (imm : BitVec 32)
  /-- ADDI_WIDE (R166): Add of a 32-bit signed immediate. -/
  | addiWide (g : Guard) (d a : BitVec 6) (imm : BitVec 32)
  /-- LEA_IMM (R166): Forms ga + imm32 without any access. -/
  | leaImm (g : Guard) (d a : BitVec 6) (imm : BitVec 32)
  /-- LD_OFFSET32 (R184): Load at ga + a 32-bit offset. -/
  | ldOffset32 (g : Guard) (sz : BitVec 2) (d a : BitVec 6) (imm : BitVec 32)
  /-- LD_SX_OFFSET32 (R184): Sign-extending load at ga + a 32-bit offset. -/
  | ldSxOffset32 (g : Guard) (sz : BitVec 2) (d a : BitVec 6) (imm : BitVec 32)
  /-- ST_OFFSET32 (R184): Store at ga + a 32-bit offset. -/
  | stOffset32 (g : Guard) (sz : BitVec 2) (d a : BitVec 6) (imm : BitVec 32)
  /-- LD_ACQ_OFFSET32 (R186): Acquire load at ga + a 32-bit offset. -/
  | ldAcqOffset32 (g : Guard) (sz : BitVec 2) (d a : BitVec 6) (imm : BitVec 32)
  /-- ST_REL_OFFSET32 (R186): Release store at ga + a 32-bit offset. -/
  | stRelOffset32 (g : Guard) (sz : BitVec 2) (d a : BitVec 6) (imm : BitVec 32)
  /-- ATOM (R189): Indivisible read-modify-write of the operation in the second word; returns the old value. -/
  | atom (g : Guard) (ord : BitVec 2) (d a b : BitVec 6) (disp : BitVec 16) (dbl : Bool) (op : BitVec 4)
  /-- CAS (R190): Compare-and-swap; returns the old value. -/
  | cas (g : Guard) (ord : BitVec 2) (d a b : BitVec 6) (disp : BitVec 16) (dbl : Bool)
  /-- CSRR (R209): Reads a CSR, clearing RC fields. -/
  | csrr (g : Guard) (d : BitVec 6) (csr : BitVec 12)
  /-- CSRW (R209): Writes a CSR under each field's access code. -/
  | csrw (g : Guard) (a : BitVec 6) (csr : BitVec 12)
  /-- CSRS (R209): Sets bits of a CSR. -/
  | csrs (g : Guard) (a : BitVec 6) (csr : BitVec 12)
  /-- EXTB (R167): Zero-extending bit-field extract. -/
  | extb (g : Guard) (d a pos : BitVec 6) (width : BitVec 7)
  /-- EXTB_SX (R167): Sign-extending bit-field extract. -/
  | extbSx (g : Guard) (d a pos : BitVec 6) (width : BitVec 7)
  /-- INSB (R167): Bit-field insert. -/
  | insb (g : Guard) (d a pos : BitVec 6) (width : BitVec 7)
  /-- QOP (R169): Any function of two predicates, by truth table. -/
  | qop (g : Guard) (p qa qb : BitVec 3) (tt : BitVec 4)
  /-- FCVT (R178): Converts between formats. -/
  | fcvt (g : Guard) (d a : BitVec 6) (src dst : BitVec 4)
  /-- LOOP (R180): Pushes a counted loop entry, or skips the body on a zero count. -/
  | loop (g : Guard) (a : BitVec 6) (imm : BitVec 32)
  /-- VOTE (R222): Lane-set vote on a predicate or flag, completing once every live member arrives. -/
  | vote (g : Guard) (d : BitVec 6) (idx : BitVec 3) (flag : Bool) (kind : BitVec 4) (mask : BitVec 32)
  /-- SHFL (R223): Lane shuffle among members. -/
  | shfl (g : Guard) (d a b : BitVec 6) (mask : BitVec 32)
  /-- REDX (R224): Lane reduction by the fixed tree. -/
  | redx (g : Guard) (d a : BitVec 6) (cls : BitVec 2) (kind : BitVec 4) (mask : BitVec 32)
  /-- TEX (R234): Filtered texture sample. -/
  | tex (g : Guard) (d a b l : BitVec 6)
  /-- TEXG (R235): Gathers one channel of a bilinear footprint. -/
  | texg (g : Guard) (d a b l : BitVec 6) (ch : BitVec 2)
  /-- TEXQ (R236): Queries the extent of a texture level. -/
  | texq (g : Guard) (d a b : BitVec 6)
  /-- RAYBOX (R239): Ray against an axis-aligned box. -/
  | raybox (g : Guard) (d a b : BitVec 6) (p : BitVec 3)
  /-- RAYTRI (R240): Ray against a triangle. -/
  | raytri (g : Guard) (d a b : BitVec 6) (p : BitVec 3)
  /-- RAST (R243): Coverage test with the top-left rule. -/
  | rast (g : Guard) (a b : BitVec 6) (p : BitVec 3)
  /-- BARY (R244): Barycentric weights at a sample. -/
  | bary (g : Guard) (d a b : BitVec 6)
  /-- XOP (R329): Evaluates a tatting pattern slot on each thread of the gang. -/
  | xop (g : Guard) (d a b c : BitVec 6) (k : BitVec 4)
  /-- PATLD (R326): Validates and installs a pattern image in a slot, waiting as needed. -/
  | patld (g : Guard) (a : BitVec 6) (k : BitVec 4)
  /-- PATDR (R327): Empties a pattern slot after its bound commands complete. -/
  | patdr (g : Guard) (k : BitVec 4)
  /-- PATQ (R328): Reads the ID of a slot's pattern. -/
  | patq (g : Guard) (d : BitVec 6) (k : BitVec 4)
  /-- FORK (R246): Starts a strand on an engine at an address, as a release. -/
  | fork (g : Guard) (a : BitVec 6) (n : BitVec 4)
  /-- FORK_TOKEN (R247): FORK with no address: pushes one token from E0 to the engine. -/
  | forkToken (g : Guard) (n : BitVec 4)
  /-- RDV (R248): Waits for a token from each named engine and pops them together. -/
  | rdv (g : Guard) (mask : BitVec 9)
  /-- SPAWN (R347): Enqueues a child node of the spawning wave. -/
  | spawn (g : Guard) (a : BitVec 6)
  /-- TENQ (R345): Appends a node address to a task queue, indivisibly at its home. -/
  | tenq (g : Guard) (d a b : BitVec 6)
  /-- WDONE (R351): Declares the group's results ready for its wave's successors. -/
  | wdone (g : Guard)
  /-- SSYNC (R353): Superstep barrier across every group of a print wave. -/
  | ssync (g : Guard)
  /-- GOVRD (R356): Reports a step to the frame governor, or queries it, and reads the step mask. -/
  | govrd (g : Guard) (d : BitVec 6)
  /-- ENQP (R203): Pushes a 128-bit command on an engine port, parking while the port is busy. -/
  | enqp (g : Guard) (a b p : BitVec 6)
  /-- ENQP_NB (R203): Non-blocking port push that reports success in a predicate. -/
  | enqpNb (g : Guard) (q : BitVec 3) (a b p : BitVec 6)
  /-- AMEND (R144): Patch word that amends a field of a template working copy. -/
  | amend (t : BitVec 6) (f : BitVec 5) (v : BitVec 16)
  /-- ISSUE_FIELD (R144): Patch word that amends a field, then issues the template as a command. -/
  | issueField (t : BitVec 6) (f : BitVec 5) (v : BitVec 16)
  /-- ISSUE (R143): Patch word that issues a template unchanged, giving the command the next sequence number. -/
  | issue (t : BitVec 6)
  /-- ISSUE_ADD (R144): Patch word that adds to a field, then issues. -/
  | issueAdd (t : BitVec 6) (f : BitVec 5) (v : BitVec 16)
  /-- IDLE (R256): Patch word that holds the sequencer for a number of cycles. -/
  | idle (v : BitVec 16)
  /-- SLOOP (R257): Patch word that opens a modulo-scheduled strand loop. -/
  | sloop (b : BitVec 6) (st : BitVec 3) (n : BitVec 13)
  /-- COMMAND_COMPLETE (R253): An engine command completes, pushes its tokens, and for a port command delivers its result element. -/
  | commandComplete (seq : BitVec 32)
  /-- SEM_INCREMENT_APPLY (R199): The semaphore block applies arriving increments, then examines parked and new waits in order. -/
  | semIncrementApply (tile : Nat)
  /-- REMOTE_WAIT_ADMIT (R200): A remote SEMWAIT held in the hub queue is examined when a place frees. -/
  | remoteWaitAdmit (tile : Nat)
  /-- CONVERGENCE_TEST (R218): Within 64 cycles of a park or exit, a group is tested for collectives that can never complete. -/
  | convergenceTest (gid : Nat)
  /-- SERVICE_CHECK (R27): Every 64 cycles the issue stage serves the thread with the longest wait of at least 256 cycles. -/
  | serviceCheck (core : Nat)
  /-- FENCE_COMPLETE (R188): A parked fence's earlier accesses are performed, and the thread re-enters the table. -/
  | fenceComplete (tid : Nat)
  /-- SSYNC_COMPLETE (R353): Every group's k-th SSYNC has its conditions, and all complete in one cycle. -/
  | ssyncComplete (wave : Nat)
  /-- WDONE_COMPLETE (R351): WDONE's waits end; the group and possibly the wave become done, and successors leave Pending. -/
  | wdoneComplete (gid : Nat)
  /-- GOVRD_COMPLETE (R356): A report or query gathers every group, the rule is applied, and the mask is published. -/
  | govrdComplete (wave : Nat)
  /-- EPOCH_CLOSE (R364): Every group has reached its k-th flush point; buffered writes are applied and waiters continue. -/
  | epochClose (wave : Nat)
  /-- GROUP_END (R39): A group's last thread or control core has exited with its waits complete; leftover tokens and hoops are freed. -/
  | groupEnd (gid : Nat)
  /-- WAVE_RETIRE (R41): Every group has ended and every write and command is complete; the footprint is released. -/
  | waveRetire (wave : Nat)
  /-- GROUP_START (R38): A placed unit finishes its L1 write-back and scratchpad zeroing, and the group begins. -/
  | groupStart (wave : Nat)
  /-- PREEMPT_DEADLINE (R350): 190,000 cycles after a request, the wave stops at instruction boundaries without a YIELD. -/
  | preemptDeadline (wave : Nat)
  /-- DRAIN_DEADLINE (R395): 190,000 cycles into a drain, the remaining groups are saved. -/
  | drainDeadline (wave : Nat)
  /-- SAVE_COMPLETE (R396): A wave's save buffer is written, and a report of KIND 5 is sent. -/
  | saveComplete (wave : Nat)
  /-- TILE_STOP_COMPLETE (R387): Every engine of a stopping tile has reached completion, a cursor or not-started. -/
  | tileStopComplete (tile : Nat)
  /-- WATCHDOG_EXPIRY (R399): A wait has lasted 2^w cycles of Running time, and WATCHDOG is raised. -/
  | watchdogExpiry (unit : Agent)
  /-- PATTERN_ENTRY_EVICTABLE (R324): A pattern store entry becomes evictable by age, so a waiting PATLD can proceed. -/
  | patternEntryEvictable (core : Nat)
  /-- REPLAY_GATE_TIMEOUT (R375): A request held 2^20 hub cycles at an order gate raises REPLAY_DIVERGENCE and is withdrawn. -/
  | replayGateTimeout (line : Nat)
  /-- HOME_ADMIT_READ_SHARED (R93): A home slice admits a read-shared request for a line. -/
  | homeAdmitReadShared (line : Nat)
  /-- HOME_ADMIT_READ_EXCLUSIVE (R93): A home slice admits a read-exclusive request. -/
  | homeAdmitReadExclusive (line : Nat)
  /-- HOME_ADMIT_UPGRADE (R95): A home admits an upgrade, converting it to a read-exclusive when required. -/
  | homeAdmitUpgrade (line : Nat)
  /-- HOME_WRITEBACK_ARRIVE (R96): A write-back reaches its home, which accepts it in any state. -/
  | homeWritebackArrive (line unit : Nat)
  /-- HOME_INVALIDATION_ACK (R94): An invalidation acknowledgement reaches the home. -/
  | homeInvalidationAck (line unit : Nat)
  /-- HOME_FETCH_DATA_ARRIVE (R94): Data awaited from HBM or a peer home arrives. -/
  | homeFetchDataArrive (line : Nat)
  /-- HOME_FORWARD_RESPONSE (R96): An owner's response to a forwarded request reaches the home. -/
  | homeForwardResponse (line : Nat)
  /-- L1_INVALIDATION_RECEIVE (R95): An L1 receives an invalidation and acknowledges it. -/
  | l1InvalidationReceive (line unit : Nat)
  /-- L1_FORWARD_RECEIVE (R96): An owner L1 answers a forwarded request, from its write-back buffer if needed. -/
  | l1ForwardReceive (line unit : Nat)
  /-- L1_GRANT_RECEIVE (R93): A grant reaches an L1, and the waiting store or load is performed. -/
  | l1GrantReceive (line unit : Nat)
  /-- L1_WRITEBACK_ACK (R96): The home's write-back acknowledgement frees the L1 buffer. -/
  | l1WritebackAck (line unit : Nat)
  /-- HOME_ATOMIC_PERFORM (R99): A home performs an atomic, CAS or TENQ indivisibly. -/
  | homeAtomicPerform (line : Nat)
  /-- REDIRECTED_ATOMIC_RESEND (R100): The requester sends a redirected atomic to the new home once the new translation is visible. -/
  | redirectedAtomicResend (tid : Nat)
  /-- PEER_TIMEOUT (R424): A PEER access to a package silent for 2 ms ends with ACCESS_FAULT. -/
  | peerTimeout (a : Agent)
  /-- RETRAIN_WINDOW_END (R411): A retraining window ends, and held transfers move in order. -/
  | retrainWindowEnd (n : Nat)
  /-- SELF_TEST_DONE (R429): Links are trained and SRAMs have passed, so HBM training begins, or bring-up fails. -/
  | selfTestDone (err : Nat)
  /-- HBM_TRAINING_DONE (R429): Every HBM stack is trained, so initialisation begins. -/
  | hbmTrainingDone (err : Nat)
  /-- HBM_INIT_DONE (R429): Every line is written; READY is set, c.cycle is zeroed and feature negotiation begins. -/
  | hbmInitDone (err : Nat)
  /-- ILLEGAL_INSTRUCTION_ENCODING (R134): A core word or patch word whose encoding is unused (all-zero word, a cell marked —, selector 0b11 in a core stream, selectors 0b00–0b10 or actions 0b110–0b111 in a strand) is fetched and raises ILLEGAL_INSTRUCTION. -/
  | illegalInstructionEncoding (w : Half)
  /-- REMOTE_SCRATCHPAD_ACCESS (R87): A load, store or atomic sent uncached through the hub to another tile's scratchpad window reaches the target tile and is performed there, serialised with that tile's own accesses. -/
  | remoteScratchpadAccess (tid : Nat)
  /-- HOST_TRANSACTION_COMPLETE (R113): A device load, store or atomic to HOST memory is performed at the companion processor and its Jalys Link response or acknowledgement returns to the requester. -/
  | hostTransactionComplete (tid : Nat)
  /-- SDONE (R147): Patch word that ends the strand; the engine idles once its commands complete. -/
  | sdone
  /-- IDLE_END (R256): The idle count expires and the next patch word is fetched. -/
  | idleEnd
  /-- SEQUENCER_RESUME (R251): A place frees among the 16 issued-not-started commands, and patch fetch or port intake resumes. -/
  | sequencerResume
  /-- PORT_COMMAND_TAKE (R255): An engine takes a port command at an entry boundary, copies the template and applies its overrides. -/
  | portCommandTake
  /-- VADD (R270): Strip A element-wise add. -/
  | vadd
  /-- VSUB (R270): Strip A element-wise subtract. -/
  | vsub
  /-- VMUL (R270): Strip A element-wise multiply. -/
  | vmul
  /-- VFMA (R270): Strip A fused multiply-add. -/
  | vfma
  /-- VMIN (R270): Strip A minimum. -/
  | vmin
  /-- VMAX (R270): Strip A maximum. -/
  | vmax
  /-- VABS (R270): Strip A absolute value. -/
  | vabs
  /-- VCMP (R270): Strip A compare to 0 or 1. -/
  | vcmp
  /-- VSEL (R269): Strip A select by a UINT8 mask. -/
  | vsel
  /-- VLOG (R269): Strip A bitwise logic by truth table. -/
  | vlog
  /-- VSHF (R269): Strip A shifts and rotates. -/
  | vshf
  /-- VIDLE (R269): Occupies strip A for COUNT cycles. -/
  | vidle
  /-- VIDLE_END (R269): The VIDLE cycle count expires and the command completes. -/
  | vidleEnd
  /-- VXOP (R330): Evaluates a tatting pattern on every lane of strip A. -/
  | vxop
  /-- VEXP2 (R274): Strip S exp2 by the table algorithm. -/
  | vexp2
  /-- VLOG2 (R274): Strip S log2. -/
  | vlog2
  /-- VRCP (R274): Strip S reciprocal. -/
  | vrcp
  /-- VRSQ (R274): Strip S reciprocal square root. -/
  | vrsq
  /-- VSQRT (R274): Strip S correctly rounded square root. -/
  | vsqrt
  /-- VCVT (R269): Strip C format conversion. -/
  | vcvt
  /-- VPACKMX (R275): Strip C packing into MX blocks. -/
  | vpackmx
  /-- VUNPK (R275): Strip C decoding of MX or Picot-8 operands. -/
  | vunpk
  /-- VSCALE (R269): Strip C scaling by a power of two. -/
  | vscale
  /-- VSRND (R273): Strip C stochastic rounding or dropout from a draw record. -/
  | vsrnd
  /-- VRED (R275): Strip X reduction by the fixed tree. -/
  | vred
  /-- VSCAN (R275): Strip X inclusive scan. -/
  | vscan
  /-- VPERM (R275): Strip X permutation within vectors. -/
  | vperm
  /-- VBCAST (R275): Strip X broadcast. -/
  | vbcast
  /-- VTRN (R275): Strip X transpose. -/
  | vtrn
  /-- CPY (R279): Copy engine element copy. -/
  | cpy
  /-- GATH (R280): Copy engine row gather by an index list. -/
  | gath
  /-- SCAT (R280): Copy engine row scatter by an index list. -/
  | scat
  /-- MCST (R279): Copy engine multicast into the scratchpads of a group set. -/
  | mcst
  /-- HALO (R281): Copy engine edge copy into a neighbouring group's scratchpad. -/
  | halo
  /-- COLL (R282): Copy engine collective across ranks, by the fixed tree. -/
  | coll
  /-- DPOS (R283): Copy engine deposit whose counts travel with the data. -/
  | dpos
  /-- WLD (R308): Hoop weight load, setting the weight state. -/
  | wld
  /-- MMA (R309): Hoop matrix multiply-accumulate in the fixed summation order. -/
  | mma
  /-- MMW (R311): Hoop multiply with A fed through a convolution window. -/
  | mmw
  /-- ACRD (R312): Reads accumulator words to scratchpad, converting and optionally clearing. -/
  | acrd
  /-- ACZ (R312): Zeroes accumulator words. -/
  | acz
  /-- COPY_CHUNK_COMPLETE (R278): A 256-byte chunk of a copy command is performed and, with CEN, sends its increment. -/
  | copyChunkComplete
  /-- STREAM_SLOT_RETURN (R260): A consumer frees a stream slot and the producer's free-slot counter is incremented. -/
  | streamSlotReturn
  /-- QUEUE_DRAIN_ROUND (R346): The pool visits the watched queues and takes at most one node from each. -/
  | queueDrainRound
  /-- DISPATCH_DECISION (R348): Every 8 hub cycles the pool places the first Ready node or set that fits. -/
  | dispatchDecision
  /-- PAGE_WALK_COMPLETE (R403): A hub walker finishes a walk, filling TLBs or finding V = 0, a malformed entry or poison. -/
  | pageWalkComplete
  /-- FAULT_REPORT_RELEASE (R404): Room frees in the fault queue, and a held report is written. -/
  | faultReportRelease
  /-- DIE_QUIESCE_END (R413): Write-backs finish or the 200 µs deadline expires; the link is fenced, lines are poisoned and the die is reset. -/
  | dieQuiesceEnd
  /-- THERMAL_CLEAR (R428): All dies are 5 °C below trip, and the hold ends. -/
  | thermalClear
  /-- POWER_GOOD (R429): Power-good starts bring-up with self-test, calibration and link training. -/
  | powerGood
  /-- PACKAGE_RESET (R429): A package reset returns the S9 to bring-up and clears fixed feature and link state. -/
  | packageReset
  /-- PEER_READ_AT_TARGET (R97): A target package's home serves a PEER read and records the package. -/
  | peerReadAtTarget (src dst line : Nat)
  /-- PEER_WRITE_AT_TARGET (R97): A target home applies a PEER store or atomic and invalidates the listed packages. -/
  | peerWriteAtTarget (src dst line : Nat) (data : List (Nat × Byte))
  /-- PEER_INVALIDATE_RECEIVE (R97): A package's L2 receives a PEER invalidation and drops its copy. -/
  | peerInvalidateReceive (dst line : Nat)
  /-- COMPANION_ACCESS (R112): A companion-processor access to HBM arrives over Jalys Link and joins the coherence order. -/
  | companionAccess (write : Bool) (pa size value : Nat)
  /-- HOST_ENQUEUE (R345): A Jalys Link enqueue transaction appends to a task queue at its home. -/
  | hostEnqueue (desc node : Nat)
  /-- FRAME_TABLE_WRITE (R355): Ring command that writes a frame-table entry. -/
  | frameTableWrite (idx : Nat) (e : FrameEntry)
  /-- RECORD_CONTROL_WRITE (R373): Ring command that writes a record control block. -/
  | recordControlWrite (asid : Nat) (e : RecordBlock)
  /-- ASID_ENTRY_WRITE (R379): Ring command that writes an address-space entry. -/
  | asidEntryWrite (asid : Nat) (e : AsidEntry)
  /-- WATCH_QUEUE_REGISTER (R346): Ring command that registers a watched task queue. -/
  | watchQueueRegister (va asid : Nat)
  /-- FAULT_QUEUE_REGISTER (R404): Ring command that registers the fault queue. -/
  | faultQueueRegister (base entries head tail : Nat)
  /-- PAGE_FAULT_REPLAY (R405): Ring response that retranslates every access parked on the page. -/
  | pageFaultReplay (tag : Nat)
  /-- PAGE_FAULT_REFUSE (R405): Ring response that makes each parked requester take its fault. -/
  | pageFaultRefuse (tag : Nat)
  /-- SHOOTDOWN (R406): Ring command that invalidates translations of a range. -/
  | shootdown (asid lo hi : Nat)
  /-- FREEZE (R407): Ring command that freezes an old physical page for migration. -/
  | freeze (pa size : Nat)
  /-- THAW (R407): Ring command that releases a frozen page. -/
  | thaw (pa : Nat)
  /-- DIRECT_NODE_WRITE (R36): Ring command that writes a node into the ready pool. -/
  | directNodeWrite (va asid : Nat)
  /-- PREEMPT_REQUEST (R350): Ring command that asks for pre-emption of a wave. -/
  | preemptRequest (wave : Nat)
  /-- FABRIC_DOMAIN_REGISTER (R426): Ring command that lists the packages of the fabric domain. -/
  | fabricDomainRegister (pkgs : List Nat)
  /-- SCRUB_WRITE (R419): Ring command that writes a whole line through the driver path, clearing poison. -/
  | scrubWrite (pa : Nat) (data : List Byte)
  /-- FSUBMIT (R430): HCTL write that submits the accepted feature word. -/
  | fsubmit (v : Word)
  /-- HSTAT_WRITE (R409): Host write to HSTAT that clears FERR by W1C. -/
  | hstatWrite (v : Word)
  /-- LINK_PIN_WRITE (R410): Host write of LINK PIN that pins a link's rate or returns it to automatic. -/
  | linkPinWrite (n : Nat) (v : Word)
  /-- DRST_GO (R413): Host write to DRST that begins a die reset with quiesce. -/
  | drstGo (v : Word)
  /-- ALLOW_WRITE (R427): Host write of a die allowance, discarded if the total would exceed 3,600,000 µJ. -/
  | allowWrite (d : Nat) (v : Word)
  /-- CECNT_READ (R408): Host read of a die's corrected-error count, which clears it. -/
  | cecntRead (r : CountRead)
  /-- KEY_COMMIT (R422): Host COMMIT that writes back a slot's lines and installs new keys. -/
  | keyCommit (v : Word)
  /-- HOST_REG_WRITE (R408): Host write to any other window register, or a discarded access. -/
  | hostRegWrite (off size : Nat) (v : Word)
  /-- ENERGY_ALLOWANCE_REACHED (R358): A die reaches its window allowance and enters overdraft or is held. -/
  | energyAllowanceReached (m : MeterReading)
  /-- ENERGY_WINDOW_END (R359): A 1 ms window ends; meters restart and overdrawn frames are charged in OD. -/
  | energyWindowEnd (used : List Nat)
  /-- THERMAL_TRIP (R428): A die passes its temperature trip point, and every print and proof die is held. -/
  | thermalTrip (d : Nat)
  /-- LINK_MEASURE_WINDOW (R410): A 10 µs window ends, and an automatic link may step its rate. -/
  | linkMeasureWindow (n pctUsed pctLower : Nat)
  /-- LINK_RETRAIN_FAIL (R412): A link fails to retrain in 1.5 µs; the link is failed and its die reset. -/
  | linkRetrainFail (n : Nat)
  /-- FLIT_CHECK_FAIL (R412): A flit fails its integrity check and is sent again. -/
  | flitCheckFail (n : Nat)
  /-- CORRECTED_ERROR (R415): A corrected soft error increments its die's CECNT. -/
  | correctedError (d : Nat)
  /-- UNCORRECTABLE_ERROR (R416): An uncorrectable error poisons a line or block, or stops the unit. -/
  | uncorrectableError (place : ErrPlace)
  /-- PATROL_SCRUB (R417): The patrol scrubber reads and corrects an HBM line. -/
  | patrolScrub (line : Nat)
  /-- DRIVER_PATH_ACCESS (R407): The driver reads or writes HBM through the hub's driver path, unaffected by a freeze, as when it copies a migrating page. -/
  | driverPathAccess (write poisoned : Bool) (pa : Nat) (data : List Byte)
  /-- NODE_DISCARD (R339): The driver discards a refused node held Pending in the pool, so its ID no longer names a node and its successors may leave Pending. -/
  | nodeDiscard (wave : Nat)
  /-- HALTED_WAVE_RESUME_OR_DISCARD (R183): The driver resumes or discards a wave whose unit is stopped by HALT, a double trap, a die reset quiesce or an uncorrectable unit error. -/
  | haltedWaveResumeOrDiscard (wave : Nat) (resume : Bool)
deriving DecidableEq, Repr, Inhabited

end Sys2Proof
end

