-- ==== Sys2Proof/WellFormed.lean ====
section
/-! DEFINITION. Which field values the encoding tables admit beyond their widths (07 R121, R135-R147; 13 R266; 11 R212, R221,
R224, R227): a word whose fields hold any other value raises ILLEGAL_INSTRUCTION whatever the registers hold. TMLD's engine number and
SLOOP's body length, which such checks also cover, are checked by their meanings. -/

namespace Sys2Proof

/-- A guard other than qg = 0 with gn = 1 (R121). -/
def Guard.ok (g : Guard) : Bool := g.q != 0#3 || !g.n

/-- The CSR numbers that exist (00 R8, Table 0.4). -/
def csrNumbers : List Nat :=
  [0x000, 0x001, 0x002, 0x003, 0x004, 0x005, 0x006, 0x010, 0x011, 0x020, 0x021, 0x022, 0x030, 0x031, 0x040, 0x041,
   0x050, 0x051, 0x060, 0x061, 0x062, 0x070]

/-- A CSR number is implemented (R8). -/
def csrExists (n : BitVec 12) : Bool := csrNumbers.contains n.toNat

/-- Width of a template frame field by its selector (Table 7.16); class fields (23-25) depend on the template. -/
def frameFieldWidth (f : Nat) : Nat :=
  if f < 16 then 16 else
  match f with
  | 16 => 10 | 17 => 10 | 18 => 6 | 19 => 16 | 20 => 8 | 21 => 2 | 22 => 8 | _ => 16

/-- A field selector that exists, with a value its field holds (R144, R145). -/
def patchFieldOk (f : BitVec 5) (v : BitVec 16) : Bool := f.toNat < 26 && v.toNat < 2 ^ frameFieldWidth f.toNat

/-- The format code of an FCVT operand is not 0x6, 0xD, 0xE or 0xF (Table 7.12). -/
def fcvtCodeOk (c : BitVec 4) : Bool := c != 0x6#4 && c.toNat < 13

/-- The field values of the instruction are ones its tables admit. Events carry no encoding and are always well
formed. -/
def wellFormed : Instr → Bool
  | .nop g => g.ok
  | .halt g => g.ok
  | .tret g => g.ok
  | .add g _ _ _ => g.ok
  | .sub g _ _ _ => g.ok
  | .mul g _ _ _ => g.ok
  | .mad g _ _ _ => g.ok
  | .mulh g _ _ _ => g.ok
  | .mulhu g _ _ _ => g.ok
  | .div g _ _ _ => g.ok
  | .divu g _ _ _ => g.ok
  | .rem g _ _ _ => g.ok
  | .remu g _ _ _ => g.ok
  | .min g _ _ _ => g.ok
  | .max g _ _ _ => g.ok
  | .minu g _ _ _ => g.ok
  | .maxu g _ _ _ => g.ok
  | .abs g _ _ => g.ok
  | .sel s _ _ _ => s.ok
  | .and g _ _ _ => g.ok
  | .or g _ _ _ => g.ok
  | .xor g _ _ _ => g.ok
  | .andn g _ _ _ => g.ok
  | .shl g _ _ _ => g.ok
  | .shr g _ _ _ => g.ok
  | .sar g _ _ _ => g.ok
  | .rotl g _ _ _ => g.ok
  | .clz g _ _ => g.ok
  | .ctz g _ _ => g.ok
  | .popc g _ _ => g.ok
  | .brev g _ _ => g.ok
  | .cmp g _ _ _ _ => g.ok
  | .cmpAnd g _ _ _ _ => g.ok
  | .cmpOr g _ _ _ _ => g.ok
  | .cmpXor g _ _ _ _ => g.ok
  | .mov g _ _ => g.ok
  | .lld g _ _ _ => g.ok
  | .lset g _ _ f => g.ok && f.toNat < 9
  | .lget g _ _ f => g.ok && f.toNat < 9
  | .lmov g _ _ => g.ok
  | .leaIndexed g _ _ _ _ => g.ok
  | .bra g _ => g.ok
  | .call g _ => g.ok
  | .callr g _ _ => g.ok
  | .jmpr g _ => g.ok
  | .ret g _ => g.ok
  | .exit g => g.ok
  | .brk g => g.ok
  | .trap g _ => g.ok
  | .yield g => g.ok
  | .dflush g => g.ok
  | .fadd g f _ _ _ => g.ok && f != 3#2
  | .fsub g f _ _ _ => g.ok && f != 3#2
  | .fmul g f _ _ _ => g.ok && f != 3#2
  | .ffma g f _ _ _ => g.ok && f != 3#2
  | .fmin g f _ _ _ => g.ok && f != 3#2
  | .fmax g f _ _ _ => g.ok && f != 3#2
  | .fabs g f _ _ => g.ok && f != 3#2
  | .fneg g f _ _ => g.ok && f != 3#2
  | .fcmp g f _ _ _ _ => g.ok && f != 3#2
  | .fdiv g f _ _ _ => g.ok && f != 3#2
  | .fsqrt g f _ _ => g.ok && f != 3#2
  | .frcp g f _ _ => g.ok && f != 3#2
  | .frsq g f _ _ => g.ok && f != 3#2
  | .fexp2 g f _ _ => g.ok && f != 3#2
  | .flog2 g f _ _ => g.ok && f != 3#2
  | .fsin g f _ _ => g.ok && f != 3#2
  | .fcos g f _ _ => g.ok && f != 3#2
  | .frnd g f _ _ => g.ok && f != 3#2
  | .fclass g f _ _ => g.ok && f != 3#2
  | .ldIndexed g _ _ _ _ => g.ok
  | .ldSxIndexed g sz _ _ _ => g.ok && sz != 3#2
  | .stIndexed g _ _ _ _ => g.ok
  | .ldAcqIndexed g _ _ _ _ => g.ok
  | .stRelIndexed g _ _ _ _ => g.ok
  | .fenceFull g => g.ok
  | .fenceAcq g => g.ok
  | .fenceRel g => g.ok
  | .fencePort g => g.ok
  | .mon g _ => g.ok
  | .mwait g => g.ok
  | .semwait g _ _ => g.ok
  | .semsig g _ _ => g.ok
  | .deqp g _ _ => g.ok
  | .portq g _ _ => g.ok
  | .join g => g.ok
  | .flrd g _ => g.ok
  | .flcl g _ => g.ok
  | .gangq g _ => g.ok
  | .divb g _ => g.ok
  | .rbget g b => g.ok && b.toNat < 6
  -- R228 refuses no block number; 6 to 63 name no block, and are refused as R227 refuses them (DESIGN CHOICE, log entry 102)
  | .rbput g b => g.ok && b.toNat < 6
  | .lend g => g.ok
  | .halloc g _ _ _ => g.ok
  | .hfree g _ => g.ok
  | .hrsh g _ _ _ => g.ok
  | .eres g _ _ _ => g.ok
  | .erel g _ => g.ok
  | .eset g _ _ => g.ok
  | .tmld g _ _ _ => g.ok
  | .pref k _ _ => k.toNat < 2
  | .moviWide g _ _ => g.ok
  | .moviHi g _ _ => g.ok
  | .addiWide g _ _ _ => g.ok
  | .leaImm g _ _ _ => g.ok
  | .ldOffset32 g _ _ _ _ => g.ok
  | .ldSxOffset32 g sz _ _ _ => g.ok && sz != 3#2
  | .stOffset32 g _ _ _ _ => g.ok
  | .ldAcqOffset32 g _ _ _ _ => g.ok
  | .stRelOffset32 g _ _ _ _ => g.ok
  | .atom g _ _ _ _ _ dbl op => g.ok && op.toNat < 12 && (op != 0xB#4 || !dbl)
  | .cas g _ _ _ _ _ _ => g.ok
  | .csrr g _ csr => g.ok && csrExists csr
  | .csrw g _ csr => g.ok && csrExists csr
  | .csrs g _ csr => g.ok && csrExists csr
  | .extb g _ _ pos width => g.ok && width.toNat ≥ 1 && pos.toNat + width.toNat ≤ 64
  | .extbSx g _ _ pos width => g.ok && width.toNat ≥ 1 && pos.toNat + width.toNat ≤ 64
  | .insb g _ _ pos width => g.ok && width.toNat ≥ 1 && pos.toNat + width.toNat ≤ 64
  | .qop g _ _ _ _ => g.ok
  | .fcvt g _ _ src dst => g.ok && fcvtCodeOk src && fcvtCodeOk dst
  | .loop g _ imm => g.ok && 0 < imm.toNat && imm.toNat < 2 ^ 31
  | .vote g d idx flag kind _ => g.ok && kind.toNat < 4 && (kind.toNat ≥ 2 || d.toNat < 8) && (!flag || idx.toNat < 5)
  | .shfl g _ _ _ _ => g.ok
  | .redx g _ a cls kind _ => g.ok && kind.toNat < 11 && cls != 3#2 && (kind.toNat < 8 || cls == 0#2) && (cls != 1#2 || a.toNat < 8) && (cls != 2#2 || a == 0#6)
  | .tex g d _ _ _ => g.ok && d.toNat % 2 == 0
  | .texg g d _ _ _ _ => g.ok && d.toNat % 2 == 0
  | .texq g _ _ _ => g.ok
  | .raybox g _ _ b _ => g.ok && b.toNat % 4 == 0
  | .raytri g d _ b _ => g.ok && d.toNat % 2 == 0 && b.toNat % 4 == 0
  | .rast g _ _ _ => g.ok
  | .bary g _ _ _ => g.ok
  | .xop g _ _ _ _ _ => g.ok
  | .patld g _ _ => g.ok
  | .patdr g _ => g.ok
  | .patq g _ _ => g.ok
  | .fork g a n => g.ok && a != 0#6 && n.toNat ≥ 1 && n.toNat ≤ 9
  | .forkToken g n => g.ok && n.toNat ≥ 1 && n.toNat ≤ 9
  | .rdv g _ => g.ok
  | .spawn g _ => g.ok
  | .tenq g _ _ _ => g.ok
  | .wdone g => g.ok
  | .ssync g => g.ok
  | .govrd g _ => g.ok
  | .enqp g _ _ _ => g.ok
  | .enqpNb g _ _ _ _ => g.ok
  | .amend _ f v => patchFieldOk f v
  | .issueField _ f v => patchFieldOk f v
  | .issueAdd _ f _ => f.toNat < 26
  | .addi _ _ _ | .cmpi _ _ _ _ | .movi _ _ | .ldBShort _ _ _ | .ldHShort _ _ _ | .ldWShort _ _ _ | .ldDShort _ _ _
  | .ldSxBShort _ _ _ | .ldSxHShort _ _ _ | .ldSxWShort _ _ _ | .stBShort _ _ _ | .stHShort _ _ _ | .stWShort _ _ _
  | .stDShort _ _ _ | .rngb _ _ _ | .pfx _ _ | .issue _ | .idle _ | .sloop _ _ _ | .sdone | .idleEnd | .sequencerResume
  | .portCommandTake | .vadd | .vsub | .vmul | .vfma | .vmin | .vmax | .vabs | .vcmp | .vsel | .vlog
  | .vshf | .vidle | .vidleEnd | .vxop | .vexp2 | .vlog2 | .vrcp | .vrsq | .vsqrt | .vcvt | .vpackmx
  | .vunpk | .vscale | .vsrnd | .vred | .vscan | .vperm | .vbcast | .vtrn | .cpy | .gath | .scat | .mcst
  | .halo | .coll | .dpos | .wld | .mma | .mmw | .acrd | .acz | .commandComplete _ | .copyChunkComplete
  | .streamSlotReturn | .semIncrementApply _ | .remoteWaitAdmit _ | .convergenceTest _ | .serviceCheck _
  | .fenceComplete _ | .ssyncComplete _ | .wdoneComplete _ | .govrdComplete _ | .epochClose _ | .groupEnd _
  | .waveRetire _ | .queueDrainRound | .dispatchDecision | .groupStart _ | .preemptDeadline _ | .drainDeadline _
  | .saveComplete _ | .tileStopComplete _ | .watchdogExpiry _ | .patternEntryEvictable _ | .replayGateTimeout _
  | .homeAdmitReadShared _ | .homeAdmitReadExclusive _ | .homeAdmitUpgrade _ | .homeWritebackArrive _ _
  | .homeInvalidationAck _ _ | .homeFetchDataArrive _ | .homeForwardResponse _ | .l1InvalidationReceive _ _
  | .l1ForwardReceive _ _ | .l1GrantReceive _ _ | .l1WritebackAck _ _ | .homeAtomicPerform _ | .redirectedAtomicResend _
  | .peerReadAtTarget _ _ _ | .peerWriteAtTarget _ _ _ _ | .peerInvalidateReceive _ _ | .peerTimeout _
  | .companionAccess _ _ _ _ | .hostEnqueue _ _ | .pageWalkComplete | .faultReportRelease | .frameTableWrite _ _
  | .recordControlWrite _ _ | .asidEntryWrite _ _ | .watchQueueRegister _ _ | .faultQueueRegister _ _ _ _
  | .pageFaultReplay _ | .pageFaultRefuse _ | .shootdown _ _ _ | .freeze _ _ | .thaw _ | .directNodeWrite _ _
  | .preemptRequest _ | .fabricDomainRegister _ | .scrubWrite _ _ | .fsubmit _ | .hstatWrite _ | .linkPinWrite _ _
  | .drstGo _ | .dieQuiesceEnd | .allowWrite _ _ | .cecntRead _ | .keyCommit _ | .hostRegWrite _ _ _
  | .energyAllowanceReached _ | .energyWindowEnd _ | .thermalTrip _ | .thermalClear | .linkMeasureWindow _ _ _
  | .retrainWindowEnd _ | .linkRetrainFail _ | .flitCheckFail _ | .correctedError _ | .uncorrectableError _
  | .patrolScrub _ | .powerGood | .selfTestDone _ | .hbmTrainingDone _ | .hbmInitDone _ | .packageReset
  | .illegalInstructionEncoding _ | .remoteScratchpadAccess _ | .hostTransactionComplete _ | .driverPathAccess _ _ _ _
  | .nodeDiscard _ | .haltedWaveResumeOrDiscard _ _ => true

end Sys2Proof
end

