-- ==== Sys2Proof/Decode.lean ====
section
/-! DEFINITION. Decoding and encoding of Thielm words (07 R114-R148). A decoder row builds the instruction a word's
major and minor opcode name from its fields; `decodeWord` then accepts it only when encoding it gives the same words
back, so that every reserved field must be zero (R122), and only when its field values are ones the tables admit.
Total on every word; an illegal one is rejected by a named reason. -/

namespace Sys2Proof

/-- Why a word is refused (each raises ILLEGAL_INSTRUCTION, 07 R123 item 2). -/
inductive DecodeError where
  /-- a length selector this stream does not have (Table 7.1) -/
  | selector
  /-- a major and minor opcode, or patch action, that no table lists -/
  | unusedOpcode
  /-- a reserved field holds a non-zero value (R122) -/
  | reservedField
  /-- a field holds a value its table refuses -/
  | refusedValue
deriving DecidableEq, Repr

/-- A number cut to `n` bits. -/
abbrev bv (n x : Nat) : BitVec n := BitVec.ofNat n x

/-- The length selector, bits [31:30] (Table 7.1). -/
def fSel (w : Nat) : Nat := w / 2 ^ 30 % 4
/-- The major opcode, bits [29:24]. -/
def fMaj (w : Nat) : Nat := w / 2 ^ 24 % 64
/-- The minor variant, bits [1:0]. -/
def fMin (w : Nat) : Nat := w % 4
/-- The gd field, bits [23:18]. -/
def fD (w : Nat) : Nat := w / 2 ^ 18 % 64
/-- The ga field, bits [17:12]. -/
def fA (w : Nat) : Nat := w / 2 ^ 12 % 64
/-- The gb field, bits [11:6]. -/
def fB (w : Nat) : Nat := w / 2 ^ 6 % 64
/-- The guard, bits [5:2] (R121). -/
def fG (w : Nat) : Guard := ⟨bv 3 (w / 2 ^ 3), bitOf w 2⟩

/-- The guard's bits in place. -/
def encG (g : Guard) : Nat := g.q.toNat * 2 ^ 3 + (bif g.n then 4 else 0)

/-- A word laid out as format A (Table 7.2), under selector 0 (format A) or 1 (format W). -/
def encA (sel maj min : Nat) (g : Guard) (d a b : Nat) : Nat :=
  sel * 2 ^ 30 + maj * 2 ^ 24 + d * 2 ^ 18 + a * 2 ^ 12 + b * 2 ^ 6 + encG g + min

/-- A word in the offset layout (R120). -/
def encOff (maj : Nat) (g : Guard) (off : BitVec 18) : Nat := maj * 2 ^ 24 + off.toNat * 2 ^ 6 + encG g

/-- A format B word (Table 7.3); an 18-bit immediate runs on from the ga field. -/
def encB (maj d a imm : Nat) : Nat := maj * 2 ^ 24 + d * 2 ^ 18 + a * 2 ^ 12 + imm

/-- A patch word (Table 7.14). -/
def encP (ti fs act val : Nat) : Nat := 3 * 2 ^ 30 + ti * 2 ^ 24 + fs * 2 ^ 19 + act * 2 ^ 16 + val

/-- Format A (07 R117, R134, R137, Tables 7.7 and 7.10): key 4 * MAJ + MIN, and the instruction a word of it names -/
def rowsA0 : List (Nat × (Nat → Instr)) := [
  (1, fun w => .nop (fG w)),
  (2, fun w => .halt (fG w)),
  (3, fun w => .tret (fG w)),
  (4, fun w => .add (fG w) (bv 6 (fD w)) (bv 6 (fA w)) (bv 6 (fB w))),
  (5, fun w => .sub (fG w) (bv 6 (fD w)) (bv 6 (fA w)) (bv 6 (fB w))),
  (6, fun w => .mul (fG w) (bv 6 (fD w)) (bv 6 (fA w)) (bv 6 (fB w))),
  (7, fun w => .mad (fG w) (bv 6 (fD w)) (bv 6 (fA w)) (bv 6 (fB w))),
  (8, fun w => .mulh (fG w) (bv 6 (fD w)) (bv 6 (fA w)) (bv 6 (fB w))),
  (9, fun w => .mulhu (fG w) (bv 6 (fD w)) (bv 6 (fA w)) (bv 6 (fB w))),
  (10, fun w => .div (fG w) (bv 6 (fD w)) (bv 6 (fA w)) (bv 6 (fB w))),
  (11, fun w => .divu (fG w) (bv 6 (fD w)) (bv 6 (fA w)) (bv 6 (fB w))),
  (12, fun w => .rem (fG w) (bv 6 (fD w)) (bv 6 (fA w)) (bv 6 (fB w))),
  (13, fun w => .remu (fG w) (bv 6 (fD w)) (bv 6 (fA w)) (bv 6 (fB w))),
  (14, fun w => .min (fG w) (bv 6 (fD w)) (bv 6 (fA w)) (bv 6 (fB w))),
  (15, fun w => .max (fG w) (bv 6 (fD w)) (bv 6 (fA w)) (bv 6 (fB w))),
  (16, fun w => .minu (fG w) (bv 6 (fD w)) (bv 6 (fA w)) (bv 6 (fB w))),
  (17, fun w => .maxu (fG w) (bv 6 (fD w)) (bv 6 (fA w)) (bv 6 (fB w))),
  (18, fun w => .abs (fG w) (bv 6 (fD w)) (bv 6 (fA w))),
  (19, fun w => .sel (fG w) (bv 6 (fD w)) (bv 6 (fA w)) (bv 6 (fB w))),
  (20, fun w => .and (fG w) (bv 6 (fD w)) (bv 6 (fA w)) (bv 6 (fB w))),
  (21, fun w => .or (fG w) (bv 6 (fD w)) (bv 6 (fA w)) (bv 6 (fB w))),
  (22, fun w => .xor (fG w) (bv 6 (fD w)) (bv 6 (fA w)) (bv 6 (fB w))),
  (23, fun w => .andn (fG w) (bv 6 (fD w)) (bv 6 (fA w)) (bv 6 (fB w))),
  (24, fun w => .shl (fG w) (bv 6 (fD w)) (bv 6 (fA w)) (bv 6 (fB w))),
  (25, fun w => .shr (fG w) (bv 6 (fD w)) (bv 6 (fA w)) (bv 6 (fB w))),
  (26, fun w => .sar (fG w) (bv 6 (fD w)) (bv 6 (fA w)) (bv 6 (fB w))),
  (27, fun w => .rotl (fG w) (bv 6 (fD w)) (bv 6 (fA w)) (bv 6 (fB w))),
  (28, fun w => .clz (fG w) (bv 6 (fD w)) (bv 6 (fA w))),
  (29, fun w => .ctz (fG w) (bv 6 (fD w)) (bv 6 (fA w))),
  (30, fun w => .popc (fG w) (bv 6 (fD w)) (bv 6 (fA w))),
  (31, fun w => .brev (fG w) (bv 6 (fD w)) (bv 6 (fA w))),
  (32, fun w => .cmp (fG w) (bv 3 (fD w / 8)) (bv 3 (fD w)) (bv 6 (fA w)) (bv 6 (fB w))),
  (33, fun w => .cmpAnd (fG w) (bv 3 (fD w / 8)) (bv 3 (fD w)) (bv 6 (fA w)) (bv 6 (fB w))),
  (34, fun w => .cmpOr (fG w) (bv 3 (fD w / 8)) (bv 3 (fD w)) (bv 6 (fA w)) (bv 6 (fB w))),
  (35, fun w => .cmpXor (fG w) (bv 3 (fD w / 8)) (bv 3 (fD w)) (bv 6 (fA w)) (bv 6 (fB w))),
  (36, fun w => .mov (fG w) (bv 6 (fD w)) (bv 6 (fA w))),
  (40, fun w => .lld (fG w) (bv 4 (fD w)) (bv 6 (fA w)) (bv 6 (fB w))),
  (41, fun w => .lset (fG w) (bv 4 (fD w)) (bv 6 (fA w)) (bv 6 (fB w))),
  (42, fun w => .lget (fG w) (bv 6 (fD w)) (bv 4 (fA w)) (bv 6 (fB w))),
  (43, fun w => .lmov (fG w) (bv 4 (fD w)) (bv 4 (fA w)))]

/-- Format A (07 R117, R134, R137, Tables 7.7 and 7.10): key 4 * MAJ + MIN, and the instruction a word of it names -/
def rowsA1 : List (Nat × (Nat → Instr)) := [
  (44, fun w => .leaIndexed (fG w) (bv 2 (fMin w)) (bv 6 (fD w)) (bv 6 (fA w)) (bv 6 (fB w))),
  (45, fun w => .leaIndexed (fG w) (bv 2 (fMin w)) (bv 6 (fD w)) (bv 6 (fA w)) (bv 6 (fB w))),
  (46, fun w => .leaIndexed (fG w) (bv 2 (fMin w)) (bv 6 (fD w)) (bv 6 (fA w)) (bv 6 (fB w))),
  (47, fun w => .leaIndexed (fG w) (bv 2 (fMin w)) (bv 6 (fD w)) (bv 6 (fA w)) (bv 6 (fB w))),
  (48, fun w => .bra (fG w) (bv 18 (w / 2 ^ 6))),
  (52, fun w => .call (fG w) (bv 18 (w / 2 ^ 6))),
  (56, fun w => .callr (fG w) (bv 6 (fD w)) (bv 6 (fA w))),
  (57, fun w => .jmpr (fG w) (bv 6 (fA w))),
  (58, fun w => .ret (fG w) (bv 6 (fA w))),
  (59, fun w => .exit (fG w)),
  (60, fun w => .brk (fG w)),
  (61, fun w => .trap (fG w) (bv 6 (fB w))),
  (62, fun w => .yield (fG w)),
  (63, fun w => .dflush (fG w)),
  (64, fun w => .fadd (fG w) (bv 2 (fMin w)) (bv 6 (fD w)) (bv 6 (fA w)) (bv 6 (fB w))),
  (65, fun w => .fadd (fG w) (bv 2 (fMin w)) (bv 6 (fD w)) (bv 6 (fA w)) (bv 6 (fB w))),
  (66, fun w => .fadd (fG w) (bv 2 (fMin w)) (bv 6 (fD w)) (bv 6 (fA w)) (bv 6 (fB w))),
  (68, fun w => .fsub (fG w) (bv 2 (fMin w)) (bv 6 (fD w)) (bv 6 (fA w)) (bv 6 (fB w))),
  (69, fun w => .fsub (fG w) (bv 2 (fMin w)) (bv 6 (fD w)) (bv 6 (fA w)) (bv 6 (fB w))),
  (70, fun w => .fsub (fG w) (bv 2 (fMin w)) (bv 6 (fD w)) (bv 6 (fA w)) (bv 6 (fB w))),
  (72, fun w => .fmul (fG w) (bv 2 (fMin w)) (bv 6 (fD w)) (bv 6 (fA w)) (bv 6 (fB w))),
  (73, fun w => .fmul (fG w) (bv 2 (fMin w)) (bv 6 (fD w)) (bv 6 (fA w)) (bv 6 (fB w))),
  (74, fun w => .fmul (fG w) (bv 2 (fMin w)) (bv 6 (fD w)) (bv 6 (fA w)) (bv 6 (fB w))),
  (76, fun w => .ffma (fG w) (bv 2 (fMin w)) (bv 6 (fD w)) (bv 6 (fA w)) (bv 6 (fB w))),
  (77, fun w => .ffma (fG w) (bv 2 (fMin w)) (bv 6 (fD w)) (bv 6 (fA w)) (bv 6 (fB w))),
  (78, fun w => .ffma (fG w) (bv 2 (fMin w)) (bv 6 (fD w)) (bv 6 (fA w)) (bv 6 (fB w))),
  (80, fun w => .fmin (fG w) (bv 2 (fMin w)) (bv 6 (fD w)) (bv 6 (fA w)) (bv 6 (fB w))),
  (81, fun w => .fmin (fG w) (bv 2 (fMin w)) (bv 6 (fD w)) (bv 6 (fA w)) (bv 6 (fB w))),
  (82, fun w => .fmin (fG w) (bv 2 (fMin w)) (bv 6 (fD w)) (bv 6 (fA w)) (bv 6 (fB w))),
  (84, fun w => .fmax (fG w) (bv 2 (fMin w)) (bv 6 (fD w)) (bv 6 (fA w)) (bv 6 (fB w))),
  (85, fun w => .fmax (fG w) (bv 2 (fMin w)) (bv 6 (fD w)) (bv 6 (fA w)) (bv 6 (fB w))),
  (86, fun w => .fmax (fG w) (bv 2 (fMin w)) (bv 6 (fD w)) (bv 6 (fA w)) (bv 6 (fB w))),
  (88, fun w => .fabs (fG w) (bv 2 (fMin w)) (bv 6 (fD w)) (bv 6 (fA w))),
  (89, fun w => .fabs (fG w) (bv 2 (fMin w)) (bv 6 (fD w)) (bv 6 (fA w))),
  (90, fun w => .fabs (fG w) (bv 2 (fMin w)) (bv 6 (fD w)) (bv 6 (fA w))),
  (92, fun w => .fneg (fG w) (bv 2 (fMin w)) (bv 6 (fD w)) (bv 6 (fA w))),
  (93, fun w => .fneg (fG w) (bv 2 (fMin w)) (bv 6 (fD w)) (bv 6 (fA w))),
  (94, fun w => .fneg (fG w) (bv 2 (fMin w)) (bv 6 (fD w)) (bv 6 (fA w))),
  (96, fun w => .fcmp (fG w) (bv 2 (fMin w)) (bv 3 (fD w / 8)) (bv 3 (fD w)) (bv 6 (fA w)) (bv 6 (fB w))),
  (97, fun w => .fcmp (fG w) (bv 2 (fMin w)) (bv 3 (fD w / 8)) (bv 3 (fD w)) (bv 6 (fA w)) (bv 6 (fB w)))]

/-- Format A (07 R117, R134, R137, Tables 7.7 and 7.10): key 4 * MAJ + MIN, and the instruction a word of it names -/
def rowsA2 : List (Nat × (Nat → Instr)) := [
  (98, fun w => .fcmp (fG w) (bv 2 (fMin w)) (bv 3 (fD w / 8)) (bv 3 (fD w)) (bv 6 (fA w)) (bv 6 (fB w))),
  (100, fun w => .fdiv (fG w) (bv 2 (fMin w)) (bv 6 (fD w)) (bv 6 (fA w)) (bv 6 (fB w))),
  (101, fun w => .fdiv (fG w) (bv 2 (fMin w)) (bv 6 (fD w)) (bv 6 (fA w)) (bv 6 (fB w))),
  (102, fun w => .fdiv (fG w) (bv 2 (fMin w)) (bv 6 (fD w)) (bv 6 (fA w)) (bv 6 (fB w))),
  (104, fun w => .fsqrt (fG w) (bv 2 (fMin w)) (bv 6 (fD w)) (bv 6 (fA w))),
  (105, fun w => .fsqrt (fG w) (bv 2 (fMin w)) (bv 6 (fD w)) (bv 6 (fA w))),
  (106, fun w => .fsqrt (fG w) (bv 2 (fMin w)) (bv 6 (fD w)) (bv 6 (fA w))),
  (108, fun w => .frcp (fG w) (bv 2 (fMin w)) (bv 6 (fD w)) (bv 6 (fA w))),
  (109, fun w => .frcp (fG w) (bv 2 (fMin w)) (bv 6 (fD w)) (bv 6 (fA w))),
  (110, fun w => .frcp (fG w) (bv 2 (fMin w)) (bv 6 (fD w)) (bv 6 (fA w))),
  (112, fun w => .frsq (fG w) (bv 2 (fMin w)) (bv 6 (fD w)) (bv 6 (fA w))),
  (113, fun w => .frsq (fG w) (bv 2 (fMin w)) (bv 6 (fD w)) (bv 6 (fA w))),
  (114, fun w => .frsq (fG w) (bv 2 (fMin w)) (bv 6 (fD w)) (bv 6 (fA w))),
  (116, fun w => .fexp2 (fG w) (bv 2 (fMin w)) (bv 6 (fD w)) (bv 6 (fA w))),
  (117, fun w => .fexp2 (fG w) (bv 2 (fMin w)) (bv 6 (fD w)) (bv 6 (fA w))),
  (118, fun w => .fexp2 (fG w) (bv 2 (fMin w)) (bv 6 (fD w)) (bv 6 (fA w))),
  (120, fun w => .flog2 (fG w) (bv 2 (fMin w)) (bv 6 (fD w)) (bv 6 (fA w))),
  (121, fun w => .flog2 (fG w) (bv 2 (fMin w)) (bv 6 (fD w)) (bv 6 (fA w))),
  (122, fun w => .flog2 (fG w) (bv 2 (fMin w)) (bv 6 (fD w)) (bv 6 (fA w))),
  (124, fun w => .fsin (fG w) (bv 2 (fMin w)) (bv 6 (fD w)) (bv 6 (fA w))),
  (125, fun w => .fsin (fG w) (bv 2 (fMin w)) (bv 6 (fD w)) (bv 6 (fA w))),
  (126, fun w => .fsin (fG w) (bv 2 (fMin w)) (bv 6 (fD w)) (bv 6 (fA w))),
  (128, fun w => .fcos (fG w) (bv 2 (fMin w)) (bv 6 (fD w)) (bv 6 (fA w))),
  (129, fun w => .fcos (fG w) (bv 2 (fMin w)) (bv 6 (fD w)) (bv 6 (fA w))),
  (130, fun w => .fcos (fG w) (bv 2 (fMin w)) (bv 6 (fD w)) (bv 6 (fA w))),
  (132, fun w => .frnd (fG w) (bv 2 (fMin w)) (bv 6 (fD w)) (bv 6 (fA w))),
  (133, fun w => .frnd (fG w) (bv 2 (fMin w)) (bv 6 (fD w)) (bv 6 (fA w))),
  (134, fun w => .frnd (fG w) (bv 2 (fMin w)) (bv 6 (fD w)) (bv 6 (fA w))),
  (136, fun w => .fclass (fG w) (bv 2 (fMin w)) (bv 6 (fD w)) (bv 6 (fA w))),
  (137, fun w => .fclass (fG w) (bv 2 (fMin w)) (bv 6 (fD w)) (bv 6 (fA w))),
  (138, fun w => .fclass (fG w) (bv 2 (fMin w)) (bv 6 (fD w)) (bv 6 (fA w))),
  (140, fun w => .ldIndexed (fG w) (bv 2 (fMin w)) (bv 6 (fD w)) (bv 6 (fA w)) (bv 6 (fB w))),
  (141, fun w => .ldIndexed (fG w) (bv 2 (fMin w)) (bv 6 (fD w)) (bv 6 (fA w)) (bv 6 (fB w))),
  (142, fun w => .ldIndexed (fG w) (bv 2 (fMin w)) (bv 6 (fD w)) (bv 6 (fA w)) (bv 6 (fB w))),
  (143, fun w => .ldIndexed (fG w) (bv 2 (fMin w)) (bv 6 (fD w)) (bv 6 (fA w)) (bv 6 (fB w))),
  (144, fun w => .ldSxIndexed (fG w) (bv 2 (fMin w)) (bv 6 (fD w)) (bv 6 (fA w)) (bv 6 (fB w))),
  (145, fun w => .ldSxIndexed (fG w) (bv 2 (fMin w)) (bv 6 (fD w)) (bv 6 (fA w)) (bv 6 (fB w))),
  (146, fun w => .ldSxIndexed (fG w) (bv 2 (fMin w)) (bv 6 (fD w)) (bv 6 (fA w)) (bv 6 (fB w))),
  (148, fun w => .stIndexed (fG w) (bv 2 (fMin w)) (bv 6 (fD w)) (bv 6 (fA w)) (bv 6 (fB w))),
  (149, fun w => .stIndexed (fG w) (bv 2 (fMin w)) (bv 6 (fD w)) (bv 6 (fA w)) (bv 6 (fB w)))]

/-- Format A (07 R117, R134, R137, Tables 7.7 and 7.10): key 4 * MAJ + MIN, and the instruction a word of it names -/
def rowsA3 : List (Nat × (Nat → Instr)) := [
  (150, fun w => .stIndexed (fG w) (bv 2 (fMin w)) (bv 6 (fD w)) (bv 6 (fA w)) (bv 6 (fB w))),
  (151, fun w => .stIndexed (fG w) (bv 2 (fMin w)) (bv 6 (fD w)) (bv 6 (fA w)) (bv 6 (fB w))),
  (152, fun w => .ldAcqIndexed (fG w) (bv 2 (fMin w)) (bv 6 (fD w)) (bv 6 (fA w)) (bv 6 (fB w))),
  (153, fun w => .ldAcqIndexed (fG w) (bv 2 (fMin w)) (bv 6 (fD w)) (bv 6 (fA w)) (bv 6 (fB w))),
  (154, fun w => .ldAcqIndexed (fG w) (bv 2 (fMin w)) (bv 6 (fD w)) (bv 6 (fA w)) (bv 6 (fB w))),
  (155, fun w => .ldAcqIndexed (fG w) (bv 2 (fMin w)) (bv 6 (fD w)) (bv 6 (fA w)) (bv 6 (fB w))),
  (156, fun w => .stRelIndexed (fG w) (bv 2 (fMin w)) (bv 6 (fD w)) (bv 6 (fA w)) (bv 6 (fB w))),
  (157, fun w => .stRelIndexed (fG w) (bv 2 (fMin w)) (bv 6 (fD w)) (bv 6 (fA w)) (bv 6 (fB w))),
  (158, fun w => .stRelIndexed (fG w) (bv 2 (fMin w)) (bv 6 (fD w)) (bv 6 (fA w)) (bv 6 (fB w))),
  (159, fun w => .stRelIndexed (fG w) (bv 2 (fMin w)) (bv 6 (fD w)) (bv 6 (fA w)) (bv 6 (fB w))),
  (160, fun w => .fenceFull (fG w)),
  (161, fun w => .fenceAcq (fG w)),
  (162, fun w => .fenceRel (fG w)),
  (163, fun w => .fencePort (fG w)),
  (164, fun w => .mon (fG w) (bv 6 (fA w))),
  (165, fun w => .mwait (fG w)),
  (166, fun w => .semwait (fG w) (bv 6 (fA w)) (bv 6 (fB w))),
  (167, fun w => .semsig (fG w) (bv 6 (fA w)) (bv 6 (fB w))),
  (168, fun w => .deqp (fG w) (bv 6 (fD w)) (bv 6 (fA w))),
  (169, fun w => .portq (fG w) (bv 6 (fD w)) (bv 6 (fA w))),
  (172, fun w => .join (fG w)),
  (173, fun w => .flrd (fG w) (bv 6 (fD w))),
  (174, fun w => .flcl (fG w) (bv 6 (fA w))),
  (175, fun w => .gangq (fG w) (bv 6 (fD w))),
  (176, fun w => .divb (fG w) (bv 18 (w / 2 ^ 6))),
  (180, fun w => .rbget (fG w) (bv 6 (fD w))),
  (181, fun w => .rbput (fG w) (bv 6 (fD w))),
  (182, fun w => .lend (fG w)),
  (184, fun w => .halloc (fG w) (bv 3 (fB w)) (bv 6 (fD w)) (bv 6 (fA w))),
  (185, fun w => .hfree (fG w) (bv 6 (fA w))),
  (186, fun w => .hrsh (fG w) (bv 6 (fD w)) (bv 6 (fA w)) (bv 6 (fB w))),
  (188, fun w => .eres (fG w) (bv 6 (fD w)) (bv 6 (fA w)) (bv 6 (fB w))),
  (189, fun w => .erel (fG w) (bv 6 (fA w))),
  (190, fun w => .eset (fG w) (bv 6 (fA w)) (bv 6 (fB w))),
  (191, fun w => .tmld (fG w) (bv 6 (fD w)) (bv 6 (fA w)) (bv 6 (fB w)))]

/-- Format A (07 R117, R134, R137, Tables 7.7 and 7.10): key 4 * MAJ + MIN, and the instruction a word of it names, whole. -/
def rowsA : List (Nat × (Nat → Instr)) := rowsA0 ++ rowsA1 ++ rowsA2 ++ rowsA3

/-- Format B (07 R118, R138, Table 7.11): key MAJ -/
def rowsB : List (Nat × (Nat → Instr)) := [
  (48, fun w => .addi (bv 6 (fD w)) (bv 6 (fA w)) (bv 12 w)),
  (49, fun w => .cmpi (bv 3 (fD w / 8)) (bv 3 (fD w)) (bv 6 (fA w)) (bv 12 w)),
  (50, fun w => .movi (bv 6 (fD w)) (bv 18 w)),
  (51, fun w => .ldBShort (bv 6 (fD w)) (bv 6 (fA w)) (bv 12 w)),
  (52, fun w => .ldHShort (bv 6 (fD w)) (bv 6 (fA w)) (bv 12 w)),
  (53, fun w => .ldWShort (bv 6 (fD w)) (bv 6 (fA w)) (bv 12 w)),
  (54, fun w => .ldDShort (bv 6 (fD w)) (bv 6 (fA w)) (bv 12 w)),
  (55, fun w => .ldSxBShort (bv 6 (fD w)) (bv 6 (fA w)) (bv 12 w)),
  (56, fun w => .ldSxHShort (bv 6 (fD w)) (bv 6 (fA w)) (bv 12 w)),
  (57, fun w => .ldSxWShort (bv 6 (fD w)) (bv 6 (fA w)) (bv 12 w)),
  (58, fun w => .stBShort (bv 6 (fD w)) (bv 6 (fA w)) (bv 12 w)),
  (59, fun w => .stHShort (bv 6 (fD w)) (bv 6 (fA w)) (bv 12 w)),
  (60, fun w => .stWShort (bv 6 (fD w)) (bv 6 (fA w)) (bv 12 w)),
  (61, fun w => .stDShort (bv 6 (fD w)) (bv 6 (fA w)) (bv 12 w)),
  (62, fun w => .pref (bv 2 (fD w)) (bv 6 (fA w)) (bv 12 w)),
  (63, fun w => .rngb (bv 6 (fD w)) (bv 6 (fA w)) (bv 12 w))]

/-- Format W (07 R119, R139, Table 7.12): key 4 * MAJ + MIN; `v` is the second word -/
def rowsW0 : List (Nat × (Nat → Nat → Instr)) := [
  (0, fun w v => .moviWide (fG w) (bv 6 (fD w)) (bv 32 v)),
  (1, fun w v => .moviHi (fG w) (bv 6 (fD w)) (bv 32 v)),
  (2, fun w v => .addiWide (fG w) (bv 6 (fD w)) (bv 6 (fA w)) (bv 32 v)),
  (3, fun w v => .leaImm (fG w) (bv 6 (fD w)) (bv 6 (fA w)) (bv 32 v)),
  (4, fun w v => .ldOffset32 (fG w) (bv 2 (fMin w)) (bv 6 (fD w)) (bv 6 (fA w)) (bv 32 v)),
  (5, fun w v => .ldOffset32 (fG w) (bv 2 (fMin w)) (bv 6 (fD w)) (bv 6 (fA w)) (bv 32 v)),
  (6, fun w v => .ldOffset32 (fG w) (bv 2 (fMin w)) (bv 6 (fD w)) (bv 6 (fA w)) (bv 32 v)),
  (7, fun w v => .ldOffset32 (fG w) (bv 2 (fMin w)) (bv 6 (fD w)) (bv 6 (fA w)) (bv 32 v)),
  (8, fun w v => .ldSxOffset32 (fG w) (bv 2 (fMin w)) (bv 6 (fD w)) (bv 6 (fA w)) (bv 32 v)),
  (9, fun w v => .ldSxOffset32 (fG w) (bv 2 (fMin w)) (bv 6 (fD w)) (bv 6 (fA w)) (bv 32 v)),
  (10, fun w v => .ldSxOffset32 (fG w) (bv 2 (fMin w)) (bv 6 (fD w)) (bv 6 (fA w)) (bv 32 v)),
  (12, fun w v => .stOffset32 (fG w) (bv 2 (fMin w)) (bv 6 (fD w)) (bv 6 (fA w)) (bv 32 v)),
  (13, fun w v => .stOffset32 (fG w) (bv 2 (fMin w)) (bv 6 (fD w)) (bv 6 (fA w)) (bv 32 v)),
  (14, fun w v => .stOffset32 (fG w) (bv 2 (fMin w)) (bv 6 (fD w)) (bv 6 (fA w)) (bv 32 v)),
  (15, fun w v => .stOffset32 (fG w) (bv 2 (fMin w)) (bv 6 (fD w)) (bv 6 (fA w)) (bv 32 v)),
  (16, fun w v => .ldAcqOffset32 (fG w) (bv 2 (fMin w)) (bv 6 (fD w)) (bv 6 (fA w)) (bv 32 v)),
  (17, fun w v => .ldAcqOffset32 (fG w) (bv 2 (fMin w)) (bv 6 (fD w)) (bv 6 (fA w)) (bv 32 v)),
  (18, fun w v => .ldAcqOffset32 (fG w) (bv 2 (fMin w)) (bv 6 (fD w)) (bv 6 (fA w)) (bv 32 v)),
  (19, fun w v => .ldAcqOffset32 (fG w) (bv 2 (fMin w)) (bv 6 (fD w)) (bv 6 (fA w)) (bv 32 v)),
  (20, fun w v => .stRelOffset32 (fG w) (bv 2 (fMin w)) (bv 6 (fD w)) (bv 6 (fA w)) (bv 32 v)),
  (21, fun w v => .stRelOffset32 (fG w) (bv 2 (fMin w)) (bv 6 (fD w)) (bv 6 (fA w)) (bv 32 v)),
  (22, fun w v => .stRelOffset32 (fG w) (bv 2 (fMin w)) (bv 6 (fD w)) (bv 6 (fA w)) (bv 32 v)),
  (23, fun w v => .stRelOffset32 (fG w) (bv 2 (fMin w)) (bv 6 (fD w)) (bv 6 (fA w)) (bv 32 v)),
  (24, fun w v => .atom (fG w) (bv 2 (fMin w)) (bv 6 (fD w)) (bv 6 (fA w)) (bv 6 (fB w)) (bv 16 (v / 2 ^ 16)) (bitOf v 4) (bv 4 v)),
  (25, fun w v => .atom (fG w) (bv 2 (fMin w)) (bv 6 (fD w)) (bv 6 (fA w)) (bv 6 (fB w)) (bv 16 (v / 2 ^ 16)) (bitOf v 4) (bv 4 v)),
  (26, fun w v => .atom (fG w) (bv 2 (fMin w)) (bv 6 (fD w)) (bv 6 (fA w)) (bv 6 (fB w)) (bv 16 (v / 2 ^ 16)) (bitOf v 4) (bv 4 v)),
  (27, fun w v => .atom (fG w) (bv 2 (fMin w)) (bv 6 (fD w)) (bv 6 (fA w)) (bv 6 (fB w)) (bv 16 (v / 2 ^ 16)) (bitOf v 4) (bv 4 v)),
  (28, fun w v => .cas (fG w) (bv 2 (fMin w)) (bv 6 (fD w)) (bv 6 (fA w)) (bv 6 (fB w)) (bv 16 (v / 2 ^ 16)) (bitOf v 4)),
  (29, fun w v => .cas (fG w) (bv 2 (fMin w)) (bv 6 (fD w)) (bv 6 (fA w)) (bv 6 (fB w)) (bv 16 (v / 2 ^ 16)) (bitOf v 4)),
  (30, fun w v => .cas (fG w) (bv 2 (fMin w)) (bv 6 (fD w)) (bv 6 (fA w)) (bv 6 (fB w)) (bv 16 (v / 2 ^ 16)) (bitOf v 4)),
  (31, fun w v => .cas (fG w) (bv 2 (fMin w)) (bv 6 (fD w)) (bv 6 (fA w)) (bv 6 (fB w)) (bv 16 (v / 2 ^ 16)) (bitOf v 4)),
  (32, fun w v => .csrr (fG w) (bv 6 (fD w)) (bv 12 v)),
  (33, fun w v => .csrw (fG w) (bv 6 (fA w)) (bv 12 v)),
  (34, fun w v => .csrs (fG w) (bv 6 (fA w)) (bv 12 v)),
  (36, fun w v => .extb (fG w) (bv 6 (fD w)) (bv 6 (fA w)) (bv 6 v) (bv 7 (v / 2 ^ 6))),
  (37, fun w v => .extbSx (fG w) (bv 6 (fD w)) (bv 6 (fA w)) (bv 6 v) (bv 7 (v / 2 ^ 6))),
  (38, fun w v => .insb (fG w) (bv 6 (fD w)) (bv 6 (fA w)) (bv 6 v) (bv 7 (v / 2 ^ 6))),
  (40, fun w v => .qop (fG w) (bv 3 (fD w)) (bv 3 (fA w)) (bv 3 (fB w)) (bv 4 v)),
  (44, fun w v => .fcvt (fG w) (bv 6 (fD w)) (bv 6 (fA w)) (bv 4 (v / 2 ^ 4)) (bv 4 v)),
  (48, fun w v => .loop (fG w) (bv 6 (fA w)) (bv 32 v))]

/-- Format W (07 R119, R139, Table 7.12): key 4 * MAJ + MIN; `v` is the second word -/
def rowsW1 : List (Nat × (Nat → Nat → Instr)) := [
  (52, fun w v => .vote (fG w) (bv 6 (fD w)) (bv 3 (fA w)) (fB w / 2 ^ 4 == 2) (bv 4 (fB w)) (bv 32 v)),
  (53, fun w v => .shfl (fG w) (bv 6 (fD w)) (bv 6 (fA w)) (bv 6 (fB w)) (bv 32 v)),
  (54, fun w v => .redx (fG w) (bv 6 (fD w)) (bv 6 (fA w)) (bv 2 (fB w / 2 ^ 4)) (bv 4 (fB w)) (bv 32 v)),
  (56, fun w v => .tex (fG w) (bv 6 (fD w)) (bv 6 (fA w)) (bv 6 (fB w)) (bv 6 v)),
  (57, fun w v => .texg (fG w) (bv 6 (fD w)) (bv 6 (fA w)) (bv 6 (fB w)) (bv 6 v) (bv 2 (v / 2 ^ 6))),
  (58, fun w _ => .texq (fG w) (bv 6 (fD w)) (bv 6 (fA w)) (bv 6 (fB w))),
  (60, fun w v => .raybox (fG w) (bv 6 (fD w)) (bv 6 (fA w)) (bv 6 (fB w)) (bv 3 v)),
  (61, fun w v => .raytri (fG w) (bv 6 (fD w)) (bv 6 (fA w)) (bv 6 (fB w)) (bv 3 v)),
  (62, fun w v => .rast (fG w) (bv 6 (fA w)) (bv 6 (fB w)) (bv 3 v)),
  (63, fun w _ => .bary (fG w) (bv 6 (fD w)) (bv 6 (fA w)) (bv 6 (fB w))),
  (64, fun w v => .xop (fG w) (bv 6 (fD w)) (bv 6 (fA w)) (bv 6 (fB w)) (bv 6 (v / 2 ^ 12)) (bv 4 v)),
  (68, fun w v => .patld (fG w) (bv 6 (fA w)) (bv 4 v)),
  (69, fun w v => .patdr (fG w) (bv 4 v)),
  (70, fun w v => .patq (fG w) (bv 6 (fD w)) (bv 4 v)),
  (72, fun w v => bif fA w == 0 then .forkToken (fG w) (bv 4 v) else .fork (fG w) (bv 6 (fA w)) (bv 4 v)),
  (73, fun w v => .rdv (fG w) (bv 9 (v / 2))),
  (74, fun w _ => .spawn (fG w) (bv 6 (fA w))),
  (75, fun w _ => .tenq (fG w) (bv 6 (fD w)) (bv 6 (fA w)) (bv 6 (fB w))),
  (76, fun w _ => .wdone (fG w)),
  (77, fun w _ => .ssync (fG w)),
  (78, fun w _ => .govrd (fG w) (bv 6 (fD w))),
  (80, fun w v => .enqp (fG w) (bv 6 (fA w)) (bv 6 (fB w)) (bv 6 v)),
  (81, fun w v => .enqpNb (fG w) (bv 3 (v / 2 ^ 8)) (bv 6 (fA w)) (bv 6 (fB w)) (bv 6 v))]

/-- Format W (07 R119, R139, Table 7.12): key 4 * MAJ + MIN; `v` is the second word, whole. -/
def rowsW : List (Nat × (Nat → Nat → Instr)) := rowsW0 ++ rowsW1

/-- The words of an instruction, in stream order: the encoding tables of chapters 07, 09, 11, 13, 15, 17 and 19.
Events have none. ADDI of format W has the base word 0x4000_0002: Table 9.2 prints 0x4200_0000 beside its own "MAJ 0, MIN 2",
and that word is LD.sx.b's in Tables 7.12 and 9.9 (DEDUCED, log entry 110). -/
def encode : Instr → List Nat
  | .nop g => [encA 0 0 1 g 0 0 0]
  | .halt g => [encA 0 0 2 g 0 0 0]
  | .tret g => [encA 0 0 3 g 0 0 0]
  | .add g d a b => [encA 0 1 0 g d.toNat a.toNat b.toNat]
  | .sub g d a b => [encA 0 1 1 g d.toNat a.toNat b.toNat]
  | .mul g d a b => [encA 0 1 2 g d.toNat a.toNat b.toNat]
  | .mad g d a b => [encA 0 1 3 g d.toNat a.toNat b.toNat]
  | .mulh g d a b => [encA 0 2 0 g d.toNat a.toNat b.toNat]
  | .mulhu g d a b => [encA 0 2 1 g d.toNat a.toNat b.toNat]
  | .div g d a b => [encA 0 2 2 g d.toNat a.toNat b.toNat]
  | .divu g d a b => [encA 0 2 3 g d.toNat a.toNat b.toNat]
  | .rem g d a b => [encA 0 3 0 g d.toNat a.toNat b.toNat]
  | .remu g d a b => [encA 0 3 1 g d.toNat a.toNat b.toNat]
  | .min g d a b => [encA 0 3 2 g d.toNat a.toNat b.toNat]
  | .max g d a b => [encA 0 3 3 g d.toNat a.toNat b.toNat]
  | .minu g d a b => [encA 0 4 0 g d.toNat a.toNat b.toNat]
  | .maxu g d a b => [encA 0 4 1 g d.toNat a.toNat b.toNat]
  | .abs g d a => [encA 0 4 2 g d.toNat a.toNat 0]
  | .sel s d a b => [encA 0 4 3 s d.toNat a.toNat b.toNat]
  | .and g d a b => [encA 0 5 0 g d.toNat a.toNat b.toNat]
  | .or g d a b => [encA 0 5 1 g d.toNat a.toNat b.toNat]
  | .xor g d a b => [encA 0 5 2 g d.toNat a.toNat b.toNat]
  | .andn g d a b => [encA 0 5 3 g d.toNat a.toNat b.toNat]
  | .shl g d a b => [encA 0 6 0 g d.toNat a.toNat b.toNat]
  | .shr g d a b => [encA 0 6 1 g d.toNat a.toNat b.toNat]
  | .sar g d a b => [encA 0 6 2 g d.toNat a.toNat b.toNat]
  | .rotl g d a b => [encA 0 6 3 g d.toNat a.toNat b.toNat]
  | .clz g d a => [encA 0 7 0 g d.toNat a.toNat 0]
  | .ctz g d a => [encA 0 7 1 g d.toNat a.toNat 0]
  | .popc g d a => [encA 0 7 2 g d.toNat a.toNat 0]
  | .brev g d a => [encA 0 7 3 g d.toNat a.toNat 0]
  | .cmp g c p a b => [encA 0 8 0 g (c.toNat * 8 + p.toNat) a.toNat b.toNat]
  | .cmpAnd g c p a b => [encA 0 8 1 g (c.toNat * 8 + p.toNat) a.toNat b.toNat]
  | .cmpOr g c p a b => [encA 0 8 2 g (c.toNat * 8 + p.toNat) a.toNat b.toNat]
  | .cmpXor g c p a b => [encA 0 8 3 g (c.toNat * 8 + p.toNat) a.toNat b.toNat]
  | .mov g d a => [encA 0 9 0 g d.toNat a.toNat 0]
  | .lld g l a b => [encA 0 10 0 g l.toNat a.toNat b.toNat]
  | .lset g l a f => [encA 0 10 1 g l.toNat a.toNat f.toNat]
  | .lget g d l f => [encA 0 10 2 g d.toNat l.toNat f.toNat]
  | .lmov g l m => [encA 0 10 3 g l.toNat m.toNat 0]
  | .leaIndexed g sz d a b => [encA 0 11 sz.toNat g d.toNat a.toNat b.toNat]
  | .bra g off => [encOff 12 g off]
  | .call g off => [encOff 13 g off]
  | .callr g d a => [encA 0 14 0 g d.toNat a.toNat 0]
  | .jmpr g a => [encA 0 14 1 g 0 a.toNat 0]
  | .ret g a => [encA 0 14 2 g 0 a.toNat 0]
  | .exit g => [encA 0 14 3 g 0 0 0]
  | .brk g => [encA 0 15 0 g 0 0 0]
  | .trap g code => [encA 0 15 1 g 0 0 code.toNat]
  | .yield g => [encA 0 15 2 g 0 0 0]
  | .dflush g => [encA 0 15 3 g 0 0 0]
  | .fadd g f d a b => [encA 0 16 f.toNat g d.toNat a.toNat b.toNat]
  | .fsub g f d a b => [encA 0 17 f.toNat g d.toNat a.toNat b.toNat]
  | .fmul g f d a b => [encA 0 18 f.toNat g d.toNat a.toNat b.toNat]
  | .ffma g f d a b => [encA 0 19 f.toNat g d.toNat a.toNat b.toNat]
  | .fmin g f d a b => [encA 0 20 f.toNat g d.toNat a.toNat b.toNat]
  | .fmax g f d a b => [encA 0 21 f.toNat g d.toNat a.toNat b.toNat]
  | .fabs g f d a => [encA 0 22 f.toNat g d.toNat a.toNat 0]
  | .fneg g f d a => [encA 0 23 f.toNat g d.toNat a.toNat 0]
  | .fcmp g f c p a b => [encA 0 24 f.toNat g (c.toNat * 8 + p.toNat) a.toNat b.toNat]
  | .fdiv g f d a b => [encA 0 25 f.toNat g d.toNat a.toNat b.toNat]
  | .fsqrt g f d a => [encA 0 26 f.toNat g d.toNat a.toNat 0]
  | .frcp g f d a => [encA 0 27 f.toNat g d.toNat a.toNat 0]
  | .frsq g f d a => [encA 0 28 f.toNat g d.toNat a.toNat 0]
  | .fexp2 g f d a => [encA 0 29 f.toNat g d.toNat a.toNat 0]
  | .flog2 g f d a => [encA 0 30 f.toNat g d.toNat a.toNat 0]
  | .fsin g f d a => [encA 0 31 f.toNat g d.toNat a.toNat 0]
  | .fcos g f d a => [encA 0 32 f.toNat g d.toNat a.toNat 0]
  | .frnd g f d a => [encA 0 33 f.toNat g d.toNat a.toNat 0]
  | .fclass g f d a => [encA 0 34 f.toNat g d.toNat a.toNat 0]
  | .ldIndexed g sz d a b => [encA 0 35 sz.toNat g d.toNat a.toNat b.toNat]
  | .ldSxIndexed g sz d a b => [encA 0 36 sz.toNat g d.toNat a.toNat b.toNat]
  | .stIndexed g sz d a b => [encA 0 37 sz.toNat g d.toNat a.toNat b.toNat]
  | .ldAcqIndexed g sz d a b => [encA 0 38 sz.toNat g d.toNat a.toNat b.toNat]
  | .stRelIndexed g sz d a b => [encA 0 39 sz.toNat g d.toNat a.toNat b.toNat]
  | .fenceFull g => [encA 0 40 0 g 0 0 0]
  | .fenceAcq g => [encA 0 40 1 g 0 0 0]
  | .fenceRel g => [encA 0 40 2 g 0 0 0]
  | .fencePort g => [encA 0 40 3 g 0 0 0]
  | .mon g a => [encA 0 41 0 g 0 a.toNat 0]
  | .mwait g => [encA 0 41 1 g 0 0 0]
  | .semwait g a b => [encA 0 41 2 g 0 a.toNat b.toNat]
  | .semsig g a b => [encA 0 41 3 g 0 a.toNat b.toNat]
  | .deqp g d p => [encA 0 42 0 g d.toNat p.toNat 0]
  | .portq g d p => [encA 0 42 1 g d.toNat p.toNat 0]
  | .join g => [encA 0 43 0 g 0 0 0]
  | .flrd g d => [encA 0 43 1 g d.toNat 0 0]
  | .flcl g a => [encA 0 43 2 g 0 a.toNat 0]
  | .gangq g d => [encA 0 43 3 g d.toNat 0 0]
  | .divb g off => [encOff 44 g off]
  | .rbget g b => [encA 0 45 0 g b.toNat 0 0]
  | .rbput g b => [encA 0 45 1 g b.toNat 0 0]
  | .lend g => [encA 0 45 2 g 0 0 0]
  | .halloc g p d a => [encA 0 46 0 g d.toNat a.toNat p.toNat]
  | .hfree g a => [encA 0 46 1 g 0 a.toNat 0]
  | .hrsh g d a b => [encA 0 46 2 g d.toNat a.toNat b.toNat]
  | .eres g d a b => [encA 0 47 0 g d.toNat a.toNat b.toNat]
  | .erel g a => [encA 0 47 1 g 0 a.toNat 0]
  | .eset g a b => [encA 0 47 2 g 0 a.toNat b.toNat]
  | .tmld g k a e => [encA 0 47 3 g k.toNat a.toNat e.toNat]
  | .addi d a imm => [encB 48 d.toNat a.toNat imm.toNat]
  | .cmpi c p a imm => [encB 49 (c.toNat * 8 + p.toNat) a.toNat imm.toNat]
  | .movi d imm => [encB 50 d.toNat 0 imm.toNat]
  | .ldBShort d a imm => [encB 51 d.toNat a.toNat imm.toNat]
  | .ldHShort d a imm => [encB 52 d.toNat a.toNat imm.toNat]
  | .ldWShort d a imm => [encB 53 d.toNat a.toNat imm.toNat]
  | .ldDShort d a imm => [encB 54 d.toNat a.toNat imm.toNat]
  | .ldSxBShort d a imm => [encB 55 d.toNat a.toNat imm.toNat]
  | .ldSxHShort d a imm => [encB 56 d.toNat a.toNat imm.toNat]
  | .ldSxWShort d a imm => [encB 57 d.toNat a.toNat imm.toNat]
  | .stBShort d a imm => [encB 58 d.toNat a.toNat imm.toNat]
  | .stHShort d a imm => [encB 59 d.toNat a.toNat imm.toNat]
  | .stWShort d a imm => [encB 60 d.toNat a.toNat imm.toNat]
  | .stDShort d a imm => [encB 61 d.toNat a.toNat imm.toNat]
  | .pref k a imm => [encB 62 k.toNat a.toNat imm.toNat]
  | .rngb d a imm => [encB 63 d.toNat a.toNat imm.toNat]
  | .pfx kind v => [2 * 2 ^ 30 + kind.toNat * 2 ^ 27 + v.toNat]
  | .moviWide g d imm => [encA 1 0 0 g d.toNat 0 0, imm.toNat]
  | .moviHi g d imm => [encA 1 0 1 g d.toNat 0 0, imm.toNat]
  | .addiWide g d a imm => [encA 1 0 2 g d.toNat a.toNat 0, imm.toNat]
  | .leaImm g d a imm => [encA 1 0 3 g d.toNat a.toNat 0, imm.toNat]
  | .ldOffset32 g sz d a imm => [encA 1 1 sz.toNat g d.toNat a.toNat 0, imm.toNat]
  | .ldSxOffset32 g sz d a imm => [encA 1 2 sz.toNat g d.toNat a.toNat 0, imm.toNat]
  | .stOffset32 g sz d a imm => [encA 1 3 sz.toNat g d.toNat a.toNat 0, imm.toNat]
  | .ldAcqOffset32 g sz d a imm => [encA 1 4 sz.toNat g d.toNat a.toNat 0, imm.toNat]
  | .stRelOffset32 g sz d a imm => [encA 1 5 sz.toNat g d.toNat a.toNat 0, imm.toNat]
  | .atom g ord d a b disp dbl op => [encA 1 6 ord.toNat g d.toNat a.toNat b.toNat, disp.toNat * 2 ^ 16 + (bif dbl then 16 else 0) + op.toNat]
  | .cas g ord d a b disp dbl => [encA 1 7 ord.toNat g d.toNat a.toNat b.toNat, disp.toNat * 2 ^ 16 + (bif dbl then 16 else 0)]
  | .csrr g d csr => [encA 1 8 0 g d.toNat 0 0, csr.toNat]
  | .csrw g a csr => [encA 1 8 1 g 0 a.toNat 0, csr.toNat]
  | .csrs g a csr => [encA 1 8 2 g 0 a.toNat 0, csr.toNat]
  | .extb g d a pos width => [encA 1 9 0 g d.toNat a.toNat 0, width.toNat * 2 ^ 6 + pos.toNat]
  | .extbSx g d a pos width => [encA 1 9 1 g d.toNat a.toNat 0, width.toNat * 2 ^ 6 + pos.toNat]
  | .insb g d a pos width => [encA 1 9 2 g d.toNat a.toNat 0, width.toNat * 2 ^ 6 + pos.toNat]
  | .qop g p qa qb tt => [encA 1 10 0 g p.toNat qa.toNat qb.toNat, tt.toNat]
  | .fcvt g d a src dst => [encA 1 11 0 g d.toNat a.toNat 0, src.toNat * 2 ^ 4 + dst.toNat]
  | .loop g a imm => [encA 1 12 0 g 0 a.toNat 0, imm.toNat]
  | .vote g d idx flag kind mask => [encA 1 13 0 g d.toNat idx.toNat ((bif flag then 2 else 1) * 2 ^ 4 + kind.toNat), mask.toNat]
  | .shfl g d a b mask => [encA 1 13 1 g d.toNat a.toNat b.toNat, mask.toNat]
  | .redx g d a cls kind mask => [encA 1 13 2 g d.toNat a.toNat (cls.toNat * 2 ^ 4 + kind.toNat), mask.toNat]
  | .tex g d a b l => [encA 1 14 0 g d.toNat a.toNat b.toNat, l.toNat]
  | .texg g d a b l ch => [encA 1 14 1 g d.toNat a.toNat b.toNat, ch.toNat * 2 ^ 6 + l.toNat]
  | .texq g d a b => [encA 1 14 2 g d.toNat a.toNat b.toNat, 0]
  | .raybox g d a b p => [encA 1 15 0 g d.toNat a.toNat b.toNat, p.toNat]
  | .raytri g d a b p => [encA 1 15 1 g d.toNat a.toNat b.toNat, p.toNat]
  | .rast g a b p => [encA 1 15 2 g 0 a.toNat b.toNat, p.toNat]
  | .bary g d a b => [encA 1 15 3 g d.toNat a.toNat b.toNat, 0]
  | .xop g d a b c k => [encA 1 16 0 g d.toNat a.toNat b.toNat, c.toNat * 2 ^ 12 + k.toNat]
  | .patld g a k => [encA 1 17 0 g 0 a.toNat 0, k.toNat]
  | .patdr g k => [encA 1 17 1 g 0 0 0, k.toNat]
  | .patq g d k => [encA 1 17 2 g d.toNat 0 0, k.toNat]
  | .fork g a n => [encA 1 18 0 g 0 a.toNat 0, n.toNat]
  | .forkToken g n => [encA 1 18 0 g 0 0 0, n.toNat]
  | .rdv g mask => [encA 1 18 1 g 0 0 0, mask.toNat * 2]
  | .spawn g a => [encA 1 18 2 g 0 a.toNat 0, 0]
  | .tenq g d a b => [encA 1 18 3 g d.toNat a.toNat b.toNat, 0]
  | .wdone g => [encA 1 19 0 g 0 0 0, 0]
  | .ssync g => [encA 1 19 1 g 0 0 0, 0]
  | .govrd g d => [encA 1 19 2 g d.toNat 0 0, 0]
  | .enqp g a b p => [encA 1 20 0 g 0 a.toNat b.toNat, p.toNat]
  | .enqpNb g q a b p => [encA 1 20 1 g 0 a.toNat b.toNat, q.toNat * 2 ^ 8 + p.toNat]
  | .amend t f v => [encP t.toNat f.toNat 0 v.toNat]
  | .issueField t f v => [encP t.toNat f.toNat 1 v.toNat]
  | .issue t => [encP t.toNat 0 2 0]
  | .issueAdd t f v => [encP t.toNat f.toNat 3 v.toNat]
  | .idle v => [encP 0 0 4 v.toNat]
  | .sloop b st n => [encP b.toNat 0 5 (st.toNat * 2 ^ 13 + n.toNat)]
  | .sdone => [encP 0 1 5 0]
  | .idleEnd | .sequencerResume | .portCommandTake | .vadd | .vsub | .vmul | .vfma | .vmin | .vmax | .vabs
  | .vcmp | .vsel | .vlog | .vshf | .vidle | .vidleEnd | .vxop | .vexp2 | .vlog2 | .vrcp | .vrsq | .vsqrt
  | .vcvt | .vpackmx | .vunpk | .vscale | .vsrnd | .vred | .vscan | .vperm | .vbcast | .vtrn | .cpy | .gath
  | .scat | .mcst | .halo | .coll | .dpos | .wld | .mma | .mmw | .acrd | .acz | .commandComplete _ | .copyChunkComplete
  | .streamSlotReturn | .semIncrementApply _ | .remoteWaitAdmit _ | .convergenceTest _ | .serviceCheck _
  | .fenceComplete _ | .ssyncComplete _ | .wdoneComplete _ | .govrdComplete _ | .epochClose _ | .groupEnd _
  | .waveRetire _ | .queueDrainRound | .dispatchDecision | .groupStart _ | .preemptDeadline _ | .drainDeadline _
  | .saveComplete _ | .tileStopComplete _ | .watchdogExpiry _ | .patternEntryEvictable _ | .replayGateTimeout _
  | .homeAdmitReadShared _ | .homeAdmitReadExclusive _ | .homeAdmitUpgrade _ | .homeWritebackArrive _ _
  | .homeInvalidationAck _ _ | .homeFetchDataArrive _ | .homeForwardResponse _ | .l1InvalidationReceive _ _
  | .l1ForwardReceive _ _ | .l1GrantReceive _ _ | .l1WritebackAck _ _ | .homeAtomicPerform _ | .redirectedAtomicResend _
  | .peerReadAtTarget _ _ _ | .peerWriteAtTarget _ _ _ _ | .peerInvalidateReceive _ _ | .peerTimeout _
  | .companionAccess _ _ _ _ | .hostEnqueue _ _ | .pageWalkComplete | .faultReportRelease | .frameTableWrite _ _
  | .recordControlWrite _ _ | .asidEntryWrite _ _ | .watchQueueRegister _ _ | .faultQueueRegister _ _ _ _
  | .pageFaultReplay _ | .pageFaultRefuse _ | .shootdown _ _ _ | .freeze _ _ | .thaw _ | .directNodeWrite _ _
  | .preemptRequest _ | .fabricDomainRegister _ | .scrubWrite _ _ | .fsubmit _ | .hstatWrite _ | .linkPinWrite _ _
  | .drstGo _ | .dieQuiesceEnd | .allowWrite _ _ | .cecntRead _ | .keyCommit _ | .hostRegWrite _ _ _
  | .energyAllowanceReached _ | .energyWindowEnd _ | .thermalTrip _ | .thermalClear | .linkMeasureWindow _ _ _
  | .retrainWindowEnd _ | .linkRetrainFail _ | .flitCheckFail _ | .correctedError _ | .uncorrectableError _
  | .patrolScrub _ | .powerGood | .selfTestDone _ | .hbmTrainingDone _ | .hbmInitDone _ | .packageReset
  | .illegalInstructionEncoding _ | .remoteScratchpadAccess _ | .hostTransactionComplete _ | .driverPathAccess _ _ _ _
  | .nodeDiscard _ | .haltedWaveResumeOrDiscard _ _ => []

/-- The row a key names, if the table lists it. -/
def findRow {α : Type} : List (Nat × α) → Nat → Option α
  | [], _ => none
  | (j, x) :: r, k => bif j == k then some x else findRow r k

/-- The instruction a patch word names, by its action (Tables 7.14 and 7.15, R147). -/
def decodePatchRaw (w : Nat) : Option Instr :=
  let ti := bv 6 (w / 2 ^ 24)
  let fs := bv 5 (w / 2 ^ 19)
  let val := bv 16 w
  match w / 2 ^ 16 % 8 with
  | 0 => some (.amend ti fs val)
  | 1 => some (.issueField ti fs val)
  | 2 => some (.issue ti)
  | 3 => some (.issueAdd ti fs val)
  | 4 => some (.idle val)
  | 5 => bif fs == 0#5 then some (.sloop ti (bv 3 (w / 2 ^ 13)) (bv 13 w)) else some .sdone
  | _ => none

/-- The instruction a first word and, for format W, the word after it name, reserved fields unchecked. -/
def decodeRaw (w v : Nat) : Option Instr :=
  match fSel w with
  | 0 => bif fMaj w < 48 then (findRow rowsA (fMaj w * 4 + fMin w)).map (· w) else (findRow rowsB (fMaj w)).map (· w)
  | 1 => (findRow rowsW (fMaj w * 4 + fMin w)).map (fun f => f w v)
  | 2 => some (.pfx (bv 3 (w / 2 ^ 27)) (bv 27 w))
  | _ => decodePatchRaw w

/-- How many words the instruction beginning with `w` has: two for format W (R116). -/
def wordCount (w : Nat) : Nat := if fSel w = 1 then 2 else 1

/-- Decodes the words `w` and (for format W) `v`, of either kind of stream: the row they name, accepted when no
reserved bit is set and every field value is one the tables admit. -/
def decodeWord (w v : Nat) : Except DecodeError Instr :=
  match decodeRaw w v with
  | none => .error .unusedOpcode
  | some i =>
    if encode i = (if fSel w = 1 then [w, v] else [w]) then
      if wellFormed i then .ok i else .error .refusedValue
    else .error .reservedField

/-- Decodes the words at the PC of a core stream (Table 7.1: a selector 0b11 is illegal there). -/
def decodeCore (w v : Nat) : Except DecodeError Instr :=
  if fSel w = 3 then .error .selector else decodeWord w v

/-- Decodes one word of an engine strand: only patch words are legal there (Table 7.1). -/
def decodePatch (w : Nat) : Except DecodeError Instr :=
  if fSel w = 3 then decodeWord w 0 else .error .selector

/-- The number of the bytes of a list, least significant first (00 R5). -/
def leNat : List Byte → Nat
  | [] => 0
  | b :: bs => b.toNat + 256 * leNat bs

/-- The `n` bytes of a number, least significant first (00 R5). -/
def leBytes : Nat → Nat → List Byte
  | 0, _ => []
  | n + 1, x => BitVec.ofNat 8 x :: leBytes n (x / 256)

/-- Decodes the bytes of an instruction as memory holds them: little-endian words, the first at the lowest address. -/
def decodeBytes (bs : List Byte) : Except DecodeError Instr :=
  decodeWord (leNat (bs.take 4)) (leNat ((bs.drop 4).take 4))

/-- What the decoder reads from an instruction whose bits are `w`, numbered as the opcode table numbers them; bits
above `nbits` are zero. -/
def decodeTableWord (nbits w : Nat) : Option Instr :=
  match decodeBytes (leBytes 8 (w % 2 ^ nbits)) with
  | .ok i => some i
  | .error _ => none

end Sys2Proof
end

