-- ==== Sys2Proof/Config.lean ====
section
/-! DEFINITION. What the S9 fixes as numbers (chapters 00, 01, 05, 15, 19, 23, 25), and the values the manual leaves open: constants with no body. -/

namespace Sys2Proof

/-- Print tiles of the package (00 R2). -/
def Config.tiles : Nat := 96
/-- Proof cores of the package (00 R2). -/
def Config.cores : Nat := 64
/-- Thread slots of a proof core (01 R21). -/
def Config.slots : Nat := 1024
/-- Ordinary register blocks of a proof core (01 R23). -/
def Config.blocks : Nat := 4095
/-- Line size in bytes (05 R92). -/
def Config.line : Nat := 128
/-- Width of a virtual address (05 R86). -/
def Config.vaBits : Nat := 57
/-- First address above the translated range: the own alias (05 Table 5.2). -/
def Config.ownAlias : Nat := 0x01E0000000000000
/-- The own alias's size in bytes (05 Table 5.2). -/
def Config.aliasSize : Nat := 0x02000000
/-- The scratchpad window of tile 0 (05 Table 5.2). -/
def Config.window : Nat := 0x01F0000000000000
/-- Scratchpad bytes under split code n (01 Table 1.2): 24 MiB less n times 768 KiB. -/
def Config.scratchSize (n : Nat) : Nat := 24 * 2 ^ 20 - n * (768 * 2 ^ 10)
/-- Group memory bytes of a proof core under split code m (01 R22): 2 MiB less m times 768 KiB. -/
def Config.groupMemSize (m : Nat) : Nat := 2 * 2 ^ 20 - m * (768 * 2 ^ 10)
/-- Easel bytes of a tile (15 R299). -/
def Config.easelSize : Nat := 1572864
/-- Fitted device memory in bytes: 768 GiB (00 Table 0.2). -/
def Config.hbmBytes : Nat := 768 * 2 ^ 30
/-- Sets of an L2 slice: 3 MiB of 128-byte lines in 16 ways (00 Table 0.2). -/
def Config.l2Sets : Nat := 1536
/-- Ways of a set of the L2. -/
def Config.l2Ways : Nat := 16
/-- Cycles of an energy window (25 R427). -/
def Config.window1ms : Nat := 1900000
/-- Cycles a pre-emption or a drain may take before it is forced (19 R350, 23 R395). -/
def Config.deadline100us : Nat := 190000
/-- Cycles of the quiesce deadline of a die reset (25 R413). -/
def Config.quiesce : Nat := 380000
/-- Cycles after which a silent package ends a PEER access (25 R424): 2 ms. -/
def Config.peerTimeout : Nat := 3800000
/-- Sustained energy per window in microjoules, and the limit above which overdraft ends (19 R358). -/
def Config.sustained : Nat := 3600000
/-- The package's window energy above which a die in overdraft is held (19 R358). -/
def Config.peak : Nat := 4200000
/-- Cycles of aging per priority level (19 R348). -/
def Config.aging : Nat := 3800000
/-- The offered feature word (25 Table 25.8): bits 0-6, 64 and 65. -/
def Config.offered : Nat := 0x7F + 3 * 2 ^ 64
/-- The mandatory features (25 Table 25.8): BASE and BINV. -/
def Config.mandatory : Nat := 1 + 2 ^ 64

/-- The memory die, of six, that holds a line of device memory: the manual fits two stacks on each and does not say how
lines are spread over them. -/
opaque Config.memoryDie : Nat → Nat
/-- Places of the ring of free save-buffer addresses of an address space (23 R379): the manual gives the ring no size. -/
opaque Config.spoolEntries : Nat → Nat
/-- The values the manual leaves open, by a number the step reads and advances: nothing is known of them. -/
opaque Config.freeWord : Nat → Word
/-- The combination of two elements of a format to which the manual gives no reduction (13 R282 with E8M0 or Picot-8). -/
opaque Config.freeReduce : Nat → Nat → Nat → Nat
/-- An element of one format as one of another, by formats and value, where the manual states no conversion (13 R282 into or from E8M0 or
Picot-8). -/
opaque Config.freeConvert : Nat → Nat → Nat → Nat

end Sys2Proof
end

