-- ==== Sys2Proof/Machine/Store.lean ====
section
/-! DEFINITION. `SMap`: sparse storage indexed by a number, as a list of (key, value) pairs in one canonical form:
keys strictly rising, and no entry equal to the default an unlisted key reads as. Every indexed piece of the
machine's state (registers, semaphores, engines, memory bytes) is one of these, so that equal states are equal data. -/

namespace Sys2Proof.Machine

/-- Sparse storage with default value `default`. -/
abbrev SMap (α : Type) := List (Nat × α)

/-- The value at key `k`: the listed one, or the default. -/
def SMap.get {α : Type} [Inhabited α] : SMap α → Nat → α
  | [], _ => default
  | (j, v) :: m, k => if j = k then v else SMap.get m k

/-- Writes `v` at key `k`, keeping the canonical form: writing the default removes the entry. -/
def SMap.set {α : Type} [Inhabited α] [DecidableEq α] : SMap α → Nat → α → SMap α
  | [], k, v => if v = default then [] else [(k, v)]
  | (j, w) :: m, k, v =>
    if k < j then (if v = default then (j, w) :: m else (k, v) :: (j, w) :: m)
    else if k = j then (if v = default then m else (k, v) :: m)
    else (j, w) :: SMap.set m k v

/-- Applies `f` to the value at key `k`. -/
def SMap.upd {α : Type} [Inhabited α] [DecidableEq α] (m : SMap α) (k : Nat) (f : α → α) : SMap α :=
  SMap.set m k (f (SMap.get m k))

/-- Every key of `m` is greater than `k`. -/
def SMap.above {α : Type} (k : Nat) : SMap α → Bool
  | [] => true
  | (j, _) :: _ => k < j

/-- The canonical form: keys strictly rising and no entry holding the default. -/
def SMap.wf {α : Type} [Inhabited α] [DecidableEq α] : SMap α → Bool
  | [] => true
  | (j, v) :: m => SMap.above j m && !decide (v = default) && SMap.wf m

/-- Writes the values of a list at consecutive keys from `k`. -/
def SMap.setMany {α : Type} [Inhabited α] [DecidableEq α] (m : SMap α) (k : Nat) : List α → SMap α
  | [] => m
  | v :: vs => SMap.setMany (SMap.set m k v) (k + 1) vs

/-- The values at `n` consecutive keys from `k`. -/
def SMap.getMany {α : Type} [Inhabited α] (m : SMap α) (k : Nat) : Nat → List α
  | 0 => []
  | n + 1 => SMap.get m k :: SMap.getMany m (k + 1) n

/-- Removes every entry whose key lies in [lo, hi): those keys read as the default again. -/
def SMap.clearRange {α : Type} (m : SMap α) (lo hi : Nat) : SMap α :=
  m.filter fun p => decide (p.1 < lo) || decide (hi ≤ p.1)

/-- Writes the values of a list at consecutive keys from `k` in one pass; entries that hold the default are not listed. -/
def SMap.splice {α : Type} [Inhabited α] [DecidableEq α] (m : SMap α) (k : Nat) (vs : List α) : SMap α :=
  (m.filter fun p => decide (p.1 < k))
    ++ ((vs.zipIdx k).filterMap fun p => if p.1 = default then none else some (p.2, p.1))
    ++ m.filter fun p => decide (k + vs.length ≤ p.1)

end Sys2Proof.Machine
end

