-- ==== Sys2Proof/Machine/State.lean ====
section
/-! DEFINITION. The state of an S9 package as plain data: every piece of state the manual names, per thread, tile, proof
core, group, wave and hub unit. Indexed state is held in `SMap`s, whose unlisted entries are the type's default: all
zero, empty and not live. -/

namespace Sys2Proof.Machine

/-! ## Reasons a step can stop -/

/-- Why the machine stops with a fault. A trap of the S9 is never one of these: it is a next state. -/
inductive Fault where
  /-- A core instruction is executed by an agent that is no live running thread, or a patch word by an agent that is no
  engine with a strand. Raised by the shared prologues, never in a step. Safe: the hardware's units fetch only their own
  words. -/
  | wrongUnit
deriving DecidableEq, Repr

/-- Why the machine refuses an instruction. -/
inductive Refusal where
  /-- The instruction has no meaning in the model yet. Safe: nothing is claimed of it. Raised by no meaning. -/
  | notModelled (mnemonic : String)
deriving DecidableEq, Repr

/-! ## Memory -/

/-- The memory: (key, byte) pairs in canonical form, an unlisted byte reading 0. Keys lay the address spaces side by
side (`Loc.key`): HBM, host, scratchpads, group memories, easels, peer packages. -/
abbrev Memory := List Host.Cell

/-- The address spaces a byte can lie in (05 Tables 5.1 and 5.3). -/
inductive Space where
  /-- this package's device memory -/
  | hbm
  /-- host memory -/
  | host
  /-- scratchpad of a tile -/
  | sp (tile : Nat)
  /-- group memory of a proof core -/
  | gm (core : Nat)
  /-- easel of a tile -/
  | easel (tile : Nat)
  /-- device memory of another package -/
  | peer (pkg : Nat)
deriving DecidableEq, Repr, Inhabited

/-- A byte's place: its space and its address there. -/
structure Loc where
  space : Space
  addr : Nat
deriving DecidableEq, Repr, Inhabited

/-! ## Threads -/

/-- An entry of the loop stack (09 R180). -/
structure LoopEntry where
  body : Word
  lend : Word
  count : Word
deriving DecidableEq, Repr, Inhabited

/-- A thread's monitor (09 R193). -/
structure Monitor where
  armed : Bool
  triggered : Bool
  /-- the block's place, a multiple of 128 -/
  loc : Loc
  /-- the virtual address of the block, for the re-read of a restore -/
  va : Nat
  ref : List Byte
deriving DecidableEq, Repr, Inhabited

/-- One command outstanding on a thread's engine port, oldest first (09 R203, R204). -/
structure PortSlot where
  /-- number of the push, unique in the machine -/
  push : Nat
  done : Bool
  result : Word
deriving DecidableEq, Repr, Inhabited

/-- What a memory operation does at its place. -/
inductive AccessOp where
  /-- a load of `size` bytes, sign-extended when `sx` -/
  | load (sx : Bool)
  | store
  /-- an ATOM by its operation code (Table 9.10) -/
  | atom (op : Nat)
  | cas
  | tenq
deriving DecidableEq, Repr, Inhabited

/-- One access of a thread, with everything needed to perform it and finish its instruction later (09 R184-R191). -/
structure Access where
  op : AccessOp
  va : Nat
  loc : Loc
  size : Nat
  /-- destination register number -/
  gd : Nat
  /-- operand: the value stored, the atomic's v, the swap value, the node address -/
  value : Nat
  /-- the expected value of a CAS -/
  expected : Nat
  /-- the PC after the instruction, and the level it runs at -/
  next : Word
  user : Bool
  /-- allocation hint of a memory prefix -/
  hint : Nat
  /-- ordering form: 0 plain, 1 acquire, 2 release, 3 both (05 R103) -/
  ord : Nat
deriving DecidableEq, Repr, Inhabited

/-- A wave node's record, its fields (19 Tables 19.1-19.3). -/
structure Node where
  ctl : Word
  entry : Word
  arg : Word
  rkey : Word
  patbase : Word
  id : Word
  place : Word
  mem : Word
  coplace : Word
  domain : Word
  preds : List Word
  /-- tile operands: VA word and length word -/
  ops : List (Word × Word)
  ports : SMap Half
  /-- a reserved byte of the record is set -/
  reserved : Bool
deriving DecidableEq, Repr, Inhabited

/-- What a thread waits for at its instruction (01 R28, 09 R162). -/
inductive Wait where
  | divb (taken : Bool) (target : Word)
  | join
  /-- at this VOTE, SHFL or REDX -/
  | collective (i : Instr)
  | semwait (tile sem thr : Nat) (con : Bool)
  | mwait
  | enqp (port : Nat)
  | deqp (port : Nat)
  | rbget (block : Nat)
  | fence
  | fencePort
  | dflush
  /-- PATLD with the image it has read, or PATDR -/
  | pattern (slot : Nat) (image : List Byte)
  /-- WDONE and SSYNC, with the commands (engine * 2^32 + sequence number) that were incomplete when it issued -/
  | wdone (cmds : List Nat)
  | ssync (cmds : List Nat)
  /-- GOVRD with its step number or query, and its destination -/
  | govrd (step : Word) (gd : Nat)
  /-- SPAWN with the record it has read and checked -/
  | spawn (n : Node)
  | exit
  | rdv (mask : Nat)
  | strand (engine : Nat)
  | hoops
  /-- sent to another tile, to the host, to a package or to a busy home, and not yet performed -/
  | access (a : Access)
  /-- answered with a redirect by a frozen home (05 R100) -/
  | redirected (a : Access)
  /-- parked on an absent page at this virtual address, under the fault report of this tag (23 R405) -/
  | page (tag va : Nat)
  /-- the walk for this virtual address is in progress (23 R403), for an access of this kind (ACC of 23 Table 23.10) -/
  | walk (va acc : Nat)
  /-- a read of a fetch or a record, or (`write`) a stored record, a ring store or a port push, is held on the way to this
  place: its home is busy or frozen, a link retrains, or a PEER line has not come yet; with the virtual address -/
  | line (l : Loc) (va : Nat) (write : Bool)
  /-- EREL under way (15 R301): `Thread.erel` says for what -/
  | erel
deriving DecidableEq, Repr, Inhabited

/-- A thread: a proof thread or the control core of a tile, with its registers, CSRs and wait (00 R7, 01 R38, 23 R380). -/
structure Thread where
  live : Bool
  /-- key of its group: wave number * 1024 + group index -/
  gid : Nat
  /-- logical thread index in the group -/
  idx : Nat
  pc : Word
  /-- g1-g63, g0 never listed -/
  g : SMap Word
  /-- q1-q7; bit 0 unused -/
  q : BitVec 8
  /-- c.flags and fl: NV DZ OF UF NX -/
  fl : BitVec 5
  /-- c.fmode: RMODE, FTZ -/
  fmode : BitVec 4
  rkey : Word
  digest : Word
  /-- all ones at reset (19 Table 19.9) -/
  govmask : Word := BitVec.allOnes 64
  patbase : Word
  tvec : Word
  tcut : Word
  tepc : Word
  tval : Word
  tcause : Byte
  prv : Bool
  pprv : Bool
  step : Bool
  chkmiss : Bool
  /-- innermost first, at most four -/
  loops : List LoopEntry
  mon : Monitor
  ports : SMap (List PortSlot)
  /-- register blocks held -/
  held : BitVec 6
  /-- the block number the reserve block serves, plus one; 0 for none -/
  reserve : Nat
  /-- registers whose value waits for a close: register number to buffer entry number plus one (21 R367) -/
  pend : SMap Nat
  wait : Option Wait
  /-- the PC after the instruction it waits at -/
  resume : Word
  /-- the wait of this instruction has been met, and its checkpoint is still to be made (21 R377) -/
  granted : Bool
  /-- the texture or ray instruction it waits in has been issued: it completes before a save (11 R237, R241) -/
  issued : Bool
  /-- 1 + the address with which a fault of the record it reads is reported (11 R230, R241); 0: the access's own -/
  named : Nat
  /-- the fault a refused page brings to the parked access: cause and value -/
  refusal : Option (Nat × Nat)
  /-- prefix words of the sequence in progress, first first -/
  pfx : List Half
  /-- stopped by HALT, a double trap, a die reset or a unit error -/
  halted : Bool
  /-- cycle of that stop -/
  haltedAt : Nat
  /-- completed WDONE -/
  wdone : Bool
  /-- SSYNCs completed -/
  ssyncs : Nat
  /-- GOVRD queries completed -/
  queries : Nat
  /-- checkpoints passed (21 R377) -/
  ckpt : Nat
  /-- 1: the SSYNC it waits at has passed its flush point and awaits the other groups (19 R353) -/
  arrived : Nat
  /-- 1 + the line its TENQ's home holds while the ring store waits for a page; 0 for none (19 R345) -/
  holds : Nat
  /-- program-order position of the next buffered access -/
  order : Nat
  /-- instructions completed since the group started (CUT_0 of 23 R389) -/
  completed : Nat
  /-- cycle of its last issue, or of becoming runnable (01 R27) -/
  since : Nat
  /-- order in which it parked -/
  parkedAt : Nat
  /-- 1 + the cycle in which the present wait began, later by the cycles its unit was stopped; 0 when it does not wait
  (23 R399) -/
  waited : Nat
  /-- 1 + the cycle in which it parked, whatever stops have come since (11 R228); 0 when it does not wait -/
  parkedIn : Nat
  /-- cycles its instruction had waited when its wave was saved, until it waits again (23 R399) -/
  hadWaited : Nat
  /-- an EREL under way: its record, and the commands (engine * 2^32 + sequence number) that named it when it began; whatever
  its thread waits for meanwhile (15 R301) -/
  erel : Option (Nat × List Nat)
deriving DecidableEq, Repr, Inhabited

/-! ## Engines of a print tile -/

/-- The loop state of a strand (13 R258). -/
structure StrandLoop where
  /-- address of the SLOOP word -/
  addr : Word
  body : Nat
  stages : Nat
  trips : Nat
  t : Nat
  j : Nat
  /-- position within stage j -/
  pos : Nat
deriving DecidableEq, Repr, Inhabited

/-- A strand: its fetch address, the cycle an IDLE holds it to, and its loop (13 R246, R256, R258). -/
structure Strand where
  pc : Word
  idleUntil : Nat
  idling : Bool
  loop : Option StrandLoop
  /-- the fetch waits for a walk or an absent page -/
  wait : Option Wait
  /-- the fault a refused page or a failed walk brings to the fetch: cause and value -/
  refusal : Option (Nat × Nat)
  /-- cycle in which its wait began -/
  waited : Nat
deriving DecidableEq, Repr, Inhabited

/-- Where a port command came from (09 R202, R204). -/
structure PortSource where
  tid : Nat
  port : Nat
  push : Nat
  gid : Nat
  rkey : Word
  asid : Nat
deriving DecidableEq, Repr, Inhabited

/-- An issued command: the template copy and all it read at its issue (07 R143, 13 R250-R284). -/
structure Command where
  seq : BitVec 32
  image : BitVec 256
  rkey : Word
  /-- layout registers as read at issue (13 R267) -/
  lays : SMap (BitVec 128)
  /-- the draw record of VSRND and VPACKMX (13 R273) -/
  draw : BitVec 256
  /-- the pattern image a VXOP bound (17 R330) -/
  pattern : List Byte
  port : Option PortSource
  /-- tokens popped (23 R390) -/
  popped : Bool
  /-- gate registered at the semaphore block, and satisfied -/
  gated : Bool
  passed : Bool
  started : Bool
  finished : Bool
  /-- resume cursor: vector, chunk, row; and the second part: ordinal, pass, SENT -/
  cursor : Nat
  cursor2 : Nat
  /-- elements sent in whole vectors, to a stream destination (13 R284) -/
  sent : Nat
  /-- partial list or tree state of VRED and VSCAN -/
  partials : List (Nat × Nat)
  /-- the easel record read at the start, by operand (15 R303) -/
  easels : SMap (BitVec 64)
  /-- the chunk at the cursor: 0 to be performed, 1 performed, 2 its increment under way, 3 performed and counted -/
  phase : Nat
  /-- stream vectors whose slots it has freed, by input stream -/
  freed : SMap Nat
  /-- the rank's contribution of a COLL, elements in the source format (13 R282) -/
  contrib : List Nat
  /-- match number of a COLL -/
  matchNo : Nat
  /-- the command waits at its cursor for a walk or an absent page -/
  wait : Option Wait
  /-- the fault a refused page or a failed walk brings to it: cause and value -/
  refusal : Option (Nat × Nat)
  /-- cause and value the command raised, for a port command's result -/
  cause : Nat
  /-- commands it is ordered after: engine * 2^32 + sequence number (21 R371) -/
  after : List Nat
  /-- cycle in which its present wait began, later by the cycles its tile was stopped (23 R399) -/
  waited : Nat
deriving DecidableEq, Repr, Inhabited

/-- A vector of 192 lanes: the non-zero ones (13 R259). -/
abbrev Vec := SMap Half

/-- A port command waiting in the hub for its engine (13 R251, R255). -/
structure PortCommand where
  src : PortSource
  word : BitVec 128
deriving DecidableEq, Repr, Inhabited

/-- An engine E1-E9 of a tile (01 R16, 13 R245-R261, 23 R391). -/
structure Engine where
  strand : Option Strand
  seq : BitVec 32
  templates : SMap (BitVec 256)
  /-- issued and not started, oldest first, at most 16 -/
  issued : List Command
  /-- started and not complete -/
  started : List Command
  /-- input streams 0-3, oldest vector first -/
  streams : SMap (List Vec)
  /-- used places of the eight, per consumer input fed: consumer * 4 + input (8 less the free-slot counter) -/
  used : SMap Nat
  /-- freed slots whose return is on the wire: producer, consumer * 4 + input, count -/
  returns : SMap Nat
  portq : List PortCommand
  /-- commands that what this engine (or for E0 the control core) starts next is ordered after, for the overlap checker -/
  after : List Nat
  /-- commands that every later command of this hoop queue is ordered after (15 R307), for the overlap checker -/
  order : List Nat
  /-- COLLs started (13 R282) -/
  colls : Nat
  /-- the 16 places were found full; fetch and port intake stopped until one frees (13 R251) -/
  full : Bool
deriving DecidableEq, Repr, Inhabited

/-- A hoop on one of a tile's queues (15 R287-R308). -/
structure Hoop where
  present : Bool
  shape : Nat
  pos : Nat
  gen : Byte
  /-- weight state: loaded, format, scale kind (0 none, 1 MX, 2-5 Picot-8), KEXT, N (15 R308) -/
  loaded : Bool
  wfmt : Nat
  wblk : Nat
  wk : Nat
  wn : Nat
  /-- stationary elements, raw: k * 384 + n -/
  weights : SMap Nat
  /-- scales, raw: block * 384 + n -/
  scales : SMap Nat
deriving DecidableEq, Repr, Inhabited

/-- A wait at a semaphore block: a thread's SEMWAIT or a template gate (09 R198-R200). -/
structure SemWait where
  who : Agent
  /-- sequence number of the gated command -/
  seq : Nat
  sem : Nat
  thr : Nat
  con : Bool
  remote : Bool
deriving DecidableEq, Repr, Inhabited

/-- An increment on its way to a semaphore block (09 R197, R199, 13 R278). -/
structure SemInc where
  /-- rank in the order of one cycle: engines by number, then 16 + sharer bit -/
  rank : Nat
  sem : Nat
  amount : Nat
  /-- the thread whose SEMSIG waits for it, or the engine command that counts -/
  who : Agent
  seq : Nat
  /-- the order in which it was sent, among what threads have sent (25 R411) -/
  sent : Nat
deriving DecidableEq, Repr, Inhabited

/-- A footprint the overlap checker keeps (21 R371, R372). -/
structure Footprint where
  engine : Nat
  seq : Nat
  lo : Nat
  hi : Nat
  write : Bool
  complete : Bool
deriving DecidableEq, Repr, Inhabited

/-- A pattern slot of a group (17 R323, R324). -/
structure PatSlot where
  valid : Bool
  image : List Byte
  loadedAt : Nat
  usedAt : Nat
  used : Bool
deriving DecidableEq, Repr, Inhabited

/-- Why a tile is stopping or stopped (23 R387). -/
inductive StopKind where
  /-- a cause raised by an engine command or fetch: engine, sequence number, cause, value -/
  | trap (engine seq cause : Nat) (val : Nat)
  | halt
  | save
deriving DecidableEq, Repr, Inhabited

/-- A print tile (01 R15). -/
structure Tile where
  layouts : SMap (BitVec 128)
  sems : SMap Nat
  waits : List SemWait
  remoteq : List SemWait
  incs : List SemInc
  /-- token counts: from * 16 + to (E0-E9) -/
  tokens : SMap Nat
  /-- the commands each token of a queue stands for, oldest token first, for the overlap checker -/
  tokenFrom : SMap (List (List Nat))
  engines : SMap Engine
  easel : SMap (BitVec 64)
  /-- hoop queues 0-3; the generation counts live with them -/
  hoops : SMap Hoop
  /-- accumulator words of the panel: row * 192 + column -/
  acc : SMap Half
  /-- causes raised since the engines ran, awaiting the stop -/
  stops : List StopKind
  stopped : Bool
  /-- cycle of the stop -/
  stoppedAt : Nat
  footprints : List Footprint
  /-- the page-fault report its cut-record write waits on, plus one; and that page was refused (23 R389, R405) -/
  cutWait : Nat
  cutRefused : Bool
  /-- 1 + the cycle from which the cut record's write to another package awaits its answer; 0 for none (25 R424) -/
  cutSince : Nat
  /-- occupied: key of the group plus one -/
  group : Nat
  /-- split code and address space of the previous wave on the tile; 0 when none since bring-up or die reset -/
  prevSram : Nat
  prevAsid : Option Nat
  sram : Nat
deriving DecidableEq, Repr, Inhabited

/-- A proof core (01 R21-R23, R42). -/
structure Core where
  /-- split of the waves on it; 0 when none -/
  sram : Nat
  /-- gid of the group holding the progress token, plus one -/
  token : Nat
  /-- the thread the next gang serves (01 R27), plus one -/
  serve : Nat
  /-- the lanes of the gang issuing now, for GANGQ -/
  gang : Half
deriving DecidableEq, Repr, Inhabited

/-! ## Waves, groups and the ready pool -/

/-- Wave states (01 Table 1.8). -/
inductive WaveState where
  | pending | ready | placed | running | preempted | retiring | retired
deriving DecidableEq, Repr, Inhabited

/-- A buffered atomic, CAS or TENQ of deterministic mode (21 R366). -/
structure AtomEntry where
  acc : Access
  group : Nat
  thread : Nat
  tid : Nat
  order : Nat
  num : Nat
  /-- it waits on the page-fault report with this tag, plus one, for this address; and that page was refused -/
  wait : Nat
  waitVa : Nat
  refused : Bool
deriving DecidableEq, Repr, Inhabited

/-- What the close of an epoch stands at: a write to another package that has not answered, a closed order gate, or an absent
page; with the writing thread, the address, the block of the place (key / 128) and the cycle since which it stands there. -/
structure CloseAsk where
  tid : Nat
  va : Nat
  block : Nat
  gate : Bool
  since : Nat
deriving DecidableEq, Repr, Inhabited

/-- A write that a close gives up: its thread, the line of its address (address / 128), and the cause and value its thread
raises. -/
structure CloseLost where
  tid : Nat
  line : Nat
  cause : Nat
  val : Nat
deriving DecidableEq, Repr, Inhabited

/-- A byte in a private store buffer: the writing thread's index, its value and its virtual address (21 R368). -/
structure DetByte where
  thread : Nat
  value : Byte
  va : Nat
deriving DecidableEq, Repr, Inhabited

/-- A group of a wave (01 R30, R38, R39; 21 R363-R369). -/
structure Group where
  /-- unit: tile, or 96 + proof core -/
  unit : Nat
  placed : Bool
  started : Bool
  ended : Bool
  /-- every live thread has completed WDONE or exited -/
  done : Bool
  /-- order of placement on the unit -/
  age : Nat
  base : Nat
  threads : Nat
  gmOff : Nat
  gmSize : Nat
  patterns : SMap PatSlot
  /-- flush points passed; and flush points reached -/
  epoch : Nat
  flushes : Nat
  /-- private stores of the present epoch: byte key to the writers' bytes -/
  stores : SMap (List DetByte)
  atoms : List AtomEntry
  /-- steps its threads have reported by GOVRD, and queries they have made (19 R356) -/
  steps : Word
  asked : Nat
  /-- a thread has parked at a gathering or exited since the last convergence test (11 R218) -/
  test : Bool
deriving DecidableEq, Repr, Inhabited

/-- A saved wave: the threads and tiles of each group with the bytes of their scratchpad or group memory (23 Table 23.7). -/
structure SaveGroup where
  index : Nat
  unit : Nat
  group : Group
  threads : List Thread
  tile : Tile
  /-- bytes of its scratchpad (from 0) and easel (from 2^25), or of its group memory; poisoned blocks among them -/
  bytes : List (Nat × Byte)
  poison : List Nat
  /-- the cut record of a tile at the save (23 R389) -/
  cut : List Byte
deriving DecidableEq, Repr, Inhabited

/-- How a wave is being pre-empted (23 R394). -/
inductive PreemptMode where
  | none | drain | save | flush
deriving DecidableEq, Repr, Inhabited

/-- A wave, from its enqueue on: the pool's copy of its node and its progress (19 R336-R351, 23 R392-R398). -/
structure Wave where
  node : Node
  state : WaveState
  asid : Nat
  depth : Nat
  refused : Bool
  /-- c.stage.PRIO, the effective priority at dispatch -/
  prio : Nat
  readySince : Nat
  /-- cycle in which it last became Running -/
  ran : Nat
  /-- group count -/
  groups : Nat
  /-- side-effect mark (23 R393) -/
  mark : Bool
  placedOnce : Bool
  /-- a thread of it has completed a WDONE, and it is done (19 R351) -/
  wdone : Bool
  done : Bool
  /-- REC of c.dmode, taken at placement (21 R361) -/
  recMode : BitVec 2
  /-- pre-emption asked for: 1 + the cycle of the request; the way chosen, and the cycle of the choice -/
  request : Nat
  mode : PreemptMode
  chosenAt : Nat
  saved : List SaveGroup
  buffer : Nat
  /-- SSYNCs of the wave completed, epochs closed, COLLs matched -/
  ssyncs : Nat
  epochs : Nat
  critical : Bool
  /-- members of its co-placement set when placed -/
  set : List Nat
  /-- the page-fault report its epoch's close awaits, plus one (21 R366) -/
  closeWait : Nat
  /-- its epoch's writes are applied, and their PEER invalidations are under way (21 R364, 05 R104) -/
  closing : Bool
  /-- what its epoch's close stands at, the blocks for which other packages have answered it, and what it has given up -/
  ask : Option CloseAsk
  answered : List Nat
  lost : List CloseLost
  /-- its tiles have been stopped for its save (23 R387) -/
  halting : Bool
  /-- it is to be halted once it runs, for the reset of a die (25 R413) -/
  haltDue : Bool
  /-- a thread of it has reached a YIELD under a request, and the choice of how to pre-empt it cannot be made yet (23 R394) -/
  yielded : Bool
deriving DecidableEq, Repr, Inhabited

/-- A task queue the pool watches (19 R346), or the address of a record the driver writes directly (01 R36). A read that
meets an absent page waits on the report with tag `parked - 1`; one held on its way waits at `line` since `waited`. -/
structure WatchedQueue where
  va : Nat
  asid : Nat
  parked : Nat
  line : Option Loc := none
  waited : Nat := 0
  /-- a malformed entry that its reads meet has been reported (23 R401) -/
  told : Bool := false
deriving DecidableEq, Repr, Inhabited

/-- An enqueue of the companion processor that its home holds because the ring store met an absent page (19 R345): descriptor and
node, 1 + the tag of the report it waits on (0: answered), and whether the page was refused. -/
structure HostPark where
  desc : Nat
  node : Nat
  parked : Nat
  refused : Bool
deriving DecidableEq, Repr, Inhabited

/-- The governor's record of a frame (19 Table 19.8, R356-R360). -/
structure Frame where
  present : Bool
  entry : FrameEntry
  mask : Word
  od : Nat
  /-- step clock started, and when -/
  clocked : Bool
  clock : Nat
  /-- time and duration of the previous report -/
  reported : Bool
  lastAt : Nat
  lastD : Nat
  steps : Word
  critical : Bool
deriving DecidableEq, Repr, Inhabited

/-! ## The hub -/

/-- Directory states of a line (05 Table 5.5). -/
inductive DirState where
  | u | sh | ow | fetch | inv | fwd
deriving DecidableEq, Repr, Inhabited

/-- Requests to a home (05 R93). -/
inductive ReqKind where
  | readShared | readExclusive | upgrade | atomic
deriving DecidableEq, Repr, Inhabited

/-- How a request came to its home (25 R411): in the cycle in which it was sent; not yet, since a link holds it; or after a link had
held it. -/
inductive Trip where
  | direct
  | held
  | late
deriving DecidableEq, Repr, Inhabited

/-- A request waiting at or admitted by a home; `unit` is tile, 96 + core, or 160 + agent bit. -/
structure Request where
  kind : ReqKind
  unit : Nat
  /-- the thread it serves, plus one; 0 for a prefetch -/
  tid : Nat
  arrived : Nat
  /-- where a copy may stay: 0 in the L1, 1 in the L2 only, 2 in neither (09 R186) -/
  hint : Nat
  /-- it is for a watched line in replay mode: the order gate admits it, and it stands in no other's way (21 R375) -/
  gated : Bool
  trip : Trip
  /-- the order in which it was sent, among all that units send (25 R411) -/
  sent : Nat
deriving DecidableEq, Repr, Inhabited

/-- The home's record of a line (05 R91-R97). -/
structure HomeLine where
  /-- the L2 slice holds the line -/
  held : Bool
  state : DirState
  sharers : BitVec 40
  /-- owning unit plus one -/
  owner : Nat
  queue : List Request
  /-- the request admitted and not yet granted -/
  active : Option Request
  /-- units whose acknowledgement is awaited -/
  acks : List Nat
  /-- the L2 copy is dirty -/
  dirty : Bool
  /-- packages holding copies, and the all-packages mark (05 R97) -/
  peers : List Nat
  allPeers : Bool
deriving DecidableEq, Repr, Inhabited

/-- MOESI states (05 R93); `i` is the default. -/
inductive Moesi where
  | i | s | e | o | m
deriving DecidableEq, Repr, Inhabited

/-- A line of an L1 with its write-back buffer and outstanding request (05 R93-R96). -/
structure L1Line where
  st : Moesi
  /-- a dirty copy sits in the write-back buffer -/
  wb : Bool
deriving DecidableEq, Repr, Inhabited

/-- Messages between homes and L1s, in flight in order (05 R94). -/
inductive MsgKind where
  | writeback | invalidate | invAck | forward (excl : Bool)
  /-- with the state the former owner keeps the line in, and whether its write-back buffer answered -/
  | fwdResponse (excl : Bool) (left : Moesi) (buffer : Bool)
  | grant (st : Moesi) | wbAck
deriving DecidableEq, Repr, Inhabited

/-- One message: line, unit and kind, and for a grant the thread it serves, plus one. -/
structure Msg where
  line : Nat
  unit : Nat
  kind : MsgKind
  tid : Nat
  /-- the order in which it was sent (25 R411) -/
  sent : Nat := 0
deriving DecidableEq, Repr, Inhabited

/-- A line of another package held in this package's L2, with its bytes (05 R91, R97). -/
structure PeerLine where
  held : Bool
  bytes : List Byte
deriving DecidableEq, Repr, Inhabited

/-- Whose write a PEER invalidation belongs to (05 R104). -/
inductive Writer where
  /-- an agent that waits for none -/
  | other
  | thread (tid : Nat)
  | command (tile e seq : Nat)
  /-- the close of an epoch of a wave -/
  | close (wave : Nat)
  /-- the cut record of a tile -/
  | cut (tile : Nat)
  /-- an enqueue of the companion processor -/
  | host
deriving DecidableEq, Repr, Inhabited

/-- The answer of another package to a writer's access to a 128-byte block there, not yet made use of (25 R424). -/
structure PeerAnswer where
  writer : Writer
  block : Nat
deriving DecidableEq, Repr, Inhabited

/-- A PEER invalidation in flight: the package whose copy of our line it drops, or whose home sends it for a store of ours to a
line there; the line, its package named above bit 45; and whose write it belongs to. -/
structure PeerInv where
  pkg : Nat
  line : Nat
  writer : Writer
deriving DecidableEq, Repr, Inhabited

/-- A reason for an access to wait, or a page-fault report (23 R404). -/
structure Park where
  tag : Nat
  asid : Nat
  /-- page base and level -/
  page : Nat
  level : Nat
deriving DecidableEq, Repr, Inhabited

/-- A fault-queue entry, its four words (23 Table 23.10). -/
structure Report where
  w0 : Word
  w1 : Word
  w2 : Word
  w3 : Word
deriving DecidableEq, Repr, Inhabited

/-- The fault queue in host memory (23 R404). -/
structure FaultQueue where
  registered : Bool
  base : Nat
  entries : Nat
  /-- host addresses of the head and tail counts -/
  head : Nat
  tail : Nat
  held : List Report
deriving DecidableEq, Repr, Inhabited

/-- A TLB entry: address space, page base, level, leaf (23 R402). -/
structure TlbEntry where
  asid : Nat
  page : Nat
  level : Nat
  leaf : Word
deriving DecidableEq, Repr, Inhabited

/-- A prefetch that waits for the walk of its address (09 R187): its unit, group, level, kind and hint. -/
structure Prefetch where
  unit : Nat
  gid : Nat
  sup : Bool
  write : Bool
  hint : Nat
  va : Nat
deriving DecidableEq, Repr, Inhabited

/-- A walk requested or running (23 R403), with the prefetches that go on from it. -/
structure Walk where
  die : Nat
  asid : Nat
  va : Nat
  prefs : List Prefetch
  /-- the order in which it was asked for (25 R411) -/
  sent : Nat := 0
deriving DecidableEq, Repr, Inhabited

/-- A record control block with the state of its slices' logs (21 R373-R375). -/
structure Recording where
  block : RecordBlock
  /-- per slice: chunks appended, stopped, last requester with its run; replay: entries admitted -/
  chunks : SMap Nat
  stopped : SMap Bool
  last : SMap (Nat × Nat)
  admitted : SMap Nat
  runLeft : SMap Nat
  /-- per slice, replay: the cycle in which the logged requester was last admitted -/
  sentAt : SMap Nat
  /-- digest records appended -/
  digests : Nat
deriving DecidableEq, Repr, Inhabited

/-- A key slot's keys (25 R421); a slot with ENC = 0 is the default. -/
structure Key where
  enc : Bool
  dkey : BitVec 256
  tkey : BitVec 256
deriving DecidableEq, Repr, Inhabited

/-- A die-to-die link (25 R410-R412). -/
structure Link where
  pin : BitVec 3
  rate : BitVec 2
  steps : BitVec 32
  heldCycles : Nat
  /-- retraining window open until this cycle -/
  until_ : Nat
  retraining : Bool
  lastStep : Nat
  failed : Bool
deriving DecidableEq, Repr, Inhabited

/-- The registers of the host window and of bring-up (25 R408, R413, R421, R429). -/
structure HostRegs where
  /-- HSTAT.STATE and ERRC; power is good -/
  power : Bool
  state : BitVec 4
  errc : Byte
  ferr : Bool
  fack : Bool
  ready : Bool
  facc : BitVec 128
  pkgid : BitVec 16
  tfence : BitVec 96
  cfence : Word
  /-- DRST: DIE; the die under reset with the cycle its reset began, and those whose resets wait for it; DONE, DLATE -/
  drstDie : BitVec 4
  drstNow : BitVec 4
  drstNext : List Nat
  drstBusy : Bool
  drstAt : Nat
  drstDone : Bool
  drstLate : Bool
  allow : SMap (BitVec 23)
  cecnt : SMap Word
  keySlot : BitVec 9
  dkey : BitVec 256
  tkey : BitVec 256
  cring : SMap Word
deriving DecidableEq, Repr, Inhabited

/-- The energy planner (19 R358, 25 R427, R428). -/
structure Energy where
  /-- microjoules used in this window, per die -/
  used : SMap Nat
  /-- dies in overdraft, and dies held -/
  overdraft : SMap Bool
  held : SMap Bool
  thermal : Bool
  /-- dies in overdraft or held at some time of this window, and frames that left such a die in it -/
  hit : SMap Bool
  charged : List Nat
  window : Nat
  /-- consecutive windows that ended above the sustained limit -/
  hot : Nat
deriving DecidableEq, Repr, Inhabited

/-- The whole package. -/
structure State where
  mem : Memory
  /-- poisoned 128-byte blocks, by key / 128 (23, 25 R416) -/
  poison : SMap Bool
  /-- the key slot a line of device memory is tagged with, and the key it was last transferred under (25 R421, R422) -/
  lineSlot : SMap Nat
  lineKey : SMap Key
  threads : SMap Thread
  tiles : SMap Tile
  cores : SMap Core
  groups : SMap Group
  waves : SMap Wave
  nextWave : Nat
  nextAge : Nat
  nextPush : Nat
  nextTag : Nat
  nextPark : Nat
  nextAtom : Nat
  watched : List WatchedQueue
  /-- records written directly by the driver whose read waits on a page -/
  direct : List WatchedQueue
  /-- the enqueue from the host that waits on a page -/
  hostPark : Option HostPark
  frames : SMap Frame
  asids : SMap AsidEntry
  records : SMap Recording
  faultq : FaultQueue
  parks : List Park
  walks : List Walk
  /-- TLBs of units (key: tile, 96 + core) and of compute dies (key: 1000 + die) -/
  tlbs : SMap (List TlbEntry)
  home : SMap HomeLine
  /-- L1 lines: unit * 2^45 + line -/
  l1 : SMap L1Line
  msgs : List Msg
  /-- peer lines held in the L2: package * 2^45 + line -/
  peerL2 : SMap PeerLine
  /-- PEER invalidations in flight -/
  peerInv : List PeerInv
  /-- answers of other packages that have come for accesses not made as a thread's own -/
  answers : List PeerAnswer
  /-- frozen physical ranges: base and size -/
  frozen : List (Nat × Nat)
  links : SMap Link
  host : HostRegs
  energy : Energy
  keys : SMap Key
  domain : List Nat
  /-- save buffers taken from each address space's ring -/
  spoolTaken : SMap Nat
  cycle : Nat
  /-- the agent whose instruction executes -/
  cur : Agent
  /-- inputs from outside, oldest first: driver, host, companion, soft errors -/
  inputs : List Instr
  /-- the order in which units are given their turns -/
  queue : List Agent
  /-- number of values taken so far that the manual leaves open (`Config.freeWord`); the model's own field -/
  free : Nat
deriving DecidableEq, Repr, Inhabited

/-- The machine at power-on, before power-good (25 R429): every register and field at zero, as Tables 25.2 to 25.6 and the
CSR tables give it; bring-up has not begun, no thread lives, nothing is placed, queued or recorded, and memory lists
nothing. -/
def State.reset : State := default

end Sys2Proof.Machine
end

