-- ==== Sys2Proof/Machine/Ops.lean ====
section
/-! DEFINITION. The named operations every meaning is built from: bytes of memory, registers and predicates, units and
groups of a thread, reports to the driver, taking a trap and returning from one (23 R381, R382), completing or parking
at an instruction (09 R162, 23 R383), and the common course of a core instruction, from its prefixes and privilege to
its guard and registers (07 R121-R131). -/

namespace Sys2Proof.Machine

/-- The three outcomes of a step of this machine. -/
abbrev Out := Host.Outcome State Fault Refusal

/-- An event, as a meaning: the state after it, or nothing where it does not happen (DESIGN CHOICE, log entry 8). -/
def happens (f : State → Option State) (s : State) : Out := .next ((f s).getD s)

/-! ## Memory bytes -/

/-- The key of a byte in the flat memory: the spaces lie side by side. -/
def Loc.key (l : Loc) : Nat :=
  match l.space with
  | .hbm => l.addr % 2 ^ 52
  | .host => 2 ^ 52 + l.addr % 2 ^ 52
  | .sp t => 2 ^ 53 + t * 2 ^ 25 + l.addr % 2 ^ 25
  | .gm c => 2 ^ 53 + 2 ^ 40 + c * 2 ^ 25 + l.addr % 2 ^ 25
  | .easel t => 2 ^ 53 + 2 ^ 41 + t * 2 ^ 21 + l.addr % 2 ^ 21
  | .peer p => 2 ^ 54 + p * 2 ^ 52 + l.addr % 2 ^ 52

/-- The place `n` bytes further. -/
def Loc.plus (l : Loc) (n : Nat) : Loc := { l with addr := l.addr + n }

/-- Reads one byte; an unlisted byte reads 0. -/
def Memory.read (m : Memory) (k : Nat) : Byte := SMap.get m k

/-- Writes one byte, keeping the canonical form. -/
def Memory.write (m : Memory) (k : Nat) (b : Byte) : Memory := SMap.set m k b

/-- The canonical form of a memory: keys strictly rising, no entry equal to 0. -/
def Memory.wf (m : Memory) : Bool := SMap.wf m

/-- The byte at a place. -/
def State.byteAt (s : State) (l : Loc) : Byte := s.mem.read l.key

/-- The `n` bytes from a place on. -/
def State.bytesAt (s : State) (l : Loc) (n : Nat) : List Byte := SMap.getMany s.mem l.key n

/-- The little-endian number in `n` bytes from a place on (00 R5). -/
def State.numAt (s : State) (l : Loc) (n : Nat) : Nat := leNat (s.bytesAt l n)

/-- Writes consecutive bytes from a place on. -/
def State.setBytes (s : State) (l : Loc) (bs : List Byte) : State := { s with mem := SMap.setMany s.mem l.key bs }

/-- Writes the `n`-byte little-endian form of a number. -/
def State.setNum (s : State) (l : Loc) (n x : Nat) : State := s.setBytes l (leBytes n x)

/-- Poisoned, by 128-byte block (25 R416). -/
def State.poisoned (s : State) (l : Loc) : Bool := s.poison.get (l.key / 128)

/-- Marks the block of a place poisoned, or clean. -/
def State.setPoison (s : State) (l : Loc) (p : Bool) : State := { s with poison := s.poison.set (l.key / 128) p }

/-! ## Threads, units, groups, waves -/

/-- The thread with a number. -/
def State.thread (s : State) (tid : Nat) : Thread := s.threads.get tid
/-- Replaces a thread. -/
def State.setThread (s : State) (tid : Nat) (t : Thread) : State := { s with threads := s.threads.set tid t }
/-- The tile with a number. -/
def State.tile (s : State) (n : Nat) : Tile := s.tiles.get n
/-- Replaces a tile. -/
def State.setTile (s : State) (n : Nat) (t : Tile) : State := { s with tiles := s.tiles.set n t }
/-- The proof core with a number. -/
def State.core (s : State) (n : Nat) : Core := s.cores.get n
/-- Replaces a proof core. -/
def State.setCore (s : State) (n : Nat) (c : Core) : State := { s with cores := s.cores.set n c }
/-- The group with a key. -/
def State.group (s : State) (gid : Nat) : Group := s.groups.get gid
/-- Replaces a group. -/
def State.setGroup (s : State) (gid : Nat) (g : Group) : State := { s with groups := s.groups.set gid g }
/-- The wave with a number. -/
def State.wave (s : State) (n : Nat) : Wave := s.waves.get n
/-- Replaces a wave. -/
def State.setWave (s : State) (n : Nat) (w : Wave) : State := { s with waves := s.waves.set n w }
/-- An engine of a tile. -/
def Tile.engine (t : Tile) (e : Nat) : Engine := t.engines.get e
/-- Replaces an engine of a tile. -/
def Tile.setEngine (t : Tile) (e : Nat) (g : Engine) : Tile := { t with engines := t.engines.set e g }
/-- An engine by tile and number. -/
def State.engine (s : State) (tile e : Nat) : Engine := (s.tile tile).engine e
/-- Replaces an engine by tile and number. -/
def State.setEngine (s : State) (tile e : Nat) (g : Engine) : State := s.setTile tile ((s.tile tile).setEngine e g)

/-- Whether a thread number names a control core. -/
def isControl (tid : Nat) : Bool := decide (65536 ≤ tid)
/-- The number of a tile's control core as a thread. -/
def controlTid (tile : Nat) : Nat := 65536 + tile
/-- The tile of a control core. -/
def tileOf (tid : Nat) : Nat := tid - 65536
/-- The unit a thread runs on: its tile, or 96 + its proof core. -/
def unitOf (tid : Nat) : Nat := if isControl tid then tileOf tid else 96 + tid / 1024
/-- The home lane of a proof thread (01 R21). -/
def laneOf (tid : Nat) : Nat := tid % 1024 % 32
/-- The die index of a unit in the order of 25 R408: 1-8 print dies, 9-10 proof dies. -/
def dieOf (unit : Nat) : Nat := if unit < 96 then 1 + unit / 12 else 9 + (unit - 96) / 32
/-- The sharer-vector bit of a unit (05 Table 5.4); agents are numbered 160 + bit. -/
def sharerBit (unit : Nat) : Nat :=
  if unit < 96 then unit / 4 else if unit < 160 then 24 + (unit - 96) / 8 else unit - 160
/-- The wave number in a group key. -/
def waveOf (gid : Nat) : Nat := gid / 1024
/-- The wave of a thread. -/
def State.waveOfThread (s : State) (tid : Nat) : Wave := s.wave (waveOf (s.thread tid).gid)
/-- c.asid of a thread: its wave's (23 Table 23.2). -/
def State.asidOf (s : State) (tid : Nat) : Nat := (s.waveOfThread tid).asid
/-- The address-space entry of an address space (23 R379). -/
def State.asidEntry (s : State) (a : Nat) : AsidEntry := s.asids.get a

/-- Listed thread numbers. -/
def State.tids (s : State) : List Nat := s.threads.map (·.1)
/-- Live threads of a group, in ascending number. -/
def State.members (s : State) (gid : Nat) : List Nat :=
  (s.threads.filter fun p => p.2.live && p.2.gid == gid).map (·.1)

/-- A feature bit of the accepted word: none before the word is accepted (25 R430, R431). -/
def State.feature (s : State) (n : Nat) : Bool := s.host.fack && s.host.facc.getLsbD n

/-! ## Registers and predicates (00 R7) -/

/-- Reads a general register: g0 reads zero. -/
def Thread.rd (t : Thread) (r : BitVec 6) : Word := if r = 0 then 0 else t.g.get r.toNat
/-- Writes a general register, clearing its pending mark (21 R367); a write to g0 is discarded. -/
def Thread.wr (t : Thread) (r : BitVec 6) (v : Word) : Thread :=
  if r = 0 then t else { t with g := t.g.set r.toNat v, pend := t.pend.set r.toNat 0 }
/-- Reads a predicate: q0 reads true. -/
def Thread.pred (t : Thread) (p : BitVec 3) : Bool := p = 0 || t.q.getLsbD p.toNat
/-- Writes a predicate; a write to q0 is discarded. -/
def Thread.setPred (t : Thread) (p : BitVec 3) (b : Bool) : Thread :=
  if p = 0 then t
  else { t with q := if b then t.q ||| (1#8 <<< p.toNat) else t.q &&& ~~~(1#8 <<< p.toNat) }
/-- The guard's value in a thread (07 R121). -/
def Thread.guard (t : Thread) (g : Guard) : Bool := t.pred g.q != g.n
/-- Raises float flags (03 R57). -/
def Thread.raise (t : Thread) (f : BitVec 5) : Thread := { t with fl := t.fl ||| f }

/-! ## Reports to the driver (23 R404) -/

/-- Appends a fault-queue entry, or holds it while the ring is full or not registered. The ring lies at `base` in host
memory; the counts of entries written and taken lie at `tail` and `head`. -/
def State.report (s : State) (r : Report) : State :=
  let q := s.faultq
  let h := s.numAt ⟨.host, q.head⟩ 8
  let t := s.numAt ⟨.host, q.tail⟩ 8
  if q.registered ∧ q.held = [] ∧ t - h < q.entries then
    let a := q.base + t % q.entries * 32
    let s := s.setNum ⟨.host, a⟩ 8 r.w0.toNat
    let s := s.setNum ⟨.host, a + 8⟩ 8 r.w1.toNat
    let s := s.setNum ⟨.host, a + 16⟩ 8 r.w2.toNat
    let s := s.setNum ⟨.host, a + 24⟩ 8 r.w3.toNat
    s.setNum ⟨.host, q.tail⟩ 8 (t + 1)
  else { s with faultq := { q with held := q.held ++ [r] } }

/-- A fault-queue entry from its fields (23 Table 23.10). -/
def mkReport (kind asid acc cause tag addr wave unit extra : Nat) : Report :=
  ⟨BitVec.ofNat 64 (kind * 2 ^ 56 + asid % 4096 * 2 ^ 44 + acc % 16 * 2 ^ 40 + cause % 256 * 2 ^ 32 + tag % 2 ^ 32),
   BitVec.ofNat 64 addr, BitVec.ofNat 64 (wave * 2 ^ 32 + unit % 2 ^ 32), BitVec.ofNat 64 extra⟩

/-- The unit field of c.tileid (01 Table 1.4), bits [15:0]. -/
def unitWord (unit : Nat) : Nat :=
  if unit < 96 then unit / 12 * 256 + unit else 2 ^ 15 + (unit - 96) / 32 * 256 + (unit - 96)

/-- The unit field of a report: the tile or core, and a proof thread's slot in [31:16]. -/
def reportUnit (tid : Nat) : Nat :=
  unitWord (unitOf tid) + (if isControl tid then 0 else tid % 1024 * 2 ^ 16)

/-- The halt report of KIND 3 of a stopped thread: cause code and the address of bytes 24-31. -/
def State.haltReport (s : State) (tid cause : Nat) (epc : Nat) : State :=
  let t := s.thread tid
  s.report (mkReport 3 (s.asidOf tid) 0 cause 0 0 (waveOf t.gid) (reportUnit tid) epc)

/-! ## Traps (23 R381-R387) -/

/-- Cause codes of Table 0.9. -/
def causeIllegal : Nat := 0x01
/-- ILLEGAL_PREFIX. -/
def causePrefix : Nat := 0x02
/-- PRIVILEGED. -/
def causePrivileged : Nat := 0x03
/-- MISALIGNED. -/
def causeMisaligned : Nat := 0x04
/-- PAGE_FAULT. -/
def causePage : Nat := 0x05
/-- ACCESS_FAULT. -/
def causeAccess : Nat := 0x06
/-- POISON. -/
def causePoison : Nat := 0x07
/-- PATTERN_MISS. -/
def causeMiss : Nat := 0x08
/-- ILLEGAL_PATTERN. -/
def causePattern : Nat := 0x09
/-- OVERLAP. -/
def causeOverlap : Nat := 0x0A
/-- TOKEN_FAULT. -/
def causeToken : Nat := 0x0B
/-- HOOP_FAULT. -/
def causeHoop : Nat := 0x0C
/-- EASEL_FAULT. -/
def causeEasel : Nat := 0x0D
/-- PORT_FAULT. -/
def causePort : Nat := 0x0E
/-- CONVERGENCE_FAULT. -/
def causeConvergence : Nat := 0x0F
/-- REGBLOCK_FAULT. -/
def causeRegblock : Nat := 0x10
/-- BREAKPOINT. -/
def causeBreak : Nat := 0x11
/-- TRAP. -/
def causeTrap : Nat := 0x12
/-- REPLAY_DIVERGENCE. -/
def causeReplay : Nat := 0x13
/-- WATCHDOG. -/
def causeWatchdog : Nat := 0x14
/-- SPAWN_DEPTH. -/
def causeDepth : Nat := 0x15
/-- SEMAPHORE_OVERFLOW. -/
def causeOverflow : Nat := 0x16

/-- Clears what belongs to the instruction in progress: wait, grant, issue, refusal and prefix words. -/
def Thread.settle (t : Thread) : Thread :=
  { t with wait := none, granted := false, issued := false, named := 0, refusal := none, pfx := [], waited := 0, parkedIn := 0, hadWaited := 0, arrived := 0, holds := 0, erel := none }

/-- Where a trap goes: the loader of c.patbase for PATTERN_MISS when enabled, else c.tvec (23 R381, 17 R332). -/
def trapTarget (t : Thread) (cause : Nat) : Word :=
  if cause = causeMiss ∧ t.patbase.getLsbD 0 then t.patbase &&& 0x01FFFFFFFFFFFFFC#64 else t.tvec

/-- The trap registers and PC of a thread entering a trap from level U (23 R381). At an SSYNC whose flush point has passed it
stays past it (19 R353). -/
def Thread.enterTrap (t : Thread) (cause : Nat) (epc val : Word) : Thread :=
  { t.settle with
    arrived := t.arrived, tcause := BitVec.ofNat 8 cause, tepc := epc &&& 0x01FFFFFFFFFFFFFC#64, tval := val, pprv := false, prv := true, pc := trapTarget t cause }

/-- Marks a tile stopped, for a trap of its control core, HALT or a save: its engines stay at their cursors (23 R385,
R387). The stop awaits its cut record when c.tcut.EN is set (R389), and the end of a stop that an engine has begun (R388). -/
def State.stopTile (s : State) (tile : Nat) (k : StopKind) : State :=
  let t := s.tile tile
  let en := (s.thread (controlTid tile)).tcut.getLsbD 0
  s.setTile tile { t with
    stopped := true, stoppedAt := if t.stopped then t.stoppedAt else s.cycle, stops := if en || !t.stops.isEmpty then t.stops ++ [k] else t.stops }

/-- Marks every thread of a group stopped. -/
def State.haltGroup (s : State) (gid : Nat) : State :=
  (s.members gid).foldl (fun s m =>
    let t := s.thread m
    s.setThread m { t with halted := true, haltedAt := if t.halted then t.haltedAt else s.cycle }) s

/-- Stops a thread's unit as HALT does, with its report: the whole group of a proof thread, or the tile of a control core
with a cut record (09 R183, 23 R381). -/
def State.haltUnit (s : State) (tid cause epc : Nat) : State :=
  let s := if isControl tid then s.stopTile (tileOf tid) .halt else s
  (s.haltGroup (s.thread tid).gid).haltReport tid cause epc

/-- Takes a trap in a thread: trap entry at level U, a stop of its unit with its report at level S (23 R381). On a control
core the tile's engines stop with it until TRET (R385). -/
def State.trap (s : State) (tid cause : Nat) (epc val : Word) : State :=
  let t := s.thread tid
  if t.prv then (s.setThread tid t.settle).haltUnit tid cause epc.toNat
  else
    let s := s.setThread tid (t.enterTrap cause epc val)
    if isControl tid then s.stopTile (tileOf tid) (.trap 0 0 cause val.toNat) else s

/-- A cause raised by an engine: its tile stops at entry boundaries and cursors (23 R387). -/
def State.raiseEngine (s : State) (tile e seq cause val : Nat) : State :=
  let t := s.tile tile
  s.setTile tile { t with
    stopped := true, stoppedAt := if t.stopped then t.stoppedAt else s.cycle, stops := t.stops ++ [.trap e seq cause val] }

/-- A copy command at its resume cursor: a chunk that is written in memory and not yet counted is written again (13 R284). -/
def Command.atCursor (c : Command) : Command :=
  if bitsOf c.image.toNat 8 4 = 6 ∧ c.phase = 1 ∧ bitsOf c.image.toNat 188 4 ≠ 4 ∧ !c.finished then { c with phase := 0 } else c

/-- A command after a stop of `n` cycles: it goes on from its cursor, its wait does not count them (R399), and a started VIDLE
keeps its remaining cycles (13 Table 13.11). -/
def Command.afterStop (c : Command) (n : Nat) : Command :=
  let c := { c.atCursor with waited := c.waited + n }
  if c.started ∧ bitsOf c.image.toNat 0 12 = 0x20C ∧ !c.finished then { c with cursor := c.cursor + n } else c

/-- The tile's engines restart from their cut (23 R382, R387): the gates that waited were withdrawn, and are registered again
(R390). -/
def Tile.restart (t : Tile) (now : Nat) : Tile :=
  let n := now - t.stoppedAt
  { t with
    stopped := false, stops := []
    waits := t.waits.filter fun w => !(w.who matches .engine _ _)
    engines := t.engines.map fun p => (p.1, { p.2 with
      started := p.2.started.map (·.afterStop n)
      issued := p.2.issued.map fun c => if c.passed then c.afterStop n else { c.afterStop n with gated := false } }) }

/-- TRET's registers (23 R382). -/
def Thread.leaveTrap (t : Thread) : Thread := { t.settle with pc := t.tepc, prv := t.pprv, pprv := false }

/-! ## Completing and parking -/

/-- The end of an instruction that completes: PC, counts, and the BREAKPOINT that follows it under single step at level
U (23 R383). `user` is the level it ran at. -/
def State.complete (s : State) (tid : Nat) (pc : Word) (user : Bool) : State :=
  let t := s.thread tid
  let s := s.setThread tid { t.settle with pc := pc, completed := t.completed + 1, since := s.cycle }
  if user ∧ t.step then s.trap tid causeBreak pc 1 else s

/-- What a thread's instruction needs from its surroundings: the thread number and registers, the word that names it,
and the PC after it. -/
structure Cx where
  tid : Nat
  t : Thread
  word : Nat
  next : Word
deriving Repr

/-- Completes the current instruction at the next PC. -/
def Cx.done (c : Cx) (s : State) : Out := .next (s.complete c.tid c.next (!c.t.prv))

/-- Completes the current instruction at another PC. -/
def Cx.jump (c : Cx) (pc : Word) (s : State) : Out := .next (s.complete c.tid pc (!c.t.prv))

/-- Raises a cause at the current instruction: nothing else changes. -/
def Cx.trap (c : Cx) (cause : Nat) (val : Word) (s : State) : Out := .next (s.trap c.tid cause c.t.pc val)

/-- A wait that counts for the watchdog: not one on a page, a walk or an access under way (23 R399). -/
def Wait.counts : Wait → Bool
  | .page _ _ | .walk _ _ | .access _ | .redirected _ | .line _ _ _ => false
  | _ => true

/-- A wait that counts is interrupted: what it has lasted is kept for when it goes on (23 R399). -/
def Thread.pausing (t : Thread) (now : Nat) : Thread :=
  { t with hadWaited := if t.wait.any Wait.counts && decide (t.waited ≠ 0) then now + 1 - t.waited else t.hadWaited }

/-- Parks at the current instruction (09 R162): its PC stays, and it is executed again when its wait may be met. What it had waited
before a save counts with the present wait (23 R399). -/
def Cx.park (c : Cx) (w : Wait) (s : State) : Out :=
  let t := s.thread c.tid
  let first := decide (t.wait ≠ some w)
  let had := if w.counts then t.hadWaited else 0
  let s := s.setThread c.tid { t with
    wait := some w, resume := c.next, pfx := [], parkedAt := if first then s.nextPark else t.parkedAt
    waited := if first then max 1 (s.cycle + 1 - had) else t.waited
    parkedIn := if first then s.cycle + 1 else t.parkedIn, hadWaited := if first && w.counts then 0 else t.hadWaited }
  let s := if first then { s with nextPark := s.nextPark + 1 } else s
  .next (if isControl c.tid then s else s.setGroup c.t.gid { s.group c.t.gid with test := true })

/-- Raises a cause whose c.tval the manual does not state: a free value. -/
def Cx.trapOpen (c : Cx) (cause : Nat) (s : State) : Out :=
  c.trap cause (Config.freeWord s.free) { s with free := s.free + 1 }

/-- Completes the instruction a thread waits at, when what it waits for has come. -/
def State.wake (s : State) (tid : Nat) : State := s.complete tid (s.thread tid).resume (!(s.thread tid).prv)

/-- Updates the current thread. -/
def Cx.upd (c : Cx) (f : Thread → Thread) (s : State) : State := s.setThread c.tid (f (s.thread c.tid))

/-- Writes gd and completes. -/
def Cx.write (c : Cx) (d : BitVec 6) (v : Word) (s : State) : Out := c.done (c.upd (·.wr d v) s)

/-- Writes a predicate and completes. -/
def Cx.writePred (c : Cx) (p : BitVec 3) (b : Bool) (s : State) : Out := c.done (c.upd (·.setPred p b) s)

/-! ## Prefix words (07 R124-R131) -/

/-- Which kinds a prefix may have before an instruction, and with what values (Table 7.6). -/
structure Accept where
  /-- rounding field other than 0b111 allowed -/
  rm : Bool := false
  /-- kind 0b000 accepted at all -/
  arith : Bool := false
  /-- SAT unit allowed -/
  unit : Bool := false
  /-- FTZ allowed -/
  ftz : Bool := false
  /-- kind 0b001 accepted; ORD values allowed besides 0 -/
  mem : Bool := false
  acq : Bool := false
  rel : Bool := false
deriving DecidableEq, Repr

/-- Kind of a prefix word. -/
def pfxKind (w : Half) : Nat := bitsOf w.toNat 27 3
/-- RM of an arithmetic prefix. -/
def pfxRm (w : Half) : Nat := bitsOf w.toNat 24 3
/-- SAT of an arithmetic prefix. -/
def pfxSat (w : Half) : Nat := bitsOf w.toNat 22 2
/-- FTZ of an arithmetic prefix. -/
def pfxFtz (w : Half) : Bool := bitOf w.toNat 21
/-- ORD of a memory prefix. -/
def pfxOrd (w : Half) : Nat := bitsOf w.toNat 25 2
/-- WIDTH of a gang prefix. -/
def pfxWidth (w : Half) : Nat := bitsOf w.toNat 24 3

/-- A prefix word no instruction accepts: a kind above 0b010, a refused field value or a reserved bit (Table 7.4). -/
def pfxRefused (w : Half) : Bool :=
  match pfxKind w with
  | 0 => pfxRm w == 5 || pfxRm w == 6 || bitsOf w.toNat 0 21 != 0
  | 1 => pfxOrd w == 3 || bitsOf w.toNat 23 2 == 3 || bitsOf w.toNat 0 23 != 0
  | 2 => decide (5 ≤ pfxWidth w) || bitsOf w.toNat 0 24 != 0
  | _ => true

/-- The first prefix word that fails on its own, a repeat of a kind, or a third one (R126 step 3). -/
def pfxBad : List Half → List Half → Option Half
  | _, [] => none
  | earlier, w :: ws =>
    if pfxRefused w || earlier.any (fun e => pfxKind e == pfxKind w) || decide (earlier.length ≥ 2) then some w
    else pfxBad (earlier ++ [w]) ws

/-- The prefix of a kind in the sequence, if any. -/
def pfxOf (ws : List Half) (kind : Nat) : Option Half := ws.find? fun w => pfxKind w == kind

/-- Whether an instruction accepts a well-formed prefix word (Table 7.6). -/
def accepts (a : Accept) (w : Half) : Bool :=
  match pfxKind w with
  | 0 => a.arith && (a.rm || pfxRm w == 7) && (a.unit || pfxSat w != 3) && (a.ftz || !pfxFtz w)
  | 1 => a.mem && (pfxOrd w == 0 || (a.acq && pfxOrd w == 1) || (a.rel && pfxOrd w == 2))
  | _ => true

/-- c.fmode.RMODE. -/
def Thread.rmode (t : Thread) : Nat := t.fmode.toNat / 2
/-- The rounding mode in force (R129). -/
def Thread.rm (t : Thread) : Nat :=
  match pfxOf t.pfx 0 with
  | some w => if pfxRm w = 7 then t.rmode else pfxRm w
  | none => t.rmode
/-- The saturation kind in force. -/
def Thread.satKind (t : Thread) : Nat := match pfxOf t.pfx 0 with | some w => pfxSat w | none => 0
/-- Flush-to-zero in force (03 R55). -/
def Thread.ftz (t : Thread) : Bool :=
  t.fmode.getLsbD 0 || (match pfxOf t.pfx 0 with | some w => pfxFtz w | none => false)
/-- The ordering a memory prefix asks for. -/
def Thread.ord (t : Thread) : Nat := match pfxOf t.pfx 1 with | some w => pfxOrd w | none => 0
/-- Where a memory prefix lets the line be allocated: 0 normal, 1 no L1, 2 neither (R130). -/
def Thread.hint (t : Thread) : Nat := match pfxOf t.pfx 1 with | some w => bitsOf w.toNat 23 2 | none => 0

/-! ## The common course of a core instruction -/

/-- Which core kind runs an instruction (07 R140). -/
inductive Kind where
  | both | proof | control
deriving DecidableEq, Repr

/-- What the common course needs to know of an instruction. -/
structure Spec where
  /-- the guard, none for format B and for SEL -/
  guard : Option Guard := none
  kind : Kind := .both
  /-- registers read, and registers written -/
  reads : List (BitVec 6) := []
  writes : List (BitVec 6) := []
  accept : Accept := ⟨false, false, false, false, false, false, false⟩
  /-- a control transfer, which accepts no prefix (R127) -/
  transfer : Bool := false
  /-- raises PRIVILEGED at level U (R141, 23 R380) -/
  privileged : Bool := false
  /-- needs the TAT feature (25 Table 25.8) -/
  tat : Bool := false
  /-- cannot be executed by a handler on a tile (23 R385) -/
  noHandler : Bool := false
deriving Repr

/-- A register a proof thread does not hold: g16-g63 of a block it has not got (07 R122, 11 R212). -/
def Thread.unheld (t : Thread) (r : BitVec 6) : Bool :=
  decide (16 ≤ r.toNat) && !t.held.getLsbD ((r.toNat - 16) / 8)

/-- The first fate an instruction meets before its own effect, in the order of R123 and R126: the cause and c.tval. -/
def firstFate (x : Spec) (word tid : Nat) (t : Thread) (s : State) : Option (Nat × Nat) :=
  if (x.kind = .proof ∧ isControl tid) ∨ (x.kind = .control ∧ !isControl tid) ∨ (x.tat ∧ !s.feature 3) then
    some (causeIllegal, word)
  else match pfxBad [] t.pfx with
  | some w => some (causePrefix, w.toNat)
  | none =>
    if (x.transfer ∧ t.pfx ≠ []) ∨ t.pfx.any (fun w => !accepts x.accept w) then some (causePrefix, word)
    else if x.privileged ∧ !t.prv then some (causePrivileged, word)
    else none

/-- The first fault of execution every instruction shares: a register not held, a pending register read, a handler
restriction (R123 item 5, 11 R212, 21 R367, 23 R385). Of several registers not held, c.tval names the first of those
read and then of those written, in operand order (R212 says which of them nowhere; DESIGN CHOICE, log entry 86). -/
def sharedFault (x : Spec) (word tid : Nat) (t : Thread) : Option (Nat × Nat) :=
  let regs := x.reads ++ x.writes
  match (if isControl tid then none else regs.find? t.unheld) with
  | some r => some (causeRegblock, r.toNat)
  | none =>
    match x.reads.find? (fun r => decide (r ≠ 0) && t.pend.get r.toNat != 0) with
    | some r => some (causeIllegal, 0x200 + r.toNat)
    | none => if x.noHandler ∧ isControl tid ∧ t.prv then some (causeIllegal, word) else none

/-- Whether the guard lets the instruction execute; an unguarded form always does. -/
def guardOn (g : Option Guard) (t : Thread) : Bool :=
  match g with
  | some g => t.guard g
  | none => true

/-- A thread that may issue: live, not stopped, and (a control core) with no stop of its tile awaiting completion. -/
def State.mayIssue (s : State) (tid : Nat) : Bool :=
  (s.thread tid).live && !(s.thread tid).halted && (!isControl tid || (s.tile (tileOf tid)).stops.isEmpty)

/-- The current thread, when it may issue. -/
def State.running (s : State) : Option Nat :=
  match s.cur with
  | .thread tid => if s.mayIssue tid then some tid else none
  | _ => none

/-- The context of instruction `i` in thread `tid`. `next` is the address after all of its words: for VOTE, SHFL and REDX,
which R116 makes two words, PC + 8, where R217 says PC + 4 (DESIGN CHOICE, log entry 85). -/
def State.cx (s : State) (i : Instr) (tid : Nat) : Cx :=
  let t := s.thread tid
  ⟨tid, t, (encode i).headD 0, t.pc + BitVec.ofNat 64 (4 * (t.pfx.length + (encode i).length))⟩

/-- The common course of core instruction `i`: the fates of R123 in order, the guard, the shared faults of execution,
and then its own effect. -/
def coreInstr (i : Instr) (x : Spec) (body : Cx → State → Out) (s : State) : Out :=
  match s.running with
  | none => .fault .wrongUnit
  | some tid =>
    let c := s.cx i tid
    match firstFate x c.word tid c.t s with
    | some (cause, val) => c.trap cause (BitVec.ofNat 64 val) s
    | none =>
      if guardOn x.guard c.t then
        match sharedFault x c.word tid c.t with
        | some (cause, val) => c.trap cause (BitVec.ofNat 64 val) s
        | none => body c s
      else c.done s

end Sys2Proof.Machine
end

