-- ==== Sys2Proof/Machine/Access.lean ====
section
/-! DEFINITION. Memory accesses (chapters 05, 09, 21, 23): the checks of 09 R185 in order, page tables and TLBs,
coherence and poison of a line, encryption tags, monitors, the side-effect mark, the store digest, deterministic-mode
buffers, record mode's watched lines, and the performing of loads, stores, atomics, CAS and TENQ. -/

namespace Sys2Proof.Machine

/-- On whose behalf an access is made: unit (or 160 + agent bit), address space, group key, level S. -/
structure Who where
  unit : Nat
  asid : Nat
  gid : Nat
  sup : Bool
  /-- whose write the PEER invalidations of its writes belong to (05 R104) -/
  writer : Writer
deriving DecidableEq, Repr

/-- A thread as the maker of an access. -/
def State.who (s : State) (tid : Nat) : Who :=
  ⟨unitOf tid, s.asidOf tid, (s.thread tid).gid, (s.thread tid).prv, .thread tid⟩

/-- The group on a tile as the maker of an access of its engines (23 R401: an engine has its control core's level). -/
def State.tileWho (s : State) (tile : Nat) : Who := { s.who (controlTid tile) with writer := .other }

/-- The home as maker of the writes it makes for someone: no L1 of theirs takes part. -/
def Who.atHome (w : Who) : Who := { w with unit := 1000 }

/-! ## Lines, keys and copies (05 R90-R93, 09 R194, 25 R421, R422) -/

/-- The line number of a device address. -/
def lineOf (a : Nat) : Nat := a / 128

/-- The home slice of a physical address (05 R90). -/
def homeSlice (pa : Nat) : Nat :=
  bitsOf pa 7 7 ^^^ bitsOf pa 14 7 ^^^ bitsOf pa 21 7 ^^^ bitsOf pa 28 7 ^^^ bitsOf pa 35 7 ^^^ bitsOf pa 42 7
    ^^^ bitsOf pa 49 3

/-- The name of a package's line among those of all packages, and its key in another package's L2. -/
def peerKey (pkg addr : Nat) : Nat := pkg * 2 ^ 45 + lineOf addr

/-- The package number of this package. -/
def State.pkg (s : State) : Nat := s.host.pkgid.toNat

/-- The key slot of an address space: its entry's, and slot 0 for the driver's own, whatever its entry holds (25 R421). -/
def State.keySlotOf (s : State) (asid : Nat) : Nat := if asid = 0 then 0 else (s.asidEntry asid).keyslot.toNat

/-- The key in force for an address space: its slot's, or the clear when ENC is not set or not accepted (25 R421). -/
def State.keyOf (s : State) (asid : Nat) : Key :=
  let k := s.keys.get (s.keySlotOf asid)
  if s.feature 6 && k.enc then k else default

/-- Whether a line was last transferred for an address space's key slot and under the key now in force there. -/
def State.underKey (s : State) (asid line : Nat) : Bool :=
  s.lineSlot.get line == s.keySlotOf asid && s.lineKey.get line == s.keyOf asid

/-- A line's bytes under a key: encrypted when ENC = 1. -/
def cipher (k : Key) (line : Nat) (bs : List Byte) : List Byte :=
  if k.enc then xtsEncrypt k.dkey.toNat k.tkey.toNat line bs else bs
/-- A line's bytes read back under a key. -/
def plain (k : Key) (line : Nat) (bs : List Byte) : List Byte :=
  if k.enc then xtsDecrypt k.dkey.toNat k.tkey.toNat line bs else bs

/-- Key of a unit's L1 line. -/
def l1Key (unit line : Nat) : Nat := unit * 2 ^ 45 + line

/-- A unit's L1 state of a line. -/
def State.l1St (s : State) (unit line : Nat) : Moesi := (s.l1.get (l1Key unit line)).st

/-- Units holding a line in their L1, with its state. -/
def State.holders (s : State) (line : Nat) : List (Nat × L1Line) :=
  (s.l1.filter fun p => p.1 % 2 ^ 45 == line && p.2.st != .i).map fun p => (p.1 / 2 ^ 45, p.2)

/-- Sets a unit's L1 state of a line. -/
def State.setL1 (s : State) (unit line : Nat) (st : Moesi) : State :=
  { s with l1 := s.l1.upd (l1Key unit line) fun x => { x with st := st } }

/-- The home's record of a line. -/
def State.homeLine (s : State) (line : Nat) : HomeLine := s.home.get line
/-- Replaces the home's record of a line. -/
def State.setHome (s : State) (line : Nat) (h : HomeLine) : State := { s with home := s.home.set line h }

/-- The sharer bit of a unit in place. -/
def sharerMask (unit : Nat) : BitVec 40 := 1#40 <<< sharerBit unit

/-- The state a home's record rests in with its owner and sharers (Table 5.5). -/
def HomeLine.rest (h : HomeLine) : HomeLine :=
  { h with state := if h.owner ≠ 0 then .ow else if h.sharers = 0 then .u else .sh }

/-- Triggers the armed monitors of some threads. -/
def State.triggerWhere (s : State) (mine : Nat → Monitor → Bool) : State :=
  { s with threads := s.threads.map fun p =>
      (p.1, if p.2.mon.armed && mine p.1 p.2.mon then { p.2 with mon := { p.2.mon with triggered := true } } else p.2) }

/-- Triggers the armed monitors whose block holds a byte of a range (09 R194). -/
def State.trigger (s : State) (l : Loc) (n : Nat) : State :=
  s.triggerWhere fun _ m => decide (m.loc.key < l.key + n) && decide (l.key < m.loc.key + 128)

/-- A line leaves a unit's L1 (in state S or with its write-back buffered): a monitor of that unit on it is triggered, a
spurious wake (09 R194). -/
def State.leaveL1 (s : State) (unit line : Nat) : State :=
  (s.setL1 unit line .i).triggerWhere fun tid m =>
    unitOf tid == unit && m.loc.space == .hbm && lineOf m.loc.addr == line

/-- Every L1 copy of a line but one unit's leaves its cache. -/
def State.recallFrom (s : State) (line : Nat) (keep : Nat) : State :=
  (s.holders line).foldl (fun s p => if p.1 = keep then s else s.leaveL1 p.1 line) s

/-- Drops a package's listed readers of a line after a write to it or a recall of it: invalidations to the listed packages,
or to every other package of the fabric domain under the all-packages mark (05 R97). -/
def State.invalidatePeers (s : State) (line : Nat) (w : Writer) : State :=
  let h := s.homeLine line
  if h.peers = [] ∧ !h.allPeers then s
  else
    let dests := (if h.allPeers then s.domain else h.peers).filter (· != s.pkg)
    let s := s.setHome line { h with peers := [], allPeers := false, sharers := h.sharers &&& ~~~(1#40 <<< 39) }
    { s with peerInv := s.peerInv ++ dests.map fun p => ⟨p, peerKey s.pkg (line * 128), w⟩ }

/-- A line of device memory as an address space sees it: when it was last transferred for another key slot or under another
key, every copy is recalled and what the memory holds is decrypted with this key (25 R422). -/
def State.rekey (s : State) (asid : Nat) (l : Loc) : State :=
  if l.space = .hbm then
    let n := lineOf l.addr
    let k := s.keyOf asid
    let old := s.lineKey.get n
    if s.underKey asid n then s
    else
      let at_ : Loc := ⟨.hbm, n * 128⟩
      let s := (s.recallFrom n 1000).invalidatePeers n .other
      let s := { s with
        lineSlot := s.lineSlot.set n (s.keySlotOf asid), lineKey := s.lineKey.set n k
        home := s.home.upd n fun h => HomeLine.rest { h with owner := 0, sharers := 0 } }
      if old ≠ k ∧ (old.enc || k.enc) then s.setBytes at_ (plain k n (cipher old n (s.bytesAt at_ 128))) else s
  else s

/-- Whether a place lies in another package. -/
def Space.foreign : Space → Bool
  | .peer _ => true
  | _ => false

/-- Whether this package's L2 holds the line of a place of another package (05 R97). -/
def State.peerHeld (s : State) (l : Loc) : Bool :=
  match l.space with
  | .peer p => (s.peerL2.get (peerKey p l.addr)).held
  | _ => false

/-- The bytes a read of a place meets: the copy in this package's L2 for a PEER line it holds, else memory's. -/
def State.viewBytes (s : State) (l : Loc) (n : Nat) : List Byte :=
  match l.space with
  | .peer p =>
    let x := s.peerL2.get (peerKey p l.addr)
    if x.held then (x.bytes.drop (l.addr % 128)).take n else s.bytesAt l n
  | _ => s.bytesAt l n

/-- The number they stand for. -/
def State.viewNum (s : State) (l : Loc) (n : Nat) : Nat := leNat (s.viewBytes l n)

/-- This package's L2 drops a line of another package; a monitor here on it is triggered as it leaves (09 R194). -/
def State.dropPeer (s : State) (key : Nat) : State :=
  if (s.peerL2.get key).held then
    ({ s with peerL2 := s.peerL2.set key default }).triggerWhere fun _ m => match m.loc.space with
      | .peer p => peerKey p m.loc.addr == key
      | _ => false
  else s

/-! ## Page tables (23 R400-R403) -/

/-- Bytes a leaf at a level covers, and bytes an entry found invalid at a level covers (R400, R404). -/
def levelSize (level : Nat) : Nat := match level with | 0 => 2 ^ 16 | 1 => 2 ^ 21 | 2 => 2 ^ 30 | 3 => 2 ^ 39 | _ => 2 ^ 48

/-- The index of an address in a table of a level (Table 23.8). -/
def levelIndex (level va : Nat) : Nat :=
  match level with
  | 0 => bitsOf va 16 5 | 1 => bitsOf va 21 9 | 2 => bitsOf va 30 9 | 3 => bitsOf va 39 9 | _ => bitsOf va 48 9

/-- PA field of an entry, as a byte address. -/
def ptePa (e : Word) : Nat := bitsOf e.toNat 8 44 * 2 ^ 8
/-- MTYPE of an entry. -/
def pteType (e : Word) : Nat := bitsOf e.toNat 6 2
/-- PKG of an entry. -/
def ptePkg (e : Word) : Nat := bitsOf e.toNat 52 12

/-- How a walk ends: a leaf with its level, V = 0 at a level, a malformed entry, a poisoned table line. -/
inductive WalkEnd where
  | leaf (level : Nat) (e : Word)
  | absent (level : Nat)
  | malformed
  | poison
deriving DecidableEq, Repr

/-- Whether an entry found at a level is a leaf (R401). -/
def isLeaf (level : Nat) (e : Word) : Bool := level == 0 || (e.getLsbD 1 && decide (level ≤ 2))

/-- An entry that breaks a rule of R401 (MTYPE and PKG of a table entry zero; LEAF zero at levels 3 and 4; a leaf's PA
bits below its page size zero, and PKG zero unless PEER). -/
def malformed (level : Nat) (e : Word) : Bool :=
  if isLeaf level e then ptePa e % levelSize level != 0 || (pteType e != 1 && ptePkg e != 0)
  else pteType e != 0 || ptePkg e != 0 || e.getLsbD 1 || (decide (level ≥ 2) && ptePa e % 2 ^ 12 != 0)

/-- The place of the entry for an address in a table of a level. -/
def entryLoc (level va table : Nat) : Loc := ⟨.hbm, table + levelIndex level va * 8⟩

/-- The table entry at a place. Tables are the driver's: they are read under its key slot, that of address space 0 (DESIGN
CHOICE, log entry 79). A ROOT or a table that lies past the fitted 768 GiB reads as zeros there, so that its entries are
absent (the manual gives no answer; DESIGN CHOICE, log entry 6). -/
def State.tableEntry (s : State) (l : Loc) : Word :=
  if l.addr < Config.hbmBytes then BitVec.ofNat 64 ((s.rekey 0 l).numAt l 8) else 0

/-- The walk from a table of a level down. -/
def walkFrom (s : State) (va : Nat) : Nat → Nat → WalkEnd
  | 0, table =>
    let l := entryLoc 0 va table
    let e := s.tableEntry l
    if s.poisoned l then .poison
    else if !e.getLsbD 0 then .absent 0
    else if malformed 0 e then .malformed
    else .leaf 0 e
  | n + 1, table =>
    let l := entryLoc (n + 1) va table
    let e := s.tableEntry l
    if s.poisoned l then .poison
    else if !e.getLsbD 0 then .absent (n + 1)
    else if malformed (n + 1) e then .malformed
    else if isLeaf (n + 1) e then .leaf (n + 1) e
    else walkFrom s va n (ptePa e)

/-- The places such a walk reads, in order. -/
def walkReads (s : State) (va : Nat) : Nat → Nat → List Loc
  | 0, table => [entryLoc 0 va table]
  | n + 1, table =>
    let l := entryLoc (n + 1) va table
    let e := s.tableEntry l
    if s.poisoned l || !e.getLsbD 0 || malformed (n + 1) e || isLeaf (n + 1) e then [l]
    else l :: walkReads s va n (ptePa e)

/-- The walk of an address from ROOT of an address space. -/
def State.walk (s : State) (asid va : Nat) : WalkEnd := walkFrom s va 4 ((s.asidEntry asid).root.toNat)

/-- The places the walk of an address reads. -/
def State.walkLocs (s : State) (asid va : Nat) : List Loc := walkReads s va 4 ((s.asidEntry asid).root.toNat)

/-! ## TLBs (23 R402) -/

/-- A TLB entry that translates an address of an address space. -/
def TlbEntry.hits (e : TlbEntry) (asid va : Nat) : Bool :=
  e.asid == asid && e.page / levelSize e.level == va / levelSize e.level

/-- The entry a unit's TLB, or else its die's, holds for an address. Hub agents have no TLB: they walk at once. -/
def State.tlbLookup (s : State) (unit asid va : Nat) : Option (Nat × Word) :=
  if unit < 160 then
    match (s.tlbs.get unit ++ s.tlbs.get (1000 + dieOf unit)).find? (·.hits asid va) with
    | some e => some (e.level, e.leaf)
    | none => none
  else match s.walk asid va with
    | .leaf l e => some (l, e)
    | _ => none

/-- Fills the TLBs of a unit and its die, newest first, within 64 and 4,096 entries. -/
def State.tlbFill (s : State) (unit : Nat) (e : TlbEntry) : State :=
  let put := fun (n : Nat) (l : List TlbEntry) => (e :: l.filter fun x => decide (x ≠ e)).take n
  { s with tlbs := (s.tlbs.upd unit (put 64)).upd (1000 + dieOf unit) (put 4096) }

/-! ## The checks of an access (09 R185) -/

/-- What an access needs of its leaf (23 R401). -/
structure Need where
  r : Bool := false
  w : Bool := false
  x : Bool := false
deriving DecidableEq, Repr

/-- A load's need. -/
def needR : Need := ⟨true, false, false⟩
/-- A store's need. -/
def needW : Need := ⟨false, true, false⟩
/-- An atomic's need. -/
def needRW : Need := ⟨true, true, false⟩
/-- A fetch's need. -/
def needX : Need := ⟨false, false, true⟩

/-- Where an address leads: a fault with its cause, a translation still to be walked, or a place. -/
inductive Resolved where
  | fault (cause : Nat)
  | walk
  | at (l : Loc)
deriving DecidableEq, Repr

/-- The permission check of a leaf (R401): hub agents do not need U. -/
def leafOk (e : Word) (need : Need) (who : Who) : Bool :=
  (!need.r || e.getLsbD 2) && (!need.w || e.getLsbD 3) && (!need.x || e.getLsbD 4)
    && (who.sup || decide (who.unit ≥ 160) || e.getLsbD 5)

/-- The place of a physical address in this package's device memory: ACCESS_FAULT past the fitted 768 GiB (00 Table 0.2;
the cause is a DESIGN CHOICE, log entry 6). -/
def hbmPlace (a : Nat) : Resolved := if a < Config.hbmBytes then .at ⟨.hbm, a⟩ else .fault causeAccess

/-- The place a leaf gives an address, or ACCESS_FAULT (05 R88, 25 Table 25.8). A PEER leaf that names this package, when
the fabric domain registers its number, is delivered to it (25 R425): to its own device memory (DESIGN CHOICE, log entry
80). -/
def leafPlace (s : State) (level : Nat) (e : Word) (va : Nat) : Resolved :=
  let a := ptePa e + va % levelSize level
  match pteType e with
  | 0 => hbmPlace a
  | 1 =>
    if !s.feature 5 then .fault causeAccess
    else if ptePkg e = s.pkg ∧ s.domain.contains s.pkg then hbmPlace a
    else .at ⟨.peer (ptePkg e), a⟩
  | 2 => .at ⟨.host, a⟩
  | _ => .fault causeAccess

/-- The group on a tile that a maker's access may reach: present and of its address space (01 R40). -/
def State.tileOpen (s : State) (who : Who) (tile : Nat) : Bool :=
  let g := (s.tile tile).group
  g != 0 && (s.wave (waveOf (g - 1))).asid == who.asid && !(s.host.drstBusy && s.host.drstNow.toNat == dieOf tile)

/-- Steps 1 to 5 of R185 for an access of `size` bytes: bits [63:57], alignment, map, translation and permission,
remote tile. -/
def State.resolve (s : State) (who : Who) (need : Need) (va size : Nat) : Resolved :=
  if va ≥ 2 ^ Config.vaBits then .fault causeAccess
  else if va % size ≠ 0 then .fault causeMisaligned
  else if va < Config.ownAlias then
    match s.tlbLookup who.unit who.asid va with
    | none => .walk
    | some (level, e) => if leafOk e need who then leafPlace s level e va else .fault causeAccess
  else if va < Config.ownAlias + Config.aliasSize then
    let off := va - Config.ownAlias
    if who.unit < 96 then
      if off + size ≤ Config.scratchSize (s.tile who.unit).sram then .at ⟨.sp who.unit, off⟩ else .fault causeAccess
    else if who.unit ≥ 160 then .fault causeAccess
    else
      let g := s.group who.gid
      -- the offset is one into the group's own range (DEDUCED, log entry 15)
      if off + size ≤ g.gmSize then .at ⟨.gm (who.unit - 96), g.gmOff + off⟩ else .fault causeAccess
  else if Config.window ≤ va ∧ va < Config.window + Config.tiles * Config.aliasSize then
    let t := (va - Config.window) / Config.aliasSize
    let off := (va - Config.window) % Config.aliasSize
    if !(t == who.unit) && !s.tileOpen who t then
      -- an empty tile has no split: its offset is checked against the largest scratchpad first
      .fault causeAccess
    else if off + size ≤ Config.scratchSize (s.tile t).sram then .at ⟨.sp t, off⟩ else .fault causeAccess
  else .fault causeAccess

/-! ## Coherence -/

/-- Whether a home cannot serve a request at once: a transient state, or requests waiting (05 R94). Those that wait at an order
gate stand in no other's way: the gate admits whose turn it is (21 R375); nor do those that a link holds (25 R411). -/
def HomeLine.busy (h : HomeLine) : Bool := h.queue.any (fun r => !r.gated && r.trip != .held) || h.active.isSome

/-- Whether messages of a line's protocol other than a write-back and its acknowledgement are under way. -/
def State.lineMsgs (s : State) (line : Nat) : Bool :=
  s.msgs.any fun m => m.line == line && m.kind != .writeback && m.kind != .wbAck

/-- Whether a write-back of a unit is on its way: messages of one cache arrive in the order they were sent (05 R94), so a later
request of that unit is admitted after it. -/
def State.writingBack (s : State) (unit line : Nat) : Bool :=
  s.msgs.any fun m => m.line == line && m.unit == unit && m.kind == .writeback

/-- Whether a write-back of a unit, or its acknowledgement, is on its way: the buffer still holds the line (R96). -/
def State.buffering (s : State) (unit line : Nat) : Bool :=
  s.msgs.any fun m => m.line == line && m.unit == unit && (m.kind == .writeback || m.kind == .wbAck)

/-- Whether a home holds a line for a TENQ, or an enqueue of the host, whose ring store waits for a page (19 R345). -/
def State.tenqHolds (s : State) (line : Nat) : Bool :=
  s.threads.any (fun p => p.2.live && p.2.holds == line + 1) || s.hostPark.any fun w => lineOf w.desc == line

/-- Whether a line's protocol is at work: its home cannot serve at once, holds it, or messages are under way. -/
def State.lineBusy (s : State) (line : Nat) : Bool := (s.home.get line).busy || s.lineMsgs line || s.tenqHolds line

/-- Whether a line lies in a frozen page (23 R407). -/
def State.isFrozen (s : State) (l : Loc) : Bool :=
  l.space = .hbm && s.frozen.any fun r => decide (r.1 ≤ l.addr) && decide (l.addr < r.1 + r.2)

/-- Whether a link holds transfers: a retraining window is open, or it has failed (25 R411, R412). -/
def Link.holds (l : Link) : Bool := l.retraining || l.failed

/-- Whether the link of a unit's die holds transfers. -/
def State.linkHeld (s : State) (unit : Nat) : Bool := unit < 160 && (s.links.get (dieOf unit - 1)).holds

/-- Whether the link of the memory die with a line's bytes holds transfers, and the L2 does not have them. -/
def State.memHeld (s : State) (line : Nat) : Bool :=
  s.links.any (fun l => decide (l.1 ≥ 10) && l.2.holds && l.1 == 10 + Config.memoryDie line % 6)
    && !(s.homeLine line).held

/-- Whether a copy of a line that another unit holds, in its L1 or its write-back buffer, lies behind a link that holds
transfers, so that it cannot be recalled now (25 R411, R412). -/
def State.copyHeld (s : State) (unit line : Nat) : Bool :=
  s.l1.any fun p => p.1 % 2 ^ 45 == line && !(p.1 / 2 ^ 45 == unit) && (p.2.st != .i || p.2.wb) && s.linkHeld (p.1 / 2 ^ 45)

/-- Whether an access of a unit to a place cannot be served now: its home is at work or its page frozen (05 R94, 23 R407),
a link on the way, or on that of a copy, holds (25 R411), or the package it names is not registered (25 R425). -/
def State.blocked (s : State) (unit : Nat) (l : Loc) : Bool :=
  match l.space with
  | .hbm =>
    s.isFrozen l || s.lineBusy (lineOf l.addr) || s.buffering unit (lineOf l.addr) || s.linkHeld unit
      || s.memHeld (lineOf l.addr) || s.copyHeld unit (lineOf l.addr)
  | .host => s.linkHeld unit
  | .sp t => t != unit && (s.linkHeld unit || s.linkHeld t)
  | .peer p => s.linkHeld unit || !s.domain.contains p
  | .gm _ | .easel _ => false

/-- Whether another package has answered a writer's access to the block of a place, so that it may be made (25 R424): for itself,
or for the close of an epoch it belongs to. -/
def State.peerAnswered (s : State) (w : Writer) (l : Loc) : Bool :=
  s.answers.contains ⟨w, l.key / 128⟩ || (match w with
    | .thread tid => (s.waveOfThread tid).answered.contains (l.key / 128)
    | _ => false)

/-- The answers a writer has had are used up. -/
def State.dropAnswers (s : State) (w : Writer) : State := { s with answers := s.answers.filter (·.writer != w) }

/-- Whether a write made in one step is held on its way: it is blocked, or it goes to another package that has not answered. -/
def State.writeHeld (s : State) (who : Who) (l : Loc) : Bool :=
  s.blocked who.unit l || (l.space.foreign && !s.peerAnswered who.writer l)

/-- Whether a unit's own L1 answers a read of a place under an address space's key (05 R93, 25 R422). -/
def State.l1Has (s : State) (unit asid : Nat) (l : Loc) : Bool :=
  l.space == .hbm && s.l1St unit (lineOf l.addr) != .i && s.underKey asid (lineOf l.addr)

/-- Whether a read made in one step (a fetch, a record, a monitored block) is held on its way: no cache on it answers, and
it is blocked, or it is a PEER line, which has to come first. -/
def State.readHeld (s : State) (who : Who) (l : Loc) : Bool :=
  match l.space with
  | .peer _ => !s.peerHeld l
  | _ => !s.l1Has who.unit who.asid l && s.blocked who.unit l

/-- Sends a message between a home and an L1. -/
def State.send (s : State) (m : Msg) : State :=
  { s with msgs := s.msgs ++ [{ m with sent := s.nextPark }], nextPark := s.nextPark + 1 }

/-- A request that a unit sends now: it comes to its home at once, or when the link of its die no longer holds (25 R411). -/
def State.newRequest (s : State) (kind : ReqKind) (unit tid hint : Nat) (gated : Bool) : Request :=
  ⟨kind, unit, tid, s.cycle, hint, gated, if s.linkHeld unit then .held else .direct, s.nextPark⟩

/-- Lines a unit's L1 holds (01 R18, R22): 768 KiB per unit of its split code. -/
def State.l1Lines (s : State) (unit : Nat) : Nat :=
  6144 * (if unit < 96 then (s.tile unit).sram else (s.core (unit - 96)).sram)

/-- Makes room in an L1 that has taken a line beyond its size: the lowest other line leaves it, a dirty one through the
write-back buffer (05 R96). A clean line leaves without a message, so its home's bit and owner stay until the next
request (R93 and R94 name no message for it; DESIGN CHOICE, log entry 10). -/
def State.evictFor (s : State) (unit line : Nat) : State :=
  let mine := s.l1.filter fun p => p.1 / 2 ^ 45 == unit && p.2.st != .i
  if s.l1Lines unit = 0 ∨ mine.length ≤ s.l1Lines unit then s
  else match mine.find? fun p => p.1 % 2 ^ 45 != line with
    | none => s
    | some (k, x) =>
      let s := s.leaveL1 unit (k % 2 ^ 45)
      if x.st = .m ∨ x.st = .o then
        ({ s with l1 := s.l1.set k ⟨.i, true⟩ }).send ⟨k % 2 ^ 45, unit, .writeback, 0, 0⟩
      else s

/-- The L2 evicts a line: every copy is invalidated first, here, at the companion processor and in other packages, and a
dirty one recalled (05 R91). -/
def State.evictLine (s : State) (line : Nat) : State :=
  ((s.recallFrom line 1000).invalidatePeers line .other).setHome line default

/-- The set of the L2 that a line of device memory, or one of another package by its address there, belongs to: its slice, and
one of that slice's 1,536 sets (00 Table 0.2; which set, and that a line of another package has its slice by the same
bits, is a DESIGN CHOICE, log entry 10). -/
def l2Set (line : Nat) : Nat × Nat := (homeSlice (line * 128), line / 128 % Config.l2Sets)

/-- Lines a set of the L2 holds: of device memory, and of other packages. -/
def State.l2Lines (s : State) (set : Nat × Nat) : List Nat × List Nat :=
  ((s.home.filter fun p => p.2.held && l2Set p.1 == set).map (·.1),
   (s.peerL2.filter fun p => p.2.held && l2Set (p.1 % 2 ^ 45) == set).map (·.1))

/-- Makes room in a set of the L2 that has taken a line beyond its 16 ways (00 R4, 05 Table 5.1): the lowest line but the new
one is evicted, of device memory one that is at rest and whose copies can be reached, else one of another package (which
line it is, is a DESIGN CHOICE, log entry 10). -/
def State.l2MakeRoom (s : State) (set : Nat × Nat) (line peer : Option Nat) : State :=
  let (lines, peers) := s.l2Lines set
  if lines.length + peers.length ≤ Config.l2Ways then s
  else match lines.find? fun n => some n != line && !s.lineBusy n && !s.copyHeld 1000 n with
    | some n => s.evictLine n
    | none => match peers.find? fun k => some k != peer with
      | some k => s.dropPeer k
      | none => s

/-- Makes room for a line of device memory. -/
def State.l2Room (s : State) (line : Nat) : State := s.l2MakeRoom (l2Set line) (some line) none

/-- This package's L2 takes a copy of a line of another package. -/
def State.takePeer (s : State) (l : Loc) : State :=
  let bytes := s.bytesAt { l with addr := l.addr / 128 * 128 } 128
  match l.space with
  | .peer p =>
    let k := peerKey p l.addr
    ({ s with peerL2 := s.peerL2.set k ⟨true, bytes⟩ }).l2MakeRoom (l2Set (lineOf l.addr)) none (some k)
  | _ => s

/-- A read-shared request served in one step (05 R93, R96): an owner in M falls to O and in E to S, and one whose line is in
its write-back buffer gives it up; the reader takes E when no other cache holds the line, in this package or another, else S.
`hint` says where a copy may stay: 0 in the L1, 1 in the L2 only, 2 in neither. A hub agent keeps no copy and is recorded. -/
def State.cohRead (s : State) (unit line hint : Nat) : State :=
  if s.l1St unit line ≠ .i then s
  else
    let h := s.homeLine line
    let others := s.holders line
    let buffered := decide (h.owner ≠ 0) && (s.l1.get (l1Key (h.owner - 1) line)).wb && s.l1St (h.owner - 1) line == .i
    let kept := others.any fun p => p.1 + 1 == h.owner && (p.2.st == .m || p.2.st == .o)
    let s := others.foldl (fun s p => match p.2.st with
      | .m => s.setL1 p.1 line .o
      | .e => s.setL1 p.1 line .s
      | _ => s) s
    let alone := others.isEmpty && !buffered && h.sharers.toNat / 2 ^ 32 == 0 && h.peers.isEmpty && !h.allPeers
    let h := { h with
      owner := if kept then h.owner else 0, held := h.held || decide (hint < 2), dirty := h.dirty || buffered }
    if hint = 0 ∧ unit < 160 then
      let s := if alone then
          (s.setL1 unit line .e).setHome line { h with state := .ow, sharers := sharerMask unit, owner := unit + 1 }
        else (s.setL1 unit line .s).setHome line (HomeLine.rest { h with sharers := h.sharers ||| sharerMask unit })
      (s.evictFor unit line).l2Room line
    else
      (s.setHome line (HomeLine.rest { h with
        sharers := if unit < 160 then h.sharers else h.sharers ||| sharerMask unit })).l2Room line

/-- A request for ownership served in one step (05 R92-R95): every other copy is invalidated, the companion processor's
included (R112); the writer holds M, or the write is made at the home, in the L2 line or past it. -/
def State.cohWrite (s : State) (unit line hint : Nat) : State :=
  let mine := s.l1St unit line
  if mine = .m then s
  else if mine = .e then s.setL1 unit line .m
  else
    let h := s.homeLine line
    let s := s.recallFrom line unit
    if unit < 160 ∧ (hint = 0 ∨ mine ≠ .i) then
      (((s.setL1 unit line .m).setHome line
        { h with state := .ow, sharers := sharerMask unit, owner := unit + 1, held := true }).evictFor unit line).l2Room line
    else
      let held := h.held || decide (hint < 2)
      (s.setHome line { h with state := .u, sharers := 0, owner := 0, held := held, dirty := held }).l2Room line

/-- Before an atomic, the home recalls the owner's copy and invalidates every other, the requester's own included
(05 R99); `hint` says whether the L2 keeps the line. -/
def State.cohAtomic (s : State) (line hint : Nat) : State := s.cohWrite 1000 line hint

/-- A watched line is held in no cache of this package (21 R373): copies taken before the recording began leave. -/
def State.uncache (s : State) (line : Nat) : State :=
  if (s.holders line).isEmpty && !(s.homeLine line).held then s
  else
    let s := s.recallFrom line 1000
    let h := s.homeLine line
    s.setHome line (HomeLine.rest { h with
      held := false, dirty := false, owner := 0, sharers := h.sharers &&& 0xFF00000000#40 })

/-! ## Effects of a write -/

/-- Whether a place lies outside the scratchpads and group memories of a wave's own groups (23 R393). -/
def State.outside (s : State) (wave : Nat) (l : Loc) : Bool :=
  match l.space with
  | .sp t => let g := (s.tile t).group; !(g != 0 && waveOf (g - 1) == wave)
  | .gm _ => false
  | _ => true

/-- Sets a wave's side-effect mark. -/
def State.setMark (s : State) (wave : Nat) : State :=
  if (s.wave wave).mark then s else s.setWave wave { s.wave wave with mark := true }

/-- A write of a maker outside its wave's own tiles and group memories sets the wave's side-effect mark. -/
def State.markFor (s : State) (who : Who) (l : Loc) : State :=
  if s.outside (waveOf who.gid) l then s.setMark (waveOf who.gid) else s

/-- Performs a write of bytes at a place: key tag, coherence, the bytes, monitors, copies in other packages, side-effect
mark. A poisoned line stays poisoned. Our own L2's copy of a PEER line goes at once, so that no load here reads an older
value than our own store. -/
def State.performWrite (s : State) (who : Who) (l : Loc) (bs : List Byte) (hint : Nat) : State :=
  let s := s.rekey who.asid l
  let s := match l.space with
    | .hbm => (s.cohWrite who.unit (lineOf l.addr) hint).invalidatePeers (lineOf l.addr) who.writer
    | .peer p => s.dropPeer (peerKey p l.addr)
    | _ => s
  let s := (s.setBytes l bs).trigger l bs.length
  if who.unit < 160 then s.markFor who l else s

/-- A plain store to another package's memory is acknowledged before the copies its home lists are invalidated: those
invalidations are under way (05 R97, R104). -/
def State.peerSent (s : State) (who : Who) (l : Loc) : State :=
  match l.space with
  | .peer p => { s with peerInv := s.peerInv ++ [⟨p, peerKey p l.addr, who.writer⟩] }
  | _ => s

/-- Whether writes of a maker await PEER invalidations (05 R104). -/
def State.unperformed (s : State) (w : Writer) : Bool := s.peerInv.any (·.writer == w)

/-- Whether a thread has stores that are not yet performed in the sense of 05 R104. -/
def State.owes (s : State) (tid : Nat) : Bool := s.unperformed (.thread tid)

/-- Prepares a read of a line: key tag and coherence. -/
def State.prepareRead (s : State) (who : Who) (l : Loc) (hint : Nat) : State :=
  let s := s.rekey who.asid l
  match l.space with
  | .hbm => s.cohRead who.unit (lineOf l.addr) hint
  | .peer _ => if hint < 2 ∧ !s.peerHeld l then s.takePeer l else s
  | _ => s

/-- Whether a page of a watch range of an address space leads to a line now (21 R373). -/
def State.rangeWatches (s : State) (asid base len line : Nat) : Bool :=
  (List.range (len / 4096)).any fun i =>
    let va := base + i * 4096
    match s.walk asid va with
    | .leaf level e => (match leafPlace s level e va with
      | .at l => l.space == .hbm && l.addr / 4096 == line * 128 / 4096
      | _ => false)
    | _ => false

/-- Address spaces whose record block watches a line, whoever accesses it (21 R373, R374): where an agent, the companion
processor or another package does, there is no virtual address to go by, and MODE is that of the block now (DESIGN CHOICE,
log entry 105). -/
def State.watchers (s : State) (line : Nat) : List Nat :=
  (s.records.filter fun p => p.2.block.mode != 0 &&
    (p.2.block.ranges.take p.2.block.nw.toNat).any fun r => s.rangeWatches p.1 r.1.toNat r.2.toNat line).map (·.1)

/-- Where the line of an agent's access may stay: the L2, or for a watched line nowhere (21 R373). -/
def State.agentHint (s : State) (l : Loc) : Nat := if l.space = .hbm ∧ s.watchers (lineOf l.addr) ≠ [] then 2 else 1

/-- A walk's reads of the tables, under sharer bit 33 (23 R403). -/
def State.walked (s : State) (asid va : Nat) : State :=
  (s.walkLocs asid va).foldl (fun s l => (s.rekey 0 l).cohRead 193 (lineOf l.addr) (s.agentHint l)) s

/-- The table entry at which the walk of a hub agent's access cannot go on now: its home cannot serve it (05 R94). -/
def State.hubWalkStop (s : State) (who : Who) (va : Nat) : Option Loc :=
  if va < Config.ownAlias ∧ who.unit ≥ 160 then (s.walkLocs who.asid va).find? (s.blocked 1000) else none

/-- Whether there is one. -/
def State.hubWalkHeld (s : State) (who : Who) (va : Nat) : Bool := (s.hubWalkStop who va).isSome

/-- A hub agent's access walks at once: the tables are read when the address is translated. -/
def State.hubWalked (s : State) (who : Who) (va : Nat) : State :=
  if va < Config.ownAlias ∧ (who.unit ≥ 160 ∨ (s.tlbLookup who.unit who.asid va).isNone) then s.walked who.asid va else s

/-! ## Digest (21 R376) -/

/-- One store folded into a digest. -/
def digestFold (d va v size : Nat) : Nat :=
  let d := ((d * 2 ^ 23 + d / 2 ^ 41) % 2 ^ 64) ^^^ va
  (((d ^^^ v) * 0x9E3779B97F4A7C15) % 2 ^ 64) ^^^ (size - 1)

/-- Folds a store of a thread into its c.digest. -/
def State.fold (s : State) (tid va v size : Nat) : State :=
  let t := s.thread tid
  s.setThread tid { t with digest := BitVec.ofNat 64 (digestFold t.digest.toNat (va % 2 ^ 64) (v % 2 ^ (8 * size)) size) }

/-! ## Record mode's watched lines (21 R373-R375) -/

/-- Whether an address of a wave is watched. -/
def State.watchedVa (s : State) (wave va : Nat) : Bool :=
  let w := s.wave wave
  w.recMode != 0 && (((s.records.get w.asid).block.ranges.take (s.records.get w.asid).block.nw.toNat).any fun r =>
    decide (r.1.toNat ≤ va) && decide (va < r.1.toNat + r.2.toNat))

/-- The requester fields of a log chunk (Table 21.5) of a unit and a proof thread's slot, without the run length. -/
def requesterCode (unit slot : Nat) : Nat :=
  sharerBit unit * 2 ^ 26 + (if unit < 96 then unit % 4 else if unit < 160 then (unit - 96) % 8 else 0) * 2 ^ 23 + slot * 2 ^ 13

/-- The slot of a thread in a log chunk: a proof thread's, 0 for a control core. -/
def slotOf (tid : Nat) : Nat := if isControl tid then 0 else tid % 1024

/-- The arbitration-log writer as maker of accesses (05 Table 5.4, bit 36). -/
def logWriter (asid : Nat) : Who := ⟨196, asid, 0, true, .other⟩

/-- How a hub agent's access ends: made, held while a home on its way cannot serve it or its page moves (05 R94, 23 R407), or
lost to a fault. -/
inductive HubDone (α : Type) where
  | ok (a : α)
  | held
  | lost

/-- Whether a place lies in a package that the fabric domain does not register: an access of a hub agent there is lost. One
to a registered package is made at once (no rule says how the log, the SPOOL ring or a save buffer is reached there;
DESIGN CHOICE, log entry 91). -/
def State.unregistered (s : State) (l : Loc) : Bool :=
  match l.space with
  | .peer p => !s.domain.contains p
  | _ => false

/-- Stores a number at a virtual address as a hub agent; lost on any fault, an absent page included. -/
def State.hubStore (s : State) (who : Who) (va n x : Nat) : HubDone State :=
  if s.hubWalkHeld who va then .held
  else match s.resolve who needW va n with
  | .at l =>
    if s.unregistered l then .lost
    else if s.blocked who.unit l then .held
    else .ok ((s.hubWalked who va).performWrite who l (leBytes n x) (s.agentHint l))
  | _ => .lost

/-- Loads a number from a virtual address as a hub agent. -/
def State.hubLoad (s : State) (who : Who) (va n : Nat) : HubDone (State × Nat) :=
  if s.hubWalkHeld who va then .held
  else match s.resolve who needR va n with
  | .at l =>
    if s.poisoned l || s.unregistered l then .lost
    else if s.blocked who.unit l then .held
    else let s := (s.hubWalked who va).prepareRead who l (s.agentHint l); .ok (s, s.viewNum l n)
  | _ => .lost

/-- A slice's log when a store to it is lost: it stops, sets the lost-store bit beside the header's other fields if that store
succeeds, and reports (R374); none while the header's home cannot serve it. -/
def State.logLost (s : State) (asid slice va flags : Nat) : Option State :=
  let r := s.records.get asid
  let base := r.block.logbase.toNat + slice * r.block.loglen.toNat
  let s := { s with records := s.records.set asid { r with stopped := r.stopped.set slice true } }
  let report := fun (s : State) => s.report (mkReport 2 asid 1 0 0 va 0 0 0)
  match s.hubStore (logWriter asid) base 8 (r.chunks.get slice * 2 ^ 32 + flags + 2) with
  | .ok s => some (report s)
  | .lost => some (report s)
  | .held => none

/-- Appends an admission to a slice's log: the requester's run grows, or a new chunk begins (R374); none while the log's lines
cannot be written. -/
def State.logAppend (s : State) (asid slice code : Nat) : Option State :=
  let r := s.records.get asid
  if r.stopped.get slice then some s
  else
    let base := r.block.logbase.toNat + slice * r.block.loglen.toNat
    let n := r.chunks.get slice
    let (lastCode, run) := r.last.get slice
    let grow := decide (n > 0) && lastCode == code && decide (run < 8192)
    let (n, run, slot) := if grow then (n, run + 1, n - 1) else (n + 1, 1, n)
    if 8 + 4 * (slot + 1) > r.block.loglen.toNat then
      let s := { s with records := s.records.set asid { r with stopped := r.stopped.set slice true } }
      match s.hubStore (logWriter asid) base 8 (r.chunks.get slice * 2 ^ 32 + 1) with
      | .ok s => some s
      | .lost => s.logLost asid slice base 1
      | .held => none
    else
      match s.hubStore (logWriter asid) (base + 8 + 4 * slot) 4 (code + run - 1) with
      | .lost => s.logLost asid slice (base + 8 + 4 * slot) 0
      | .held => none
      | .ok s =>
        match s.hubStore (logWriter asid) base 8 (n * 2 ^ 32) with
        | .lost => s.logLost asid slice base 0
        | .held => none
        | .ok s =>
          let r := { r with chunks := r.chunks.set slice n, last := r.last.set slice (code, run) }
          some { s with records := s.records.set asid r }

/-- A number of a slice's log, from an offset of its region. -/
def State.logWord (s : State) (asid slice off n : Nat) : HubDone (State × Nat) :=
  let r := s.records.get asid
  s.hubLoad (logWriter asid) (r.block.logbase.toNat + slice * r.block.loglen.toNat + off) n

/-- The log entry a slice's order gate stands at: the chunk and what is left of its run; none once the log is exhausted
(R375). -/
def State.gateNext (s : State) (asid slice : Nat) : Option (Nat × Nat) :=
  let r := s.records.get asid
  let total := match s.logWord asid slice 0 8 with
    | .ok (_, h) => h / 2 ^ 32
    | _ => 0
  let i := r.admitted.get slice
  if i ≥ total then none
  else
    let chunk := match s.logWord asid slice (8 + 4 * i) 4 with
      | .ok (_, c) => c
      | _ => 0
    some (chunk / 2 ^ 13 * 2 ^ 13, if r.runLeft.get slice = 0 then chunk % 2 ^ 13 + 1 else r.runLeft.get slice)

/-- Whether a slice's gate cannot read its log now: a home on the way cannot serve it (05 R94). -/
def State.gateBlind (s : State) (asid slice : Nat) : Bool :=
  (s.logWord asid slice 0 8 matches .held) || (s.logWord asid slice (8 + 4 * (s.records.get asid).admitted.get slice) 4 matches .held)

/-- Whether the order gate of a slice admits a requester now, and the recording after it (R375). -/
def State.gate (s : State) (asid slice code : Nat) : Option State :=
  if s.gateBlind asid slice then none
  else match s.gateNext asid slice with
  | none => some s
  | some (next, left) =>
    if next = code then
      let r := s.records.get asid
      let r := { r with
        admitted := if left = 1 then r.admitted.upd slice (· + 1) else r.admitted
        runLeft := r.runLeft.set slice (left - 1), sentAt := r.sentAt.set slice s.cycle }
      some { s with records := s.records.set asid r }
    else none

/-- Admission of a watched request of a wave's unit at its home: logged in record mode, gated in replay mode (R374, R375); the
line is in no cache then. -/
def State.admitWatched (s : State) (wave unit slot : Nat) (l : Loc) : Option State :=
  let w := s.wave wave
  let slice := homeSlice l.addr
  (if w.recMode = 1#2 then s.logAppend w.asid slice (requesterCode unit slot)
   else s.gate w.asid slice (requesterCode unit slot)).map (·.uncache (lineOf l.addr))

/-- Admission of a watched access of a thread. -/
def State.admitThread (s : State) (tid : Nat) (l : Loc) : Option State :=
  s.admitWatched (waveOf (s.thread tid).gid) (unitOf tid) (slotOf tid) l

/-- Whether requests wait at a line whose slice's log is exhausted in a wave's replay: they arrived first, and are admitted first
(R375). -/
def State.gateQueue (s : State) (wave : Nat) (l : Loc) : Bool :=
  (s.wave wave).recMode = 2#2 && (s.homeLine (lineOf l.addr)).queue.any (·.gated)
    && (s.gateNext (s.wave wave).asid (homeSlice l.addr)).isNone

/-- A read or write made in one step, watched or not (R373): its admission, and the hint with which its line is cached; none
while the order gate holds it. -/
def State.admitPlain (s : State) (who : Who) (slot va : Nat) (l : Loc) : Option (State × Nat) :=
  if l.space = .hbm ∧ s.watchedVa (waveOf who.gid) va then
    if s.gateQueue (waveOf who.gid) l then none
    else (s.admitWatched (waveOf who.gid) who.unit slot l).map fun s => (s, 2)
  else some (s, 0)

/-- Admission of an access of an agent, by its unit number, to a line at its home: for every address space that watches the line
logged, or gated, as a request of that agent (R374, R375); none while it is held. The page walker's reads of tables and
the log writer's own stores are no requests of a recording (DESIGN CHOICE, log entry 105). -/
def State.admitAgent (s : State) (unit : Nat) (l : Loc) : Option State :=
  match (if l.space = .hbm then s.watchers (lineOf l.addr) else []) with
  | [] => some s
  | asids => (asids.foldl (fun (r : Option State) asid => r.bind fun s =>
      if (s.records.get asid).block.mode = 1#2 then s.logAppend asid (homeSlice l.addr) (requesterCode unit 0)
      else s.gate asid (homeSlice l.addr) (requesterCode unit 0)) (some s)).map (·.uncache (lineOf l.addr))

/-- Admission of a maker's access made in one step: a thread's or an engine's by its address, an agent's by its line. -/
def State.admitFor (s : State) (who : Who) (va : Nat) (l : Loc) : Option (State × Nat) :=
  if who.unit < 160 then
    s.admitPlain who (match who.writer with
      | .thread tid => slotOf tid
      | _ => 0) va l
  else (s.admitAgent who.unit l).map fun t => (t, s.agentHint l)

/-! ## Atomics (09 R189, R190, Table 9.10) -/

/-- The new value of an ATOM on `size` bytes. -/
def atomNew (op size m v : Nat) : Nat :=
  let n := 8 * size
  let v := v % 2 ^ n
  match op with
  | 0 => (m + v) % 2 ^ n
  | 1 => m &&& v
  | 2 => m ||| v
  | 3 => m ^^^ v
  | 4 => if sextNat n m ≤ sextNat n v then m else v
  | 5 => if sextNat n m ≤ sextNat n v then v else m
  | 6 => min m v
  | 7 => max m v
  | 8 => v
  | 9 => if m ≥ v then 0 else m + 1
  | 10 => if m = 0 ∨ m > v then v else m - 1
  | _ => fadd32 m v

/-- ATOM operations the host link does not have: .fadd, .incw, .decw (05 Table 5.7). -/
def notOnHost (op : AccessOp) : Bool :=
  match op with
  | .atom n => n == 9 || n == 10 || n == 11
  | _ => false

/-- What TENQ does at a queue descriptor (19 R345); its ring store may await a walk, or be held at a place. -/
inductive TenqResult where
  | done (old : Nat) (s : State)
  | fault (cause va : Nat)
  | walk (va : Nat)
  | held (l : Loc) (va : Nat)

/-- The descriptor's update and ring store of a TENQ of `node` at descriptor place `l`, under an address space. The ring store is a
request of its own at the home of its line; one to another package waits for the answer from there (25 R424). A queue whose
TAIL stands below its HEAD is not full. `hint` says whether the L2 keeps the descriptor's line. -/
def State.tenqAt (s : State) (who : Who) (l : Loc) (node hint : Nat) : TenqResult :=
  let head := s.numAt l 8
  let tail := s.numAt (l.plus 8) 8
  let ring := s.numAt (l.plus 16) 8
  let cap := s.numAt (l.plus 24) 4
  if !(16 ≤ cap && cap ≤ 2 ^ 20 && cap == 2 ^ Nat.log2 cap) then .done (2 ^ 64 - 2) s
  else if tail ≥ head + cap then .done (2 ^ 64 - 1) s
  else
    let va := (ring + tail % cap * 8) % 2 ^ 64
    match s.resolve who needW va 8 with
    | .fault c => .fault c va
    | .walk => .walk va
    | .at r =>
      if s.hubWalkHeld who va then .held r va
      else
      let s := s.hubWalked who va
      if lineOf r.key ≠ lineOf l.key ∧ s.writeHeld who.atHome r then .held r va
      else match s.admitFor who va r with
        | none => .held r va
        | some (s, kept) =>
          let s := (s.performWrite who.atHome r (leBytes 8 node) (max 1 kept)).dropAnswers who.writer
          .done tail (s.performWrite who.atHome (l.plus 8) (leBytes 8 ((tail + 1) % 2 ^ 64)) hint)

/-! ## Performing an access of a thread -/

/-- A load's register value from its bytes (09 R184). -/
def loadValue (sx : Bool) (size v : Nat) : Word :=
  if sx then BitVec.ofInt 64 (sextNat (8 * size) v) else BitVec.ofNat 64 v

/-- The place an address leads to now, by the translation of a unit or else of the tables; none where it leads nowhere. -/
def State.vaPlace (s : State) (unit asid va : Nat) : Option Loc :=
  let leaf := fun (level : Nat) (e : Word) => match leafPlace s level e va with
    | .at l => some l
    | _ => none
  match s.tlbLookup unit asid va with
  | some (level, e) => leaf level e
  | none => match s.walk asid va with
    | .leaf level e => leaf level e
    | _ => none

/-- A group's private stores by the places their addresses lead to now: a page that has moved since (23 R407) takes its bytes
along (21 R368, 05 R100). -/
def State.storesNow (s : State) (gid : Nat) : SMap (List DetByte) :=
  let g := s.group gid
  let key := fun (k : Nat) (b : DetByte) => match s.vaPlace g.unit (s.wave (waveOf gid)).asid b.va with
    | some l => l.key
    | none => k
  if g.stores.all fun p => p.2.all fun b => key p.1 b == p.1 then g.stores
  else g.stores.foldl (fun m p => p.2.foldl (fun m b => SMap.upd m (key p.1 b) fun l =>
    if l.any (·.thread == b.thread) then l else l ++ [b]) m) []

/-- The bytes a thread's load sees: its own buffered bytes over memory (21 R368). -/
def State.seenBytes (s : State) (tid : Nat) (l : Loc) (n : Nat) : List Byte :=
  let t := s.thread tid
  let st := s.storesNow t.gid
  (List.range n).map fun i =>
    match (st.get (l.plus i).key).find? (·.thread == t.idx) with
    | some b => b.value
    | none => (s.viewBytes (l.plus i) 1).headD 0

/-- The number they stand for. -/
def State.seen (s : State) (tid : Nat) (l : Loc) (n : Nat) : Nat := leNat (s.seenBytes tid l n)

/-- How performing an access ends: the state and the register value, a fault with its value, a walk awaited, or held on the
way to a place. -/
inductive Performed where
  | ok (s : State) (v : Option Word)
  | fault (cause va : Nat)
  | walk (va : Nat)
  | held (l : Loc) (va : Nat)

/-- Where the line of an operation made at its home may stay: the L2, or for a watched line nowhere (21 R373). -/
def Access.homeHint (a : Access) : Nat := if a.hint = 2 then 2 else 1

/-- The copies an atomic's home recalls before it performs it (05 R99), in this package and in others, whether it then writes
or not; of a PEER line this package's L2 copy goes (R97). -/
def State.recallFor (s : State) (who : Who) (l : Loc) (hint : Nat) : State :=
  let s := s.rekey who.asid l
  match l.space with
  | .hbm => (s.cohAtomic (lineOf l.addr) hint).invalidatePeers (lineOf l.addr) who.writer
  | .peer p => s.dropPeer (peerKey p l.addr)
  | _ => s

/-- Performs an access at its place in one indivisible step (05 R99, 09 R184-R191, 19 R345): poison, the operation, the
side-effect mark and the digest. The value goes to gd. Of a poisoned line and an atomic that HOST memory does not offer,
POISON comes first (R191 gives no order; DESIGN CHOICE, log entry 81). -/
def State.perform (s : State) (tid : Nat) (a : Access) : Performed :=
  let who := s.who tid
  match a.op with
  | .load sx =>
    if s.poisoned a.loc then .fault causePoison a.va
    else
      let s := s.prepareRead who a.loc a.hint
      .ok s (some (loadValue sx a.size (s.seen tid a.loc a.size)))
  | .store =>
    .ok (((s.performWrite who a.loc (leBytes a.size a.value) a.hint).peerSent who a.loc).fold tid a.va a.value a.size) none
  | .atom op =>
    if s.poisoned a.loc then .fault causePoison a.va
    else if a.loc.space = .host ∧ (notOnHost a.op ∨ !s.feature 65) then .fault causeAccess a.va
    else
      let s := s.recallFor who a.loc a.homeHint
      let m := s.numAt a.loc a.size
      let new := atomNew op a.size m a.value
      .ok (((s.performWrite who.atHome a.loc (leBytes a.size new) a.homeHint).markFor who a.loc).fold tid a.va new a.size)
        (some (BitVec.ofNat 64 m))
  | .cas =>
    if s.poisoned a.loc then .fault causePoison a.va
    else if a.loc.space = .host ∧ !s.feature 65 then .fault causeAccess a.va
    else
      let s := s.recallFor who a.loc a.homeHint
      let m := s.numAt a.loc a.size
      if m = a.expected % 2 ^ (8 * a.size) then
        .ok (((s.performWrite who.atHome a.loc (leBytes a.size a.value) a.homeHint).markFor who a.loc).fold tid a.va a.value a.size)
          (some (BitVec.ofNat 64 m))
      else .ok s (some (BitVec.ofNat 64 m))
  | .tenq =>
    if s.poisoned a.loc then .fault causePoison a.va
    else
      let s := s.recallFor who a.loc a.homeHint
      match s.tenqAt who a.loc a.value a.homeHint with
      | .done old s =>
        .ok (if old < 2 ^ 64 - 2 then s.setMark (waveOf who.gid) else s) (some (BitVec.ofNat 64 old))
      | .fault c va => .fault c va
      | .walk va => .walk va
      | .held l va => .held l va

/-- ACC of a page-fault report for an operation (23 Table 23.10). -/
def accOf (op : AccessOp) : Nat :=
  match op with
  | .load _ => 0
  | .store => 1
  | _ => 2

/-- Asks the hub for the walk of an address on behalf of a die's units, with the prefetches that go on from it; requests of
one die for one page are merged (23 R403). -/
def State.askWalkFor (s : State) (die asid va : Nat) (prefs : List Prefetch) : State :=
  let page := va / 2 ^ 16 * 2 ^ 16
  let same := fun (w : Walk) => w.die == die && w.asid == asid && w.va == page
  if s.walks.any same then
    { s with walks := s.walks.map fun w => if same w then { w with prefs := w.prefs ++ prefs } else w }
  else { s with walks := s.walks ++ [⟨die, asid, page, prefs, s.nextPark⟩], nextPark := s.nextPark + 1 }

/-- Asks the hub for the walk of an address for units that wait for it. -/
def State.askWalk (s : State) (die asid va : Nat) : State := s.askWalkFor die asid va []

/-- The value of a fault that an access at an address brings to a thread: of a record it reads, the record's address. -/
def Thread.faultVal (t : Thread) (va : Nat) : Nat := if t.named = 0 then va else t.named - 1

/-- A thread parks at its instruction until the walk of an address ends; a refusal already there is raised instead. -/
def Cx.awaitWalk (c : Cx) (va acc : Nat) (s : State) : Out :=
  match (s.thread c.tid).refusal with
  | some (cause, v) => c.trap cause (BitVec.ofNat 64 v) s
  | none => c.park (.walk va acc) (s.askWalk (dieOf (unitOf c.tid)) (s.asidOf c.tid) va)

/-- Whether an access is an atomic that is an acquire (05 R103). -/
def Access.acquires (a : Access) : Bool := !(a.op matches .load _) && (a.ord == 1 || a.ord == 3)

/-- After an acquire whose PEER invalidations are under way the thread's next instruction waits for them, as at a fence: its
later accesses are performed after it (05 R103, R104). -/
def State.afterAcquire (s : State) (tid : Nat) : State :=
  if s.owes tid then s.setThread tid { s.thread tid with wait := some .fence } else s

/-- Finishes a thread's access once it is made: gd, and the completion of its instruction. -/
def State.finishAccess (s : State) (tid : Nat) (a : Access) (v : Option Word) : State :=
  let s := match v with
    | some v => s.setThread tid ((s.thread tid).wr (BitVec.ofNat 6 a.gd) v)
    | none => s
  let s := s.complete tid a.next a.user
  if a.acquires then s.afterAcquire tid else s

/-- Performs a thread's waiting or present access and finishes or traps its instruction. While the ring store of a TENQ waits
for its page, the home holds the descriptor's line (19 R345). -/
def State.settleAccess (s : State) (tid : Nat) (a : Access) : State :=
  let holds := if a.op = .tenq ∧ a.loc.space = .hbm then lineOf a.loc.addr + 1 else 0
  match s.perform tid a with
  | .ok s v => s.finishAccess tid a v
  | .fault cause va => s.trap tid cause (s.thread tid).pc (BitVec.ofNat 64 va)
  | .walk va =>
    match (s.thread tid).refusal with
    | some (cause, v) => s.trap tid cause (s.thread tid).pc (BitVec.ofNat 64 v)
    | none =>
      let s := s.askWalk (dieOf (unitOf tid)) (s.asidOf tid) va
      s.setThread tid { s.thread tid with wait := some (.walk va (accOf a.op)), pfx := [], holds := holds }
  | .held l va =>
    let t := s.thread tid
    let w : Wait := .line l va true
    s.setThread tid { t with
      wait := some w, pfx := [], holds := holds, waited := if t.wait = some w then t.waited else s.cycle + 1 }

/-! ## Deterministic mode (21 R366-R369) -/

/-- c.dmode.DET of a thread's wave. -/
def State.det (s : State) (tid : Nat) : Bool := (s.waveOfThread tid).node.ctl.getLsbD 23

/-- A place whose plain stores and atomics deterministic mode buffers: anything but SP. -/
def Loc.buffered (l : Loc) : Bool :=
  match l.space with
  | .sp _ | .gm _ | .easel _ => false
  | _ => true

/-- Lines a group's private store buffer holds. -/
def bufferLines (st : SMap (List DetByte)) : Nat := ((st.map fun p => p.1 / 128).dedup).length

/-- A plain store held in the group's private buffer; none when the line would be the 16,385th (R368). -/
def State.bufferStore (s : State) (tid : Nat) (a : Access) : Option State :=
  let t := s.thread tid
  let g := s.group t.gid
  let put := fun (m : SMap (List DetByte)) (p : Nat × Byte) =>
    m.upd (a.loc.plus p.1).key fun l => ⟨t.idx, p.2, a.va + p.1⟩ :: l.filter fun b => b.thread != t.idx
  let st := (((List.range a.size).zip (leBytes a.size a.value)).foldl put (s.storesNow t.gid))
  if bufferLines st > 16384 then none
  else some ((s.setGroup t.gid { g with stores := st }).fold tid a.va a.value a.size)

/-- An atomic, CAS or TENQ held in the group's atomic buffer, its destination pending; none when it would be the 4,097th
(R366, R367). -/
def State.bufferAtomic (s : State) (tid : Nat) (a : Access) : Option State :=
  let t := s.thread tid
  let g := s.group t.gid
  if g.atoms.length ≥ 4096 then none
  else
    let e : AtomEntry := ⟨a, t.gid % 1024, t.idx, tid, t.order, s.nextAtom, 0, 0, false⟩
    let s := s.setGroup t.gid { g with atoms := g.atoms ++ [e] }
    let t := { t with order := t.order + 1, pend := if a.gd = 0 then t.pend else t.pend.set a.gd (s.nextAtom + 1) }
    let s := s.setThread tid t
    some { s with nextAtom := s.nextAtom + 1 }

/-! ## Issuing an access -/

/-- The request a waiting access stands for at its home, from the state of its unit's L1 line (05 R93). -/
def reqKindOf (op : AccessOp) (st : Moesi) : ReqKind :=
  match op with
  | .load _ => .readShared
  | .store => if st = .s ∨ st = .o then .upgrade else .readExclusive
  | _ => .atomic

/-- Queues a thread's access at a busy home, once (05 R94). A line the L1 holds already keeps its place whatever the hint. -/
def State.enqueueReq (s : State) (tid : Nat) (a : Access) : State :=
  let line := lineOf a.loc.addr
  let h := s.homeLine line
  let st := s.l1St (unitOf tid) line
  let w := waveOf (s.thread tid).gid
  let r := s.newRequest (reqKindOf a.op st) (unitOf tid) (tid + 1) (if st = .i then a.hint else 0)
    ((s.wave w).recMode = 2#2 && s.watchedVa w a.va)
  if h.queue.any (fun q => q.tid == tid + 1) || (h.active.any fun q => q.tid == tid + 1) then s
  else s.setHome line { h with queue := h.queue ++ [r] }

/-- Whether a thread's L1 answers an access by itself (05 R93), under the key slot of its address space (25 R422). -/
def State.l1Hit (s : State) (tid : Nat) (a : Access) : Bool :=
  let st := s.l1St (unitOf tid) (lineOf a.loc.addr)
  s.underKey (s.asidOf tid) (lineOf a.loc.addr) && (match a.op with
    | .load _ => st != .i
    | .store => st == .m || st == .e
    | _ => false)

/-- Whether an access travels: to another tile, to the host, or to another package whose line this package's L2 does not
answer. -/
def State.travels (s : State) (unit : Nat) (a : Access) : Bool :=
  match a.loc.space with
  | .sp t => !(t == unit)
  | .host => true
  | .peer _ => !(a.op matches .load _ && s.peerHeld a.loc)
  | _ => false

/-- Sends a checked access: performed at once where nothing stands in its way; else the thread waits for the response
of another tile, the host, a package, a busy or frozen home, or its order gate. A TENQ for which the home has held the
descriptor's line goes on there (19 R345). -/
def Cx.issue (c : Cx) (a : Access) (s : State) : Out :=
  let unit := unitOf c.tid
  let s := if c.t.holds = 0 then s else c.upd (fun t => { t with holds := 0 }) s
  if s.travels unit a then c.park (.access a) s
  else match a.loc.space with
    | .hbm =>
      if s.isFrozen a.loc then c.park (.redirected a) s
      else if c.t.holds = lineOf a.loc.addr + 1 then .next (s.settleAccess c.tid a)
      else if s.watchedVa (waveOf c.t.gid) a.va then
        if s.blocked unit a.loc || s.gateQueue (waveOf c.t.gid) a.loc then c.park (.access a) (s.enqueueReq c.tid a)
        else match s.admitThread c.tid a.loc with
          | some s => .next (s.settleAccess c.tid { a with hint := 2 })
          | none => c.park (.access a) (s.enqueueReq c.tid a)
      else if !s.l1Hit c.tid a && s.blocked unit a.loc then c.park (.access a) (s.enqueueReq c.tid a)
      else .next (s.settleAccess c.tid a)
    | _ => .next (s.settleAccess c.tid a)

/-- The need of an operation in its leaf (23 R401). -/
def needOf (op : AccessOp) : Need :=
  match op with
  | .load _ => needR
  | .store => needW
  | _ => needRW

/-- Checks an access by R185 and sends it, or buffers it in deterministic mode (21 R366, R368); `place` is filled in
here. -/
def Cx.access (c : Cx) (a : Access) (s : State) : Out :=
  match s.resolve (s.who c.tid) (needOf a.op) a.va a.size with
  | .fault cause => c.trap cause (BitVec.ofNat 64 a.va) s
  | .walk => c.awaitWalk a.va (accOf a.op) s
  | .at l =>
    let a := { a with loc := l }
    if s.det c.tid ∧ l.buffered then
      match a.op with
      | .load _ => c.issue a s
      | .store => match s.bufferStore c.tid a with
        | some s => c.done s
        | none => c.trap causeAccess (BitVec.ofNat 64 a.va) s
      | _ => match s.bufferAtomic c.tid a with
        | some s => c.done s
        | none => c.trap causeAccess (BitVec.ofNat 64 a.va) s
    else c.issue a s

/-- The access record of an instruction, its place still to be found. -/
def Cx.mkAccess (c : Cx) (op : AccessOp) (va size : Nat) (gd : BitVec 6) (value expected : Word) : Access :=
  ⟨op, va, default, size, gd.toNat, value.toNat, expected.toNat, c.next, !c.t.prv, c.t.hint, c.t.ord⟩

end Sys2Proof.Machine
end

