-- ==== Sys2Proof/Machine/Special.lean ====
section
/-! DEFINITION. The special functions: the strip S algorithms with their exact tables (13 R271-R274), which the core's
FRCP, FRSQ, FEXP2 and FLOG2 share (09 R175), and the correctly rounded sine and cosine in turns (09 R176). -/

namespace Sys2Proof.Machine

/-! ## The tables of strip S (13 R271) -/

/-- Bit by bit, the largest 24-bit n (from bit `k - 1` down) with n^64 at most `x`. -/
def root64Bits (x : Nat) : Nat → Nat → Nat
  | 0, r => r
  | n + 1, r => let c := r + 2 ^ n; root64Bits x n (if c ^ 64 ≤ x then c else r)

/-- T[j] = rne32(2^(j/64)), for j below 64: a 26-bit root and a sticky tail. -/
def tableT (j : Nat) : Nat :=
  let x := 2 ^ (j + 64 * 25)
  let r := root64Bits x 27 0
  (roundF fp32 0 false false r (-25) (decide (r ^ 64 ≠ x))).bits

/-- R[j] = rne32(1 / (1 + j/64)). -/
def tableR (j : Nat) : Nat :=
  let (m, e, st) := divMag 64 0 (64 + j) 0
  (roundF fp32 0 false false m e st).bits

/-- The bits of log2 of a fixed-point y in [1, 2) with 240 fraction bits, `n` of them, by repeated squaring. -/
def log2Bits : Nat → Nat → Nat → Nat
  | 0, _, acc => acc
  | n + 1, y, acc =>
    let s := y * y / 2 ^ 240
    if s ≥ 2 ^ 241 then log2Bits n (s / 2) (2 * acc + 1) else log2Bits n s (2 * acc)

/-- L[j] = rne32(-log2(R[j])), R[j] taken as its FP32 value; L[0] = +0. Eighty bits of the logarithm of 1 / R[j], which
is irrational for every j above 0, so the tail is never zero. -/
def tableL (j : Nat) : Nat :=
  if j = 0 then 0
  else match decodeF fp32 (tableR j) with
    | .fin _ m e => (roundF fp32 0 false false (log2Bits 80 (2 ^ (240 - e).toNat / m) 0) (-80) true).bits
    | _ => 0

/-- Q[j] = rne32(1 / sqrt(1 + j/16)), for j below 48. -/
def tableQ (j : Nat) : Nat :=
  let x := 2 ^ 164 / (16 + j)
  let r := isqrt x
  (roundF fp32 0 false false r (-80) (decide (r * r * (16 + j) ≠ 2 ^ 164))).bits

/-! ## Small helpers on FP32 bit patterns -/

/-- FP32 1.0. -/
def one32 : Nat := 0x3F800000
/-- The sign-flipped pattern. -/
def neg32 (x : Nat) : Nat := x ^^^ 0x80000000
/-- A finite non-zero magnitude as m in [1, 2) in FP32 bits and its exponent e (13 R271). -/
def split32 (m : Nat) (e : Int) : Nat × Int :=
  let l := Nat.log2 m
  (rne32 (.fin false m (-(l : Int))), e + l)
/-- FP32 value times 2^k, with its sign: rne32(x * 2^k). -/
def scale32 (x : Nat) (k : Int) (neg : Bool) : FRes :=
  match decodeF fp32 x with
  | .fin n m e => roundF fp32 0 false (n != neg) m (e + k) false
  | v => deliver fp32 0 false v
/-- floor((m - 1) * 2^b) for m in [1, 4) given in FP32 bits. -/
def tableIndex (m b : Nat) : Nat :=
  match decodeF fp32 m with
  | .fin _ n e => (n * 2 ^ (b + 40) / 2 ^ (40 - e).toNat) - 2 ^ b
  | _ => 0

/-! ## The algorithms of 13 R274, on a finite non-zero input; the FP32 result -/

/-- VEXP2. -/
def exp2Core (neg : Bool) (m : Nat) (e : Int) : Nat :=
  let lim := fun (k : Nat) => cmpV (.fin false m e) (.fin false k 0)
  if !neg && lim 128 != .lt then 0x7F800000
  else if neg && lim 150 == .gt then 0
  else
    let n := (roundToInt 0 neg m (e + 6)).1
    let r := (addV 0 (.fin neg m e) (.fin (0 < n) n.natAbs (-6))).1
    let r32 := rne32 r
    let j := (n % 64).toNat
    let k := (n - j) / 64
    let q := fmul32 r32 (fma32 (fma32 0x3D635847 r32 0x3E75FDF0) r32 0x3F317218)
    (scale32 (fma32 (tableT j) q (tableT j)) k false).bits

/-- VLOG2, of a positive input. -/
def log2Core (m : Nat) (e : Int) : Nat :=
  let (m32, x) := split32 m e
  let j := tableIndex m32 6
  let r := fma32 m32 (tableR j) (neg32 one32)
  let q := fmul32 r (fma32 (fma32 0x3EF6384A r 0xBF38AA3B) r 0x3FB8AA3B)
  fadd32 (fadd32 (rne32 (.fin (x < 0) x.natAbs 0)) (tableL j)) q

/-- One Newton step of VRCP. -/
def rcpStep (m y : Nat) : Nat := fma32 y (fma32 (neg32 m) y one32) y

/-- VRCP. -/
def rcpCore (neg : Bool) (m : Nat) (e : Int) : Nat :=
  let (m32, x) := split32 m e
  let y := tableR (tableIndex m32 6)
  (scale32 (rcpStep m32 (rcpStep m32 y)) (-x) neg).bits

/-- One step of VRSQ. -/
def rsqStep (m y : Nat) : Nat :=
  let h := fmul32 m y
  let eps := fma32 (neg32 h) y one32
  fma32 (fmul32 y 0x3F000000) eps y

/-- VRSQ, of a positive input. -/
def rsqCore (m : Nat) (e : Int) : Nat :=
  let (m32, x) := split32 m e
  let (m32, x) := if x % 2 = 1 then ((scale32 m32 1 false).bits, x - 1) else (m32, x)
  let y := tableQ (tableIndex m32 4)
  (scale32 (rsqStep m32 (rsqStep m32 (rsqStep m32 y))) (-(x / 2)) false).bits

/-- The four functions of 09 R175. -/
inductive SpecialFn where
  | exp2 | log2 | rcp | rsq
deriving DecidableEq, Repr

/-- The FP32 result of a special function on a value, with the special inputs of 09 Table 9.5 and their flags. -/
def special32 (fn : SpecialFn) (v : FVal) : FRes :=
  match fn, v with
  | _, .nan s => ⟨fp32.canonNan, flagIf s flNV⟩
  | .rcp, .inf n => ⟨fp32.signBit n, 0⟩
  | .rsq, .inf n => if n then ⟨fp32.canonNan, flNV⟩ else ⟨0, 0⟩
  | .exp2, .inf n => if n then ⟨0, 0⟩ else ⟨fp32.infBits, 0⟩
  | .log2, .inf n => if n then ⟨fp32.canonNan, flNV⟩ else ⟨fp32.infBits, 0⟩
  | .rcp, .fin n m e => if m = 0 then ⟨fp32.signBit n + fp32.infBits, flDZ⟩ else ⟨rcpCore n m e, 0⟩
  | .rsq, .fin n m e =>
    if m = 0 then ⟨fp32.signBit n + fp32.infBits, flDZ⟩
    else if n then ⟨fp32.canonNan, flNV⟩ else ⟨rsqCore m e, 0⟩
  | .exp2, .fin n m e => if m = 0 then ⟨one32, 0⟩ else ⟨exp2Core n m e, 0⟩
  | .log2, .fin n m e =>
    if m = 0 then ⟨fp32.signBit true + fp32.infBits, flDZ⟩
    else if n then ⟨fp32.canonNan, flNV⟩ else ⟨log2Core m e, 0⟩

/-- Whether a delivered finite value equals the exact mathematical result (09 R177): 1/a when a is a power of two,
1/sqrt(a) when a is an even power of two, 2^a when a is an integer (no value of a format is a power of two beyond
2^1024), log2 a when a is a power of two. -/
def specialExact (fn : SpecialFn) (neg : Bool) (m : Nat) (e : Int) (r : FVal) : Bool :=
  let pow2 := m == 2 ^ Nat.log2 m
  let x := (Nat.log2 m : Int) + e
  match fn with
  | .rcp => pow2 && cmpV r (.fin neg 1 (-x)) == .eq
  | .rsq => pow2 && x % 2 == 0 && cmpV r (.fin false 1 (-(x / 2))) == .eq
  | .exp2 =>
    let i := roundToInt 1 neg m e
    !i.2 && decide (i.1.natAbs ≤ 1024) && cmpV r (.fin false 1 i.1) == .eq
  | .log2 => pow2 && cmpV r (.fin (x < 0) x.natAbs 0) == .eq

/-- FRCP, FRSQ, FEXP2 and FLOG2 in a format (09 R175, R177): operand widened, the FP32 algorithm, the result rounded RNE
to the format; flags by R177, tininess judged on the delivered magnitude. -/
def specialF (fn : SpecialFn) (f : FloatFmt) (ftz : Bool) (a : Nat) : FRes :=
  let v := readF f ftz a
  let r32 := special32 fn v
  let narrow := deliver f 0 ftz (decodeF fp32 r32.bits)
  match v with
  | .fin neg m e =>
    if m = 0 ∨ r32.fl ≠ 0 then ⟨narrow.bits, r32.fl⟩
    else
      let out := decodeF f narrow.bits
      match out with
      | .nan _ => ⟨narrow.bits, narrow.fl⟩
      | .inf _ => ⟨narrow.bits, flOF ||| flNX⟩
      | .fin _ om oe =>
        let exact := specialExact fn neg m e out
        let tiny := om == 0 || (Nat.log2 om : Int) + oe < 1 - (f.bias : Int)
        ⟨narrow.bits, flagIf (!exact) flNX ||| flagIf (!exact && tiny) flUF ||| (narrow.fl &&& flUF)⟩
  | _ => ⟨narrow.bits, r32.fl⟩

/-- The strip forms (13 R274): the result narrowed to FMTO by RNE, no flags. -/
def specialStrip (fn : SpecialFn) (f : FloatFmt) (a : Nat) : Nat :=
  (deliver f 0 false (decodeF fp32 (special32 fn (decodeF f a)).bits)).bits

/-! ## Sine and cosine in turns (09 R176) -/

/-- The arctangent series of 1/k at `p` fraction bits: the sum of the terms from the n-th on. -/
def atanInv (k : Nat) : Nat → Nat → Nat → Int
  | 0, _, _ => 0
  | fuel + 1, term, n =>
    let t : Int := (term / (2 * n + 1) : Nat)
    (if n % 2 = 0 then t else -t) + atanInv k fuel (term / (k * k)) (n + 1)

/-- Pi with `p` fraction bits, by Machin's formula. -/
def piFixed (p : Nat) : Nat :=
  let g := p + 16
  (16 * atanInv 5 (g / 4 + 8) (2 ^ g / 5) 0 - 4 * atanInv 239 (g / 15 + 8) (2 ^ g / 239) 0).toNat / 2 ^ 16

/-- The alternating series sum of x^(n) / n! from a starting term, at `p` fraction bits: sine from (x, 1), cosine from
(1, 0). -/
def trigSeries (p x2 : Nat) : Nat → Nat → Nat → Bool → Int
  | 0, _, _, _ => 0
  | fuel + 1, term, n, neg =>
    (if neg then -(term : Int) else term) + trigSeries p x2 fuel (term * x2 / 2 ^ p / ((n + 1) * (n + 2))) (n + 2) (!neg)

/-- sin (or cos) of 2 pi t with `p` fraction bits, for t = a / 2^k in (0, 1/4); the error is below 2^12 units. -/
def trigFixed (cos : Bool) (a k p : Nat) : Nat :=
  let x := 2 * piFixed (p + 8) * a / 2 ^ (k + 8)
  let x2 := x * x / 2 ^ p
  (if cos then trigSeries p x2 (p / 4 + 8) (2 ^ p) 0 false else trigSeries p x2 (p / 4 + 8) x 1 false).toNat

/-- Rounds the irrational sin or cos to a format: both ends of the error interval are rounded, at precisions growing by
64 bits until they agree. -/
def trigRound (f : FloatFmt) (mode : Nat) (ftz neg cos : Bool) (a k : Nat) : Nat → Nat → FRes
  | 0, p => roundF f mode ftz neg (trigFixed cos a k p) (-(p : Int)) true
  | fuel + 1, p =>
    let v := trigFixed cos a k p
    let lo := roundF f mode ftz neg (v - 2 ^ 12) (-(p : Int)) true
    let hi := roundF f mode ftz neg (v + 2 ^ 12) (-(p : Int)) true
    if lo = hi then lo else trigRound f mode ftz neg cos a k fuel (p + 64)

/-- FSIN or FCOS (09 R176, Table 9.5). The argument is reduced exactly to a fraction n / 2^k of a turn, then to the
first quarter; quarter turns are exact. -/
def trigF (f : FloatFmt) (mode : Nat) (ftz cos : Bool) (a : Nat) : FRes :=
  match readF f ftz a with
  | .nan s => ⟨f.canonNan, flagIf s flNV⟩
  | .inf _ => ⟨f.canonNan, flNV⟩
  | .fin neg m e =>
    let one := f.bias * 2 ^ f.fbits
    if m = 0 then (if cos then ⟨one, 0⟩ else ⟨f.signBit neg, 0⟩)
    else
      let k := (max 0 (-e)).toNat + 2
      let n := m * 2 ^ (e + k).toNat % 2 ^ k
      let quarter := n / 2 ^ (k - 2)
      let r := n % 2 ^ (k - 2)
      if r = 0 then
        -- an exact quarter turn of |a|
        match cos, quarter with
        | false, 0 => ⟨f.signBit neg, 0⟩
        | false, 1 => ⟨f.signBit neg + one, 0⟩
        | false, 2 => ⟨f.signBit (!neg), 0⟩
        | false, _ => ⟨f.signBit (!neg) + one, 0⟩
        | true, 0 => ⟨one, 0⟩
        | true, 1 => ⟨0, 0⟩
        | true, 2 => ⟨f.signBit true + one, 0⟩
        | true, _ => ⟨0, 0⟩
      else
        -- sine in the first half turn is positive; cosine in the first and last quarters
        let useCos := cos != (quarter % 2 == 1)
        let sign := if cos then quarter == 1 || quarter == 2 else (decide (quarter ≥ 2)) != neg
        trigRound f mode ftz sign useCos r k 8 (k + 100)

end Sys2Proof.Machine
end

