-- ==== Sys2Proof/Machine/Flags.lean ====
section
/-! DEFINITION. Conditions and flags: the integer conditions of 07 Table 7.9, saturating integer results (09 R164), and
the writing of a float result with the flags it raises (03 R57, 09 R160, R170). -/

namespace Sys2Proof.Machine

/-- A condition of Table 7.9 on two integers of `n` bits, CMP column. -/
def condInt (n c a b : Nat) : Bool :=
  match c with
  | 0 => a == b
  | 1 => a != b
  | 2 => decide (sextNat n a < sextNat n b)
  | 3 => decide (sextNat n b ≤ sextNat n a)
  | 4 => decide (a < b)
  | 5 => decide (b ≤ a)
  | 6 => a &&& b != 0
  | _ => a &&& b == 0

/-- An exact integer result under the saturation kind in force: signed and unsigned give the exact result of the operands
read each way; none wraps (R164). -/
def satResult (kind : Nat) (signed unsigned : Int) : Word :=
  BitVec.ofNat 64 (satInt kind 64 (if kind = 2 then unsigned else signed))

/-- Writes a float result to the low bits of gd, saturated by the prefix's kind, and raises its flags (R160, R170). -/
def Cx.writeFloat (c : Cx) (f : FloatFmt) (d : BitVec 6) (r : FRes) (s : State) : Out :=
  c.done (c.upd (fun t => (t.wr d (BitVec.ofNat 64 (satF f c.t.satKind r.bits))).raise r.fl) s)

end Sys2Proof.Machine
end

