-- ==== Sys2Proof/Machine/MemoryOps.lean ====
section
/-! DEFINITION. Loads, stores, prefetch, fences, atomics, CAS and monitors (09 R184-R195). -/

namespace Sys2Proof.Machine

/-- Prefixes a plain load accepts: acquire, any HINT (07 Table 7.6). -/
def acceptLoad : Accept := ⟨false, false, false, false, true, true, false⟩
/-- Prefixes a plain store accepts: release, any HINT. -/
def acceptStore : Accept := ⟨false, false, false, false, true, false, true⟩
/-- Prefixes LD.acq, ST.rel, ATOM, CAS and PREF accept: any HINT. -/
def acceptHint : Accept := ⟨false, false, false, false, true, false, false⟩

/-- A release form waits until the PEER invalidations of the thread's own earlier stores are performed (05 R103, R104). -/
def Cx.release (c : Cx) (rel : Bool) (k : State → Out) (s : State) : Out :=
  if rel ∧ s.owes c.tid then c.park .fence s else k s

/-- A load form: `size` bytes at an address into gd. -/
def loadForm (i : Instr) (g : Option Guard) (rs : List (BitVec 6)) (d : BitVec 6) (size : Nat) (sx : Bool) (acc : Accept)
    (va : Thread → Word) : State → Out :=
  coreInstr i { guard := g, reads := rs, writes := [d], accept := acc } fun c s =>
    c.access (c.mkAccess (.load sx) (va c.t).toNat size d 0 0) s

/-- A store form: the low bytes of gd to an address; `rel` for ST.rel. -/
def storeForm (i : Instr) (g : Option Guard) (rs : List (BitVec 6)) (d : BitVec 6) (size : Nat) (rel : Bool) (acc : Accept)
    (va : Thread → Word) : State → Out :=
  coreInstr i { guard := g, reads := d :: rs, accept := acc } fun c s =>
    c.release (rel || c.t.ord == 2) (fun s => c.access (c.mkAccess .store (va c.t).toNat size 0 (c.t.rd d) 0) s) s

/-- The indexed address: ga + gb * size (R184). -/
def addrIndexed (sz : BitVec 2) (a b : BitVec 6) (t : Thread) : Word := t.rd a + (t.rd b <<< sz.toNat)
/-- The short offset address. -/
def addrShort (a : BitVec 6) (imm : BitVec 12) (t : Thread) : Word := t.rd a + imm.signExtend 64
/-- The 32-bit offset address. -/
def addrOffset (a : BitVec 6) (imm : BitVec 32) (t : Thread) : Word := t.rd a + imm.signExtend 64
/-- Bytes of a size code. -/
def sizeOf2 (sz : BitVec 2) : Nat := 2 ^ sz.toNat

/-- LD indexed (Table 9.9). -/
def execLdIndexed (g : Guard) (sz : BitVec 2) (d a b : BitVec 6) : State → Out :=
  loadForm (.ldIndexed g sz d a b) (some g) [a, b] d (sizeOf2 sz) false acceptLoad (addrIndexed sz a b)
/-- LD.sx indexed. -/
def execLdSxIndexed (g : Guard) (sz : BitVec 2) (d a b : BitVec 6) : State → Out :=
  loadForm (.ldSxIndexed g sz d a b) (some g) [a, b] d (sizeOf2 sz) true acceptLoad (addrIndexed sz a b)
/-- ST indexed. -/
def execStIndexed (g : Guard) (sz : BitVec 2) (d a b : BitVec 6) : State → Out :=
  storeForm (.stIndexed g sz d a b) (some g) [a, b] d (sizeOf2 sz) false acceptStore (addrIndexed sz a b)
/-- LD.acq indexed. -/
def execLdAcqIndexed (g : Guard) (sz : BitVec 2) (d a b : BitVec 6) : State → Out :=
  loadForm (.ldAcqIndexed g sz d a b) (some g) [a, b] d (sizeOf2 sz) false acceptHint (addrIndexed sz a b)
/-- ST.rel indexed. -/
def execStRelIndexed (g : Guard) (sz : BitVec 2) (d a b : BitVec 6) : State → Out :=
  storeForm (.stRelIndexed g sz d a b) (some g) [a, b] d (sizeOf2 sz) true acceptHint (addrIndexed sz a b)

/-- LD.b, format B. -/
def execLdBShort (d a : BitVec 6) (imm : BitVec 12) : State → Out :=
  loadForm (.ldBShort d a imm) none [a] d 1 false acceptLoad (addrShort a imm)
/-- LD.h, format B. -/
def execLdHShort (d a : BitVec 6) (imm : BitVec 12) : State → Out :=
  loadForm (.ldHShort d a imm) none [a] d 2 false acceptLoad (addrShort a imm)
/-- LD.w, format B. -/
def execLdWShort (d a : BitVec 6) (imm : BitVec 12) : State → Out :=
  loadForm (.ldWShort d a imm) none [a] d 4 false acceptLoad (addrShort a imm)
/-- LD.d, format B. -/
def execLdDShort (d a : BitVec 6) (imm : BitVec 12) : State → Out :=
  loadForm (.ldDShort d a imm) none [a] d 8 false acceptLoad (addrShort a imm)
/-- LD.sx.b, format B. -/
def execLdSxBShort (d a : BitVec 6) (imm : BitVec 12) : State → Out :=
  loadForm (.ldSxBShort d a imm) none [a] d 1 true acceptLoad (addrShort a imm)
/-- LD.sx.h, format B. -/
def execLdSxHShort (d a : BitVec 6) (imm : BitVec 12) : State → Out :=
  loadForm (.ldSxHShort d a imm) none [a] d 2 true acceptLoad (addrShort a imm)
/-- LD.sx.w, format B. -/
def execLdSxWShort (d a : BitVec 6) (imm : BitVec 12) : State → Out :=
  loadForm (.ldSxWShort d a imm) none [a] d 4 true acceptLoad (addrShort a imm)
/-- ST.b, format B. -/
def execStBShort (d a : BitVec 6) (imm : BitVec 12) : State → Out :=
  storeForm (.stBShort d a imm) none [a] d 1 false acceptStore (addrShort a imm)
/-- ST.h, format B. -/
def execStHShort (d a : BitVec 6) (imm : BitVec 12) : State → Out :=
  storeForm (.stHShort d a imm) none [a] d 2 false acceptStore (addrShort a imm)
/-- ST.w, format B. -/
def execStWShort (d a : BitVec 6) (imm : BitVec 12) : State → Out :=
  storeForm (.stWShort d a imm) none [a] d 4 false acceptStore (addrShort a imm)
/-- ST.d, format B. -/
def execStDShort (d a : BitVec 6) (imm : BitVec 12) : State → Out :=
  storeForm (.stDShort d a imm) none [a] d 8 false acceptStore (addrShort a imm)

/-- LD, format W. -/
def execLdOffset32 (g : Guard) (sz : BitVec 2) (d a : BitVec 6) (imm : BitVec 32) : State → Out :=
  loadForm (.ldOffset32 g sz d a imm) (some g) [a] d (sizeOf2 sz) false acceptLoad (addrOffset a imm)
/-- LD.sx, format W. -/
def execLdSxOffset32 (g : Guard) (sz : BitVec 2) (d a : BitVec 6) (imm : BitVec 32) : State → Out :=
  loadForm (.ldSxOffset32 g sz d a imm) (some g) [a] d (sizeOf2 sz) true acceptLoad (addrOffset a imm)
/-- ST, format W. -/
def execStOffset32 (g : Guard) (sz : BitVec 2) (d a : BitVec 6) (imm : BitVec 32) : State → Out :=
  storeForm (.stOffset32 g sz d a imm) (some g) [a] d (sizeOf2 sz) false acceptStore (addrOffset a imm)
/-- LD.acq, format W. -/
def execLdAcqOffset32 (g : Guard) (sz : BitVec 2) (d a : BitVec 6) (imm : BitVec 32) : State → Out :=
  loadForm (.ldAcqOffset32 g sz d a imm) (some g) [a] d (sizeOf2 sz) false acceptHint (addrOffset a imm)
/-- ST.rel, format W. -/
def execStRelOffset32 (g : Guard) (sz : BitVec 2) (d a : BitVec 6) (imm : BitVec 32) : State → Out :=
  storeForm (.stRelOffset32 g sz d a imm) (some g) [a] d (sizeOf2 sz) true acceptHint (addrOffset a imm)

/-! ## Atomics (R189-R192) -/

/-- The address of an atomic: ga + sext(disp, 16). -/
def addrAtomic (a : BitVec 6) (disp : BitVec 16) (t : Thread) : Word := t.rd a + disp.signExtend 64

/-- ATOM: .rel and .ar (codes 2 and 3) are releases. -/
def execAtom (g : Guard) (ord : BitVec 2) (d a b : BitVec 6) (disp : BitVec 16) (dbl : Bool) (op : BitVec 4) :
    State → Out :=
  coreInstr (.atom g ord d a b disp dbl op)
    { guard := some g, reads := [a, b], writes := [d], accept := acceptHint } fun c s =>
    c.release (ord.getLsbD 1) (fun s =>
      c.access { c.mkAccess (.atom op.toNat) (addrAtomic a disp c.t).toNat (if dbl then 8 else 4) d (c.t.rd b) 0 with
        ord := ord.toNat } s) s

/-- CAS: the expected value is gd's. -/
def execCas (g : Guard) (ord : BitVec 2) (d a b : BitVec 6) (disp : BitVec 16) (dbl : Bool) : State → Out :=
  coreInstr (.cas g ord d a b disp dbl)
    { guard := some g, reads := [a, b, d], writes := [d], accept := acceptHint } fun c s =>
    c.release (ord.getLsbD 1) (fun s =>
      c.access { c.mkAccess .cas (addrAtomic a disp c.t).toNat (if dbl then 8 else 4) d (c.t.rd b) (c.t.rd d) with
        ord := ord.toNat } s) s

/-! ## Plain reads of several bytes -/

/-- How a read of several bytes by an instruction ends: the bytes, the first failing address with its cause, a translation
to be walked, or held on the way to a place. -/
inductive Plain where
  | ok (s : State) (bs : List Byte)
  | fault (cause va : Nat)
  | walk (va : Nat)
  | held (l : Loc) (va : Nat)

/-- Reads `n` bytes as plain loads of a thread, checked by R185 in ascending address (17 R326, 19 R347, 11 R230, R237).
`fresh`: the line of the first byte is still to be admitted (21 R373). -/
def State.readPlain (s : State) (tid va : Nat) (fresh : Bool) : Nat → Plain
  | 0 => .ok s []
  | n + 1 =>
    let who := s.who tid
    match s.resolve who needR va 1 with
    | .fault c => .fault c va
    | .walk => .walk va
    | .at l =>
      if s.poisoned l then .fault causePoison va
      else if s.readHeld who l then .held l va
      else match (if fresh || va % 128 == 0 then s.admitPlain who (slotOf tid) va l else some (s, 2)) with
        | none => .held l va
        | some (s, hint) =>
          let s := s.prepareRead who l hint
          match s.readPlain tid (va + 1) false n with
          | .ok r bs => .ok r (BitVec.ofNat 8 (s.seen tid l 1) :: bs)
          | r => r

/-- Reads bytes for the current instruction and goes on with them; a fault is raised with the failing address. -/
def Cx.readThen (c : Cx) (va n : Nat) (k : List Byte → State → Out) (s : State) : Out :=
  match s.readPlain c.tid va true n with
  | .ok s bs => k bs s
  | .fault cause v => c.trap cause (BitVec.ofNat 64 v) s
  | .walk v => c.awaitWalk v 0 s
  | .held l v => c.park (.line l v false) s

/-! ## Prefetch, fences, monitors -/

/-- A prefetch asks the home for the line, in S or E, or for ownership, or the L2 for it alone; it waits for nothing (R187). A
.write whose HINT keeps the line out of the L1 cannot hold it in E or M: it asks for a read-shared that brings it to the L2
(R187 names both, and not what they make together; DESIGN CHOICE, log entry 92). -/
def State.prefetch (s : State) (unit : Nat) (write : Bool) (hint : Nat) (l : Loc) : State :=
  match l.space with
  | .hbm =>
    let line := lineOf l.addr
    let st := s.l1St unit line
    let h := s.homeLine line
    let have_ := (if write then st == .m || st == .e else st != .i) || decide (hint = 2) || (decide (hint = 1) && h.held)
    let kind : ReqKind := if write && decide (hint = 0) then reqKindOf .store st else .readShared
    if have_ || s.isFrozen l then s
    else s.setHome line { h with queue := h.queue ++ [s.newRequest kind unit 0 hint false] }
  | .peer p => if write || decide (hint = 2) || s.peerHeld l || !s.domain.contains p then s else s.takePeer l
  | _ => s

/-- A prefetch whose address is translated is made; one that would fault at any step of R185 does nothing: a .write is checked
for W, and a poisoned line stops either kind (R187 names neither; DESIGN CHOICE, log entry 92). A watched line is cached
nowhere (21 R373). -/
def State.prefetchAt (s : State) (asid : Nat) (p : Prefetch) : State :=
  match s.resolve ⟨p.unit, asid, p.gid, p.sup, .other⟩ (if p.write then needW else needR) p.va 1 with
  | .at l => if s.poisoned l || s.watchedVa (waveOf p.gid) p.va then s else s.prefetch p.unit p.write p.hint l
  | _ => s

/-- PREF: no access; one that would fault does nothing. One whose translation is not held goes on from its walk. -/
def execPref (k : BitVec 2) (a : BitVec 6) (imm : BitVec 12) : State → Out :=
  coreInstr (.pref k a imm) { reads := [a], accept := acceptHint } fun c s =>
    let va := (addrShort a imm c.t).toNat
    let p : Prefetch := ⟨unitOf c.tid, c.t.gid, c.t.prv, k == 1, c.t.hint, va⟩
    match s.resolve (s.who c.tid) (if k = 1 then needW else needR) va 1 with
    | .walk => c.done (s.askWalkFor (dieOf (unitOf c.tid)) (s.asidOf c.tid) va [p])
    | _ => c.done (s.prefetchAt (s.asidOf c.tid) p)

/-- A fence whose earlier accesses are performed completes at once; in this model only the PEER invalidations of earlier
stores can still be under way (05 R103, R104; 09 R188). -/
def fenceForm (i : Instr) (g : Guard) (stores : Bool) : State → Out :=
  coreInstr i { guard := some g } fun c s => c.release stores (fun s => c.done s) s

/-- FENCE.full. -/
def execFenceFull (g : Guard) : State → Out := fenceForm (.fenceFull g) g true
/-- FENCE.acq: orders earlier loads only. -/
def execFenceAcq (g : Guard) : State → Out := fenceForm (.fenceAcq g) g false
/-- FENCE.rel. -/
def execFenceRel (g : Guard) : State → Out := fenceForm (.fenceRel g) g true

/-- Whether every command a thread pushed on any port has completed (R207). -/
def Thread.portsDone (t : Thread) : Bool := t.ports.all fun p => p.2.all (·.done)

/-- FENCE.port. -/
def execFencePort (g : Guard) : State → Out :=
  coreInstr (.fencePort g) { guard := some g, noHandler := true } fun c s =>
    if c.t.portsDone then c.done s else c.park .fencePort s

/-- MON: arms the monitor on the 128-byte block holding the address, keeping its bytes as a plain load reads them (R193). On
HOST memory ACCESS_FAULT comes before POISON (the manual gives no order; DESIGN CHOICE, log entry 81). -/
def execMon (g : Guard) (a : BitVec 6) : State → Out :=
  coreInstr (.mon g a) { guard := some g, reads := [a] } fun c s =>
    let va := (c.t.rd a).toNat
    let who := s.who c.tid
    match s.resolve who needR va 1 with
    | .fault cause => c.trap cause (BitVec.ofNat 64 va) s
    | .walk => c.awaitWalk va 0 s
    | .at l =>
      let b : Loc := { l with addr := l.addr - va % 128 }
      if l.space = .host then c.trap causeAccess (BitVec.ofNat 64 va) s
      else if s.poisoned l then c.trap causePoison (BitVec.ofNat 64 va) s
      else if s.readHeld who b then c.park (.line b va false) s
      else match s.admitPlain who (slotOf c.tid) va b with
        | none => c.park (.line b va false) s
        | some (s, hint) =>
          let s := s.prepareRead who b hint
          c.done (c.upd (fun t => { t with mon := ⟨true, false, b, va / 128 * 128, s.seenBytes c.tid b 128⟩ }) s)

/-- MWAIT: completes when the monitor is triggered or not armed, and disarms it (R194). -/
def execMwait (g : Guard) : State → Out :=
  coreInstr (.mwait g) { guard := some g } fun c s =>
    if c.t.mon.armed ∧ !c.t.mon.triggered then c.park .mwait s
    else c.done (c.upd (fun t => { t with mon := default }) s)

end Sys2Proof.Machine
end

