-- ==== Sys2Proof/Machine/Assist.lean ====
section
/-! DEFINITION. The texture and ray assists and rasterisation of the proof cores (11 R230-R244, 03 R78-R80): TEX, TEXG,
TEXQ, RAYBOX, RAYTRI, RAST and BARY. All arithmetic before a named rounding is exact. -/

namespace Sys2Proof.Machine

/-! ## Reading records -/

/-- The assist has taken the current instruction: it completes before a save (R237, R241). `named` is what its wait's fault is
reported with (`Thread.named`). -/
def Cx.issuedAt (c : Cx) (named : Nat) (s : State) : State := c.upd (fun t => { t with issued := true, named := named }) s

/-- Reads a record of `n` bytes at a multiple of `align` for the current instruction, checked by R185 in its order; every
fault carries the record's address (R230, R241). -/
def Cx.readRecord (c : Cx) (va align n : Nat) (k : List Byte → State → Out) (s : State) : Out :=
  let val := BitVec.ofNat 64 va
  if va ≥ 2 ^ Config.vaBits then c.trap causeAccess val s
  else if va % align ≠ 0 then c.trap causeMisaligned val s
  else match s.readPlain c.tid va true n with
  | .ok s bs => k bs s
  | .fault cause _ => c.trap cause val s
  | .walk v => c.awaitWalk v 0 (c.issuedAt (va + 1) s)
  | .held l v => c.park (.line l v false) (c.issuedAt (va + 1) s)

/-- The 32-bit word i of a record. -/
def word32 (bs : List Byte) (i : Nat) : Nat := leNat ((bs.drop (4 * i)).take 4)

/-! ## Texture descriptors (R230, R231) -/

/-- A texture descriptor's fields. -/
structure Texture where
  base : Nat
  w : Nat
  h : Nat
  lvm1 : Nat
  cfmt : Nat
  /-- channels: 1, 2 or 4 -/
  nch : Nat
  filt : Nat
  mip : Nat
  addrS : Nat
  addrT : Nat
deriving DecidableEq, Repr

/-- The descriptor in a 128-bit number; none where it holds a refused value or a set reserved bit. -/
def textureOf (n : Nat) : Option Texture :=
  if bitsOf n 113 15 ≠ 0 ∨ bitsOf n 107 2 = 3 ∨ bitsOf n 105 2 ≥ 2 ∨ bitsOf n 103 2 = 3 ∨ bitsOf n 100 3 ≥ 5
      ∨ bitsOf n 57 7 ≠ 0 ∨ bitsOf n 0 7 ≠ 0 then none
  else some ⟨bitsOf n 0 57, bitsOf n 64 16 + 1, bitsOf n 80 16 + 1, bitsOf n 96 4, bitsOf n 100 3, 2 ^ bitsOf n 103 2,
             bitsOf n 105 2, bitsOf n 107 2, bitsOf n 109 2, bitsOf n 111 2⟩

/-- Width of level k. -/
def Texture.wk (t : Texture) (k : Nat) : Nat := max 1 (t.w / 2 ^ k)
/-- Height of level k. -/
def Texture.hk (t : Texture) (k : Nat) : Nat := max 1 (t.h / 2 ^ k)
/-- Bytes of a channel. -/
def Texture.cb (t : Texture) : Nat := match t.cfmt with | 0 => 4 | 3 => 1 | _ => 2
/-- Bytes of a texel. -/
def Texture.tb (t : Texture) : Nat := t.nch * t.cb
/-- Offset of level k. -/
def Texture.offset (t : Texture) : Nat → Nat
  | 0 => 0
  | k + 1 => (t.offset k + t.tb * t.wk k * t.hk k + 127) / 128 * 128
/-- Address of texel (x, y) of level k. -/
def Texture.texel (t : Texture) (k x y : Nat) : Nat := t.base + t.offset k + (y * t.wk k + x) * t.tb

/-- rne32(a / b) for naturals. -/
def ratio32 (a b : Nat) : Nat :=
  if a = 0 then 0 else let (m, e, st) := divMag a 0 b 0; (roundF fp32 0 false false m e st).bits

/-- A stored channel as FP32 bits. -/
def Texture.decode (t : Texture) (x : Nat) : Nat :=
  match t.cfmt with
  | 0 => x
  | 1 => widen32 fp16 x
  | 2 => widen32 bf16 x
  | 3 => ratio32 x 255
  | _ => ratio32 x 65535

/-- The channels of a texel's bytes. -/
def Texture.channels (t : Texture) (bs : List Byte) : List Nat :=
  (List.range t.nch).map fun i => t.decode (leNat ((bs.drop (i * t.cb)).take t.cb))

/-- The value of a channel the texture lacks. -/
def missingChannel (ch : Nat) : Nat := if ch = 3 then one32 else 0

/-! ## Addressing (R232, R78, R79) -/

/-- A texel index on an axis of extent n under an addressing mode; none for a border texel. -/
def texIndex (mode n : Nat) (i : Int) : Option Nat :=
  match mode with
  | 0 => some (i % n).toNat
  | 1 => some (min (max i 0) ((n : Int) - 1)).toNat
  | 2 => let m := (i % (2 * n : Nat)).toNat; some (if m < n then m else 2 * n - 1 - m)
  | _ => if 0 ≤ i ∧ i < n then some i.toNat else none

/-- An exact value rounded RNE to a signed 32-bit number; NaN gives 0. -/
def toFixed32 (v : FVal) : Int :=
  let clamp := fun (i : Int) => max (-(2 ^ 31 : Nat) : Int) (min i ((2 ^ 31 : Nat) - 1))
  match v with
  | .nan _ => 0
  | .inf neg => clamp (if neg then -(2 ^ 31 : Nat) else (2 ^ 31 : Nat))
  | .fin neg m e => clamp (roundToInt 0 neg m e).1

/-- A coordinate in 24.8 on a level's axis (R78). -/
def texCoord (s size : Nat) : Int :=
  toFixed32 (match decodeF fp32 s with
    | .fin neg m e => .fin neg (m * size * 256) e
    | v => v)

/-- A texel of a footprint: its column and row (none on the border), and its weight in 65536ths. -/
structure Tap where
  at_ : Option (Nat × Nat)
  weight : Nat
deriving DecidableEq, Repr

/-- The place of a texel by its indices. -/
def Texture.tapAt (t : Texture) (k : Nat) (ix iy : Int) : Option (Nat × Nat) :=
  match texIndex t.addrS (t.wk k) ix, texIndex t.addrT (t.hk k) iy with
  | some x, some y => some (x, y)
  | _, _ => none

/-- The bilinear footprint of level k, row-major (R79). -/
def Texture.bilinear (t : Texture) (k s v : Nat) : List Tap :=
  let tx := texCoord s (t.wk k) - 128
  let ty := texCoord v (t.hk k) - 128
  let fx := (tx % 256).toNat
  let fy := (ty % 256).toNat
  [(0, 0), (0, 1), (1, 0), (1, 1)].map fun (p : Nat × Nat) =>
    ⟨t.tapAt k (tx / 256 + p.2) (ty / 256 + p.1), (if p.1 = 0 then 256 - fy else fy) * (if p.2 = 0 then 256 - fx else fx)⟩

/-- The nearest texel of level k (R78). -/
def Texture.nearest (t : Texture) (k s v : Nat) : List Tap :=
  [⟨t.tapAt k (texCoord s (t.wk k) / 256) (texCoord v (t.hk k) / 256), 65536⟩]

/-- How reading texels ends. -/
inductive Texels where
  | ok (s : State) (vals : List (List Nat))
  | fault (cause va : Nat)
  | walk (va : Nat)
  | held (l : Loc) (va : Nat)

/-- Reads the texels of a footprint of level k in order: border texels read +0, texels of weight 0 are not read unless
`all` (R237). -/
def State.readTexels (tid : Nat) (t : Texture) (k : Nat) (all : Bool) : List Tap → State → Texels
  | [], s => .ok s []
  | p :: ps, s =>
    match (if p.weight = 0 ∧ !all then none else p.at_) with
    | none => match State.readTexels tid t k all ps s with
      | .ok s vs => .ok s (List.replicate t.nch 0 :: vs)
      | r => r
    | some (x, y) => match s.readPlain tid (t.texel k x y) true t.tb with
      | .fault cause va => .fault cause va
      | .walk va => .walk va
      | .held l va => .held l va
      | .ok s bs => match State.readTexels tid t k all ps s with
        | .ok s vs => .ok s (t.channels bs :: vs)
        | r => r

/-- Reads texels for the current instruction and goes on with them. -/
def Cx.texelsThen (c : Cx) (t : Texture) (k : Nat) (all : Bool) (taps : List Tap) (go : List (List Nat) → State → Out)
    (s : State) : Out :=
  match State.readTexels c.tid t k all taps s with
  | .ok s vs => go vs s
  | .fault cause va => c.trap cause (BitVec.ofNat 64 va) s
  | .walk va => c.awaitWalk va 0 (c.issuedAt 0 s)
  | .held l va => c.park (.line l va false) (c.issuedAt 0 s)

/-- rne32(x * w / 2^16) of FP32 bits. -/
def weigh (x w : Nat) : Nat := rne32 (mulV (decodeF fp32 x) (.fin false w (-16))).1

/-- One channel of a filtered footprint: nearest unchanged, bilinear summed row-major (R79). -/
def filterChannel (filt : Nat) (taps : List Tap) (vals : List (List Nat)) (ch : Nat) : Nat :=
  let xs := vals.map fun l => l.getD ch 0
  if filt = 0 then xs.headD 0
  else
    let ps := (taps.zip xs).map fun p => if p.1.weight = 0 then 0 else weigh p.2 p.1.weight
    (ps.drop 1).foldl fadd32 (ps.headD 0)

/-- R80: two levels joined by the fraction lf. -/
def mipJoin (f0 f1 lf : Nat) : Nat :=
  rne32 (addV 0 (decodeF fp32 (weigh f0 ((256 - lf) * 256)))
    (if lf = 0 then .fin false 0 0 else decodeF fp32 (weigh f1 (lf * 256)))).1

/-- λq (R233). -/
def levelFixed (t : Texture) (l : Nat) : Nat :=
  let q := toFixed32 (match decodeF fp32 l with
    | .fin neg m e => .fin neg (m * 256) e
    | v => v)
  min (max q 0).toNat (t.lvm1 * 256)

/-- Writes four FP32 values to gd and gd + 1. -/
def Cx.writePair (c : Cx) (d : BitVec 6) (v : List Nat) (s : State) : Out :=
  let half := fun i => BitVec.ofNat 64 (v.getD (2 * i) 0 + v.getD (2 * i + 1) 0 * 2 ^ 32)
  c.done (c.upd (fun t => (t.wr d (half 0)).wr (d + 1) (half 1)) s)

/-- Reads a texture descriptor and goes on with it. -/
def Cx.withTexture (c : Cx) (a : BitVec 6) (k : Texture → State → Out) (s : State) : Out :=
  let va := (c.t.rd a).toNat
  c.readRecord va 16 16 (fun bs s =>
    match textureOf (leNat bs) with
    | none => c.trap causeIllegal (c.t.rd a) s
    | some t => k t s) s

/-- The footprint of a level by FILT. -/
def Texture.taps (t : Texture) (k s v : Nat) : List Tap := if t.filt = 0 then t.nearest k s v else t.bilinear k s v

/-- TEX (R234). -/
def execTex (g : Guard) (d a b l : BitVec 6) : State → Out :=
  coreInstr (.tex g d a b l) { guard := some g, kind := .proof, reads := [a, b, l], writes := [d, d + 1] } fun c s =>
    c.withTexture a (fun t s =>
      let u := (c.t.rd b).toNat % 2 ^ 32
      let v := (c.t.rd b).toNat / 2 ^ 32
      let lq := levelFixed t ((c.t.rd l).toNat % 2 ^ 32)
      let k0 := match t.mip with | 0 => 0 | 1 => (lq + 128) / 256 | _ => lq / 256
      let lf := if t.mip = 2 then lq % 256 else 0
      let taps0 := t.taps k0 u v
      c.texelsThen t k0 false taps0 (fun v0 s =>
        let taps1 := if lf = 0 then [] else t.taps (k0 + 1) u v
        c.texelsThen t (k0 + 1) false taps1 (fun v1 s =>
          c.writePair d ((List.range 4).map fun ch =>
            if ch ≥ t.nch then missingChannel ch
            else
              let f0 := filterChannel t.filt taps0 v0 ch
              if t.mip = 2 then mipJoin f0 (filterChannel t.filt taps1 v1 ch) lf else f0) s) s) s) s

/-- TEXG (R235). -/
def execTexg (g : Guard) (d a b l : BitVec 6) (ch : BitVec 2) : State → Out :=
  coreInstr (.texg g d a b l ch) { guard := some g, kind := .proof, reads := [a, b, l], writes := [d, d + 1] } fun c s =>
    c.withTexture a (fun t s =>
      let u := (c.t.rd b).toNat % 2 ^ 32
      let v := (c.t.rd b).toNat / 2 ^ 32
      let lq := levelFixed t ((c.t.rd l).toNat % 2 ^ 32)
      let k := if t.mip = 0 then 0 else (lq + 128) / 256
      c.texelsThen t k true (t.bilinear k u v) (fun vs s =>
        c.writePair d (vs.map fun x => if ch.toNat ≥ t.nch then missingChannel ch.toNat else x.getD ch.toNat 0) s) s) s

/-- TEXQ (R236). -/
def execTexq (g : Guard) (d a b : BitVec 6) : State → Out :=
  coreInstr (.texq g d a b) { guard := some g, kind := .proof, reads := [a, b], writes := [d] } fun c s =>
    c.withTexture a (fun t s =>
      let k := (c.t.rd b).toNat
      let size := if k > t.lvm1 then 0 else t.wk k + t.hk k * 2 ^ 32
      c.write d (BitVec.ofNat 64 (size + (t.lvm1 + 1) * 2 ^ 56)) s) s

/-! ## Rays (R238-R241) -/

/-- A finite FP32 value as an integer of units 2^-149; none for NaN and infinities. -/
def units32 (x : Nat) : Option Int :=
  match decodeF fp32 x with
  | .fin neg m e => let n := m * 2 ^ (e + 149).toNat; some (if neg then -(n : Int) else n)
  | _ => none

/-- The FP32 words of the ray in gb to gb + 3: ox oy oz tmin dx dy dz tmax. -/
def rayWords (t : Thread) (b : BitVec 6) : List Nat :=
  (List.range 4).flatMap fun i =>
    let v := (t.rd (b + BitVec.ofNat 6 i)).toNat
    [v % 2 ^ 32, v / 2 ^ 32]

/-- a / b rounded to FP32 in a mode; an exact 0 is +0. -/
def quot32 (mode : Nat) (a b : Int) : Nat :=
  if a = 0 then 0
  else let (m, e, st) := divMag a.natAbs 0 b.natAbs 0; (roundF fp32 mode false ((a < 0) != (b < 0)) m e st).bits

/-- An integer of units 2^-149 that is an FP32 value, as bits. -/
def ofUnits32 (x : Int) : Nat := rne32 (.fin (x < 0) x.natAbs (-149))

/-- The larger of two FP32 values. -/
def max32 (a b : Nat) : Nat := if cmpV (decodeF fp32 a) (decodeF fp32 b) = .lt then b else a
/-- The smaller of two FP32 values. -/
def min32 (a b : Nat) : Nat := if cmpV (decodeF fp32 b) (decodeF fp32 a) = .lt then b else a

/-- One axis of the slab test: the interval after it, or a miss. RDN is rounding code 3 and RUP code 2. -/
def slab (o d lo hi : Int) (iv : Nat × Nat) : Option (Nat × Nat) :=
  if d = 0 then (if o < lo ∨ o > hi then none else some iv)
  else
    let near := if d > 0 then lo - o else hi - o
    let far := if d > 0 then hi - o else lo - o
    some (max32 iv.1 (quot32 rdnCode near d), min32 iv.2 (quot32 rupCode far d))
where
  /-- RDN (Table 3.4) -/
  rdnCode : Nat := 3
  /-- RUP -/
  rupCode : Nat := 2

/-- RAYBOX's result: tn on a hit. -/
def rayBox (ray box : List Nat) : Option Nat :=
  match ray.mapM units32, box.mapM units32 with
  | some [ox, oy, oz, tmin, dx, dy, dz, tmax], some [lx, ly, lz, hx, hy, hz] =>
    if tmin > tmax ∨ lx > hx ∨ ly > hy ∨ lz > hz then none
    else
      let r := (slab ox dx lx hx (ofUnits32 tmin, ofUnits32 tmax)).bind fun iv =>
        (slab oy dy ly hy iv).bind fun iv => slab oz dz lz hz iv
      match r with
      | some (tn, tf) => if cmpV (decodeF fp32 tf) (decodeF fp32 tn) = .lt then none else some tn
      | none => none
  | _, _ => none

/-- RAYBOX (R239). -/
def execRaybox (g : Guard) (d a b : BitVec 6) (p : BitVec 3) : State → Out :=
  coreInstr (.raybox g d a b p)
    { guard := some g, kind := .proof, reads := [a, b, b + 1, b + 2, b + 3], writes := [d] } fun c s =>
    let va := (c.t.rd a).toNat
    c.readRecord va 16 24 (fun bs s =>
      match rayBox (rayWords c.t b) ((List.range 6).map (word32 bs)) with
      | some tn => c.done (c.upd (fun t => (t.wr d (BitVec.ofNat 64 tn)).setPred p true) s)
      | none => c.writePred p false s) s

/-- A vector of exact coordinates. -/
abbrev Vec3 := Int × Int × Int
/-- Difference. -/
def sub3 (a b : Vec3) : Vec3 := (a.1 - b.1, a.2.1 - b.2.1, a.2.2 - b.2.2)
/-- Cross product. -/
def cross3 (a b : Vec3) : Vec3 :=
  (a.2.1 * b.2.2 - a.2.2 * b.2.1, a.2.2 * b.1 - a.1 * b.2.2, a.1 * b.2.1 - a.2.1 * b.1)
/-- Dot product. -/
def dot3 (a b : Vec3) : Int := a.1 * b.1 + a.2.1 * b.2.1 + a.2.2 * b.2.2

/-- RAYTRI's result: t, u and v on a hit. -/
def rayTri (ray tri : List Nat) : Option (Nat × Nat × Nat) :=
  match ray.mapM units32, tri.mapM units32 with
  | some [ox, oy, oz, tmin, dx, dy, dz, tmax], some [ax, ay, az, bx, by_, bz, cx, cy, cz] =>
    let va : Vec3 := (ax, ay, az)
    let e1 := sub3 (bx, by_, bz) va
    let e2 := sub3 (cx, cy, cz) va
    let s := sub3 (ox, oy, oz) va
    let d : Vec3 := (dx, dy, dz)
    let p := cross3 d e2
    let q := cross3 s e1
    let det := dot3 e1 p
    let u := dot3 s p
    let v := dot3 d q
    let t := dot3 e2 q
    let sg : Int := if det < 0 then -1 else 1
    let unit : Int := (2 ^ 149 : Nat)
    if tmin > tmax ∨ det = 0 then none
    else if sg * u ≥ 0 ∧ sg * v ≥ 0 ∧ sg * (det - u - v) ≥ 0 ∧ sg * tmin * det ≤ sg * t * unit
        ∧ sg * t * unit ≤ sg * tmax * det then
      some (quot32 0 t det, quot32 0 u det, quot32 0 v det)
    else none
  | _, _ => none

/-- RAYTRI (R240). -/
def execRaytri (g : Guard) (d a b : BitVec 6) (p : BitVec 3) : State → Out :=
  coreInstr (.raytri g d a b p)
    { guard := some g, kind := .proof, reads := [a, b, b + 1, b + 2, b + 3], writes := [d, d + 1] } fun c s =>
    let va := (c.t.rd a).toNat
    c.readRecord va 16 36 (fun bs s =>
      match rayTri (rayWords c.t b) ((List.range 9).map (word32 bs)) with
      | some (t, u, v) => c.writePair d [t, u, v, 0] (c.upd (·.setPred p true) s)
      | none => c.writePred p false s) s

/-! ## Rasterisation (R242-R244) -/

/-- The vertices and the sample of RAST and BARY: v0 v1 v2 and p, each (x, y). -/
structure RastIn where
  v : List (Int × Int)
  p : Int × Int
deriving Repr

/-- The record and gb as signed numbers. -/
def rastIn (bs : List Byte) (b : Word) : RastIn :=
  let w := fun i => sextNat 32 (word32 bs i)
  ⟨[(w 0, w 1), (w 2, w 3), (w 4, w 5)], (sextNat 32 (b.toNat % 2 ^ 32), sextNat 32 (b.toNat / 2 ^ 32))⟩

/-- ex_i and ey_i. -/
def RastIn.edge (r : RastIn) (i : Nat) : Int × Int :=
  let a := r.v.getD ((i + 1) % 3) (0, 0)
  let b := r.v.getD ((i + 2) % 3) (0, 0)
  (b.1 - a.1, b.2 - a.2)

/-- F_i at a point. -/
def RastIn.f (r : RastIn) (i : Nat) (p : Int × Int) : Int :=
  let a := r.v.getD ((i + 1) % 3) (0, 0)
  let (ex, ey) := r.edge i
  ex * (p.2 - a.2) - ey * (p.1 - a.1)

/-- A, twice the signed area. -/
def RastIn.area (r : RastIn) : Int := r.f 0 (r.v.getD 0 (0, 0))

/-- R243's coverage. -/
def RastIn.covered (r : RastIn) : Bool :=
  let sg : Int := if r.area < 0 then -1 else 1
  r.area != 0 && (List.range 3).all fun i =>
    let (ex, ey) := r.edge i
    decide (sg * r.f i r.p > 0) || (r.f i r.p == 0 && (decide (sg * ey > 0) || (ey == 0 && decide (sg * ex < 0))))

/-- Reads the record of RAST and BARY and goes on with it. -/
def Cx.withRast (c : Cx) (a b : BitVec 6) (k : RastIn → State → Out) (s : State) : Out :=
  c.readRecord (c.t.rd a).toNat 8 24 (fun bs s => k (rastIn bs (c.t.rd b)) s) s

/-- RAST. -/
def execRast (g : Guard) (a b : BitVec 6) (p : BitVec 3) : State → Out :=
  coreInstr (.rast g a b p) { guard := some g, kind := .proof, reads := [a, b] } fun c s =>
    c.withRast a b (fun r s => c.writePred p r.covered s) s

/-- BARY. -/
def execBary (g : Guard) (d a b : BitVec 6) : State → Out :=
  coreInstr (.bary g d a b) { guard := some g, kind := .proof, reads := [a, b], writes := [d] } fun c s =>
    c.withRast a b (fun r s =>
      let w := fun i => if r.area = 0 then fp32.canonNan else quot32 0 (r.f i r.p) r.area
      c.write d (BitVec.ofNat 64 (w 1 + w 2 * 2 ^ 32)) s) s

end Sys2Proof.Machine
end

