-- ==== Sys2Proof/Machine/Tile.lean ====
section
/-! DEFINITION. What the units of a print tile share: token queues (13 R247, R248, R252, R253), the semaphore block (09
R196-R201), commands of an engine by sequence number, the result elements of engine ports (09 R204), and the raising
of a command's cause (13 R254). -/

namespace Sys2Proof.Machine

/-! ## Commands -/

/-- A command of an engine by sequence number, issued or started. -/
def Engine.command (g : Engine) (seq : Nat) : Option Command :=
  (g.started ++ g.issued).find? fun c => c.seq.toNat == seq

/-- Replaces a command, found by its sequence number. -/
def Engine.setCommand (g : Engine) (c : Command) : Engine :=
  let put := fun (l : List Command) => l.map fun d => if d.seq = c.seq then c else d
  { g with started := put g.started, issued := put g.issued }

/-- Replaces a command of an engine. -/
def State.setCommand (s : State) (tile e : Nat) (c : Command) : State :=
  s.setEngine tile e ((s.engine tile e).setCommand c)

/-- CLASS of a template image (07 Table 7.17). -/
def imgClass (i : BitVec 256) : Nat := bitsOf i.toNat 8 4
/-- OPC. -/
def imgOpc (i : BitVec 256) : Nat := bitsOf i.toNat 0 8
/-- POP. -/
def imgPop (i : BitVec 256) : Nat := bitsOf i.toNat 54 10
/-- PUSH. -/
def imgPush (i : BitVec 256) : Nat := bitsOf i.toNat 44 10
/-- GSEM. -/
def imgGsem (i : BitVec 256) : Nat := bitsOf i.toNat 38 6
/-- GEN. -/
def imgGen (i : BitVec 256) : Bool := bitOf i.toNat 37
/-- GCON. -/
def imgGcon (i : BitVec 256) : Bool := bitOf i.toNat 36
/-- GTHR. -/
def imgGthr (i : BitVec 256) : Nat := bitsOf i.toNat 12 24

/-- Class word w of an image, bits [32w + 31 : 32w]. -/
def imgWord (i : BitVec 256) (w : Nat) : Nat := bitsOf i.toNat (32 * w) 32

/-! ## Port results (09 R204, Table 9.14) -/

/-- A result element. -/
def resultElement (value cause seq : Nat) : Word :=
  BitVec.ofNat 64 (value % 2 ^ 24 * 2 ^ 40 + cause % 256 * 2 ^ 32 + seq % 2 ^ 32)

/-- Whether a push is outstanding in a thread. -/
def Thread.pushed (t : Thread) (push : Nat) : Bool := t.ports.any fun p => p.2.any fun x => x.push == push

/-- A thread with the result element of one of its pushes. -/
def Thread.putResult (t : Thread) (push : Nat) (r : Word) : Thread :=
  { t with ports := t.ports.map fun p =>
      (p.1, p.2.map fun x => if x.push = push then { x with done := true, result := r } else x) }

/-- Delivers the result element of a port command to the thread that pushed it, wherever it runs now, or in the saved
state of its wave (09 R207). -/
def State.deliverResult (s : State) (p : PortSource) (r : Word) : State :=
  match s.threads.find? (fun t => t.2.pushed p.push) with
  | some (tid, t) => s.setThread tid (t.putResult p.push r)
  | none =>
    let w := s.wave (waveOf p.gid)
    if w.saved = [] then s
    else s.setWave (waveOf p.gid) { w with saved := w.saved.map fun g =>
      { g with threads := g.threads.map (·.putResult p.push r) } }

/-- A cause raised by a command: a port command ends at its cursor with the cause in its result element; a strand
command stops the tile (R254). -/
def State.failCommand (s : State) (tile e : Nat) (c : Command) (cause val : Nat) : State :=
  match c.port with
  | some _ => s.setCommand tile e { c with cause := cause, finished := true, started := true }
  | none => (s.setCommand tile e c).raiseEngine tile e c.seq.toNat cause val

/-! ## Tokens -/

/-- Tokens in the queue from engine i to engine j. -/
def Tile.tokenCount (t : Tile) (i j : Nat) : Nat := t.tokens.get (i * 16 + j)
/-- Engines a 10-bit mask names. -/
def maskEngines (m : Nat) : List Nat := (List.range 10).filter (bitOf m)
/-- Whether every queue into engine j named by a mask holds a token. -/
def Tile.tokensReady (t : Tile) (m j : Nat) : Bool := (maskEngines m).all fun i => decide (t.tokenCount i j > 0)
/-- Pops one token from each named queue into engine j; with the commands whose pushes they were. -/
def Tile.popTokens (t : Tile) (m j : Nat) : Tile × List Nat :=
  (maskEngines m).foldl (fun (p : Tile × List Nat) i =>
    let k := i * 16 + j
    let from_ := p.1.tokenFrom.get k
    ({ p.1 with tokens := p.1.tokens.upd k (· - 1), tokenFrom := p.1.tokenFrom.set k (from_.drop 1) },
     (p.2 ++ (from_.take 1).flatten).dedup)) (t, [])
/-- The overlap checker keeps a command's footprints as those of a complete one (21 R372). -/
def Tile.markComplete (t : Tile) (e seq : Nat) : Tile :=
  { t with footprints := t.footprints.map fun f => if f.engine = e ∧ f.seq = seq then { f with complete := true } else f }

/-- Pushes a token from engine i onto the queue to j, standing for a list of commands (engine * 2^32 + sequence
number). -/
def Tile.pushToken (t : Tile) (i j : Nat) (commands : List Nat) : Tile :=
  let k := i * 16 + j
  { t with tokens := t.tokens.upd k (· + 1), tokenFrom := t.tokenFrom.upd k (· ++ [commands]) }

/-! ## The semaphore block (09 R196-R201) -/

/-- Whether a parked wait is still there: its thread waits on it and its wave is not being pre-empted (R201), or its command's
gate is registered and not passed. -/
def State.semLive (s : State) (tile : Nat) (w : SemWait) : Bool :=
  match w.who with
  | .thread tid => (s.thread tid).live && (s.waveOfThread tid).state != .preempted &&
      (s.thread tid).wait == some (.semwait tile w.sem w.thr w.con)
  | .engine t e =>
    match (s.engine t e).command w.seq with
    | some c => c.gated && !c.passed && !(s.tile t).stopped
    | none => false
  | .hub => false

/-- Examines one wait: when its count suffices, the count is taken if it consumes, and the waiter goes on. -/
def State.semExamine1 (s : State) (tile : Nat) (w : SemWait) : Option State :=
  let t := s.tile tile
  if t.sems.get w.sem < w.thr then none
  else
    let s := if w.con then s.setTile tile { t with sems := t.sems.upd w.sem (· - w.thr) } else s
    match w.who with
    | .thread tid => some (s.wake tid)
    | .engine et e => match (s.engine et e).command w.seq with
      | some c => some (s.setCommand et e { c with passed := true })
      | none => some s
    | .hub => some s

/-- Re-examines the parked waits, oldest first (R199 step 2); waits withdrawn meanwhile are dropped. -/
def State.semExamine (s : State) (tile : Nat) : State :=
  let (s, left) := (s.tile tile).waits.foldl (fun (p : State × List SemWait) w =>
    if p.1.semLive tile w then
      match p.1.semExamine1 tile w with
      | some s => (s, p.2)
      | none => (p.1, p.2 ++ [w])
    else p) (s, [])
  s.setTile tile { s.tile tile with waits := left }

/-- Applies an increment to a count; none when it would pass 2^24 - 1 (R197). -/
def State.semAdd (s : State) (tile sem n : Nat) : Option State :=
  let t := s.tile tile
  if t.sems.get sem + n ≥ 2 ^ 24 then none else some (s.setTile tile { t with sems := t.sems.upd sem (· + n) })

/-- The name word of a counting semaphore (13 R278). -/
def nameWord (tile sem : Nat) : Nat := tile * 2 ^ 8 + sem

/-- A copy command refused at an increment: its cursor stays at that chunk (13 R278, R284). On a tile that has stopped by
now it has no effect, and raises its cause again when the tile restarts (23 R388). -/
def State.semRefuse (s : State) (t e : Nat) (c : Command) (cause val : Nat) : State :=
  let c := { c with phase := if bitsOf c.image.toNat 188 4 = 4 then 1 else 0 }
  if (s.tile t).stopped ∧ (s.tile t).stops = [] then s.setCommand t e c else s.failCommand t e c cause val

/-- Applies one increment of a copy command: its chunk is counted, with the side-effect mark when the tile is another wave's
(23 R393), or the command raises SEMAPHORE_OVERFLOW, or ACCESS_FAULT when the tile's group has gone or is of another
address space by now (01 R40), with its cursor at that chunk (13 R278, R284). -/
def State.semApply (s : State) (tile : Nat) (i : SemInc) : State :=
  match i.who with
  | .engine t e =>
    let who := s.tileWho t
    match (s.engine t e).command i.seq with
    | none => s
    | some c =>
      if !(t == tile) && !s.tileOpen who tile then s.semRefuse t e c causeAccess tile
      else match s.semAdd tile i.sem i.amount with
        | some s => (s.setCommand t e { c with phase := 3 }).markFor who ⟨.sp tile, 0⟩
        | none => s.semRefuse t e c causeOverflow (nameWord tile i.sem)
  | _ => match s.semAdd tile i.sem i.amount with
    | some s => s
    | none => s

/-- The first of a list by least rank, and the rest in order. -/
def takeLeast : List SemInc → Option (SemInc × List SemInc)
  | [] => none
  | x :: xs => match takeLeast xs with
    | none => some (x, [])
    | some (y, ys) => if y.rank < x.rank then some (y, x :: ys) else some (x, xs)

/-- Applies pending increments in source order (R199 step 1). -/
def State.semApplyAll (tile : Nat) : Nat → List SemInc → State → State
  | 0, _, s => s
  | n + 1, l, s => match takeLeast l with
    | none => s
    | some (i, rest) => State.semApplyAll tile n rest (s.semApply tile i)

/-- Whether an increment for a tile is held on a link on its way (25 R411). -/
def State.incHeld (s : State) (tile : Nat) (i : SemInc) : Bool :=
  match i.who with
  | .engine t _ => t != tile && (s.linkHeld t || s.linkHeld tile)
  | .thread tid => unitOf tid != tile && (s.linkHeld (unitOf tid) || s.linkHeld tile)
  | .hub => false

/-- Applies the increments that have arrived at a block, then re-examines its waits. -/
def State.semFlush (s : State) (tile : Nat) : State :=
  let l := (s.tile tile).incs.filter fun i => !s.incHeld tile i
  let held := (s.tile tile).incs.filter (s.incHeld tile)
  let s := s.setTile tile { s.tile tile with incs := held }
  (State.semApplyAll tile l.length l s).semExamine tile

/-- A remote wait that arrives while 32 are parked, or behind others the hub holds, is not examined: the hub holds it in
arrival order (R200). -/
def State.semHeld (s : State) (tile : Nat) (remote : Bool) : Bool :=
  let t := s.tile tile
  remote && (t.remoteq.any (s.semLive tile) || decide (((t.waits.filter (s.semLive tile)).filter (·.remote)).length ≥ 32))

/-- Registers a wait at a block, newest last; beyond 32 parked remote waits it queues in the hub (R200). A wait that was
withdrawn has no place any more, in the block or in the hub, when its thread or command waits again (R201). -/
def State.semPark (s : State) (tile : Nat) (w : SemWait) : State :=
  let t := s.tile tile
  let mine := fun (x : SemWait) => s.semLive tile x && !(x.who == w.who && x.seq == w.seq)
  let waits := t.waits.filter mine
  let queue := t.remoteq.filter mine
  let held := w.remote && (!queue.isEmpty || decide ((waits.filter (·.remote)).length ≥ 32))
  s.setTile tile (if held then { t with waits := waits, remoteq := queue ++ [w] }
    else { t with waits := waits ++ [w], remoteq := queue })

/-- Whether an increment of a tile's own copy commands is under way (23 R387 step 2). -/
def State.incsOut (s : State) (tile : Nat) : Bool :=
  s.tiles.any fun p => p.2.incs.any fun i => match i.who with
    | .engine t _ => t == tile
    | _ => false

/-- SEM_INCREMENT_APPLY. -/
def onSemIncrementApply (tile : Nat) (s : State) : Option State :=
  if (s.tile tile).incs.all (s.incHeld tile) then none else some (s.semFlush tile)
/-- SEM_INCREMENT_APPLY: it happens, or nothing does. -/
def execSemIncrementApply (tile : Nat) (s : State) : Out := happens (onSemIncrementApply tile) s

/-- REMOTE_WAIT_ADMIT: the oldest remote wait held in the hub is examined, once fewer than 32 are parked (R200). -/
def onRemoteWaitAdmit (tile : Nat) (s : State) : Option State :=
  let t := s.tile tile
  let waits := t.waits.filter (s.semLive tile)
  match t.remoteq.filter (s.semLive tile) with
  | [] => none
  | w :: rest =>
    if (waits.filter (·.remote)).length ≥ 32 then none
    else
      let s := s.setTile tile { t with waits := waits, remoteq := rest }
      match s.semExamine1 tile w with
      | some s => some s
      | none => some (s.setTile tile { s.tile tile with waits := (s.tile tile).waits ++ [w] })
/-- REMOTE_WAIT_ADMIT: it happens, or nothing does. -/
def execRemoteWaitAdmit (tile : Nat) (s : State) : Out := happens (onRemoteWaitAdmit tile) s

/-! ## The cut record (23 R389) -/

/-- CUT of an engine: the number of its latest started command. -/
def Engine.cut (g : Engine) : Nat :=
  match g.issued with
  | c :: _ => (c.seq - 1).toNat
  | [] => g.seq.toNat

/-- The 64 bytes of a cut record (Table 23.4). -/
def State.cutRecord (s : State) (tile cause engine seq : Nat) : List Byte :=
  let cuts := (List.range 10).map fun e =>
    if e = 0 then (s.thread (controlTid tile)).completed % 2 ^ 32 else (s.engine tile e).cut
  let counts := (List.range 10).foldl (fun x e =>
    let g := s.engine tile e
    x + g.started.length % 8 * 2 ^ (3 * e) + g.issued.length % 32 * 2 ^ (30 + 5 * e)) 0
  cuts.flatMap (leBytes 4) ++ leBytes 8 (cause % 256 + engine % 16 * 2 ^ 8 + seq % 2 ^ 32 * 2 ^ 32) ++ leBytes 16 counts

end Sys2Proof.Machine
end

