-- ==== Sys2Proof/Machine/Operands.lean ====
section
/-! DEFINITION. The operands of engine commands: layout registers and element placement (13 R263-R265), bytes and elements
in scratchpad and virtual memory as an engine reads and writes them (13 R277, 23 R401), input streams (13 R259-R261), and
how a command's work on one vector, chunk or row ends. -/

namespace Sys2Proof.Machine

/-! ## Outcomes of engine work -/

/-- How a piece of engine work ends: done with a value, a cause with its value, a translation to be walked first, or a
stall (no stream vector, no free slot, a line that cannot be served now, a closed order gate). -/
inductive Eng (α : Type) where
  | ok (a : α)
  | fault (cause val : Nat)
  | walk (va : Nat)
  | stall
deriving Repr

/-- Continues with the value. -/
def Eng.andThen {α β : Type} (x : Eng α) (f : α → Eng β) : Eng β :=
  match x with
  | .ok a => f a
  | .fault c v => .fault c v
  | .walk v => .walk v
  | .stall => .stall

/-- Runs over a list, collecting the values. -/
def Eng.collect {α β : Type} (f : α → Eng β) : List α → Eng (List β)
  | [] => .ok []
  | x :: xs => (f x).andThen fun y => (Eng.collect f xs).andThen fun ys => .ok (y :: ys)

/-! ## Layout registers (Table 13.4) -/

/-- A layout register's fields: extents already increased by one. -/
structure Layout where
  base : Nat
  p1 : Nat
  p2 : Nat
  p3 : Nat
  bpm : Nat
  fmt : Nat
  x : Nat
  y : Nat
  z : Nat
deriving DecidableEq, Repr, Inhabited

/-- The fields of a layout register. -/
def layoutOf (b : BitVec 128) : Layout :=
  let n := b.toNat
  ⟨bitsOf n 0 32, bitsOf n 32 17, bitsOf n 49 17, bitsOf n 66 17, bitsOf n 83 4, bitsOf n 87 4,
   bitsOf n 91 13 + 1, bitsOf n 104 12 + 1, bitsOf n 116 12 + 1⟩

/-- Position and width of a layout field by its number (R266). -/
def layoutField (f : Nat) : Option (Nat × Nat) :=
  match f with
  | 0 => some (0, 32) | 1 => some (32, 17) | 2 => some (49, 17) | 3 => some (66, 17) | 4 => some (83, 4)
  | 5 => some (87, 4) | 6 => some (91, 13) | 7 => some (104, 12) | 8 => some (116, 12) | _ => none

/-- The indices of element e: i0, i1, i2, i3 (R264). -/
def Layout.index (l : Layout) (e : Nat) : Nat × Nat × Nat × Nat :=
  let u := e / l.x
  (e % l.x, u % l.y, u / l.y % l.z, u / l.y / l.z)

/-- The bank permutation of Table 13.5. -/
def swizzle (a i1 bpm : Nat) : Nat :=
  match bpm with
  | 1 => a ^^^ (i1 % 8 * 16)
  | 2 => a ^^^ (i1 % 16 * 16)
  | 3 => a ^^^ (i1 % 32 * 16)
  | 4 => a ^^^ (i1 % 64 * 16)
  | 5 => a ^^^ (i1 % 8 * 128)
  | 6 => a ^^^ (i1 % 16 * 128)
  | _ => a

/-- The address of the row that holds indices i1, i2, i3. -/
def Layout.row (l : Layout) (start i1 i2 i3 : Nat) : Nat := start + 16 * (i1 * l.p1 + i2 * l.p2 + i3 * l.p3)

/-- The byte address of the element of `bits` bits at given indices, modulo 2^wrap. -/
def Layout.place (l : Layout) (start bits wrap : Nat) (i : Nat × Nat × Nat × Nat) : Nat :=
  swizzle ((l.row start i.2.1 i.2.2.1 i.2.2.2 + i.1 * bits / 8) % 2 ^ wrap) i.2.1 l.bpm

/-- The byte address of element e. -/
def Layout.elem (l : Layout) (start bits wrap e : Nat) : Nat := l.place start bits wrap (l.index e)

/-- The scratchpad offset of byte `off` of the scales of the row holding element e (R265). -/
def Layout.scale (l : Layout) (start bits e off : Nat) : Nat :=
  let (_, i1, i2, i3) := l.index e
  let bytes := (l.x * bits + 7) / 8
  swizzle ((l.row start i1 i2 i3 + (bytes + 15) / 16 * 16 + off) % 2 ^ 32) i1 l.bpm

/-- Lowest and one past the highest byte of the places of a list of (address, bytes): the footprint of R371. -/
def footprintOf : List (Nat × Nat) → Nat × Nat
  | [] => (0, 0)
  | [p] => (p.1, p.1 + p.2)
  | p :: ps => let (lo, hi) := footprintOf ps; (min lo p.1, max hi (p.1 + p.2))

/-! ## Bytes of scratchpad and virtual memory -/

/-- The place of scratchpad bytes of the command's own tile, or ACCESS_FAULT at the offset (01 R19). -/
def State.spAt (s : State) (tile off n : Nat) : Eng Loc :=
  if off + n ≤ Config.scratchSize (s.tile tile).sram then .ok ⟨.sp tile, off⟩ else .fault causeAccess off

/-- The place of virtual bytes as an engine reaches them, at the level of its control core, for a writer; it stalls while the
access cannot be served (`State.blocked`), or another package has still to answer a write (25 R424) or to send the line of a
read, unless a cache on its way answers the read. -/
def State.vaAt (s : State) (tile : Nat) (w : Writer) (need : Need) (va n : Nat) : Eng Loc :=
  match s.resolve (s.tileWho tile) need (va % 2 ^ 64) n with
  | .fault c => .fault c (va % 2 ^ 64)
  | .walk => .walk (va % 2 ^ 64)
  | .at l =>
    let answered := !need.w && (s.l1Has tile (s.tileWho tile).asid l || s.peerHeld l)
    let far := l.space.foreign && !(need.w && s.peerAnswered w l)
    if !answered && (s.blocked tile l || far) then .stall else .ok l

/-- Bytes an engine reads at a place; a poisoned line raises POISON with the line's first address, given as `addr`'s
(23 Table 23.3). -/
def State.engRead (s : State) (l : Loc) (addr n : Nat) : Eng Nat :=
  if s.poisoned l then .fault causePoison (addr / 128 * 128) else .ok (s.viewNum l n)

/-- Writes bytes of its own scratchpad as an engine. -/
def State.engWrite (s : State) (tile : Nat) (l : Loc) (n x : Nat) : State :=
  s.performWrite (s.tileWho tile) l (leBytes n x) 0

/-- Reads a scratchpad element of a layout; E2M1 takes a nibble, low for even i0. -/
def State.spElem (s : State) (tile : Nat) (l : Layout) (start bits e : Nat) : Eng Nat :=
  let a := l.elem start bits 32 e
  if bits = 4 then
    (s.spAt tile a 1).andThen fun p => (s.engRead p a 1).andThen fun v =>
      .ok (if (l.index e).1 % 2 = 0 then v % 16 else v / 16)
  else (s.spAt tile a (bits / 8)).andThen fun p => s.engRead p a (bits / 8)

/-- The scratchpad place an element is written to: byte offset, bits, and whether the high nibble. -/
def Layout.cell (l : Layout) (start bits e : Nat) : Nat × Nat × Bool :=
  (l.elem start bits 32 e, bits, bits == 4 && (l.index e).1 % 2 == 1)

/-- Checks the scratchpad places of a list of writes; the first out of range faults. -/
def State.spCheck (s : State) (tile : Nat) (cells : List ((Nat × Nat × Bool) × Nat)) : Eng Unit :=
  match cells.find? fun c => decide (c.1.1 + (c.1.2.1 + 7) / 8 > Config.scratchSize (s.tile tile).sram) with
  | some c => .fault causeAccess c.1.1
  | none => .ok ()

/-- Writes one element at its scratchpad place. -/
def State.spPut (s : State) (tile : Nat) (c : (Nat × Nat × Bool) × Nat) : State :=
  let l : Loc := ⟨.sp tile, c.1.1⟩
  if c.1.2.1 = 4 then
    let old := s.numAt l 1
    s.engWrite tile l 1 (if c.1.2.2 then old % 16 + c.2 % 16 * 16 else old / 16 * 16 + c.2 % 16)
  else s.engWrite tile l (c.1.2.1 / 8) c.2

/-- Writes a list of elements after checking every place. -/
def State.spPutAll (s : State) (tile : Nat) (cells : List ((Nat × Nat × Bool) × Nat)) : Eng State :=
  (s.spCheck tile cells).andThen fun _ => .ok (cells.foldl (fun s c => s.spPut tile c) s)

/-! ## Streams (R259-R261) -/

/-- Lanes of a vector. -/
def lanes : Nat := 192

/-- Engines E5-E9 in the order of the inputs of consumer e (Table 13.3). -/
def producersOf (e : Nat) : List Nat := [5, 6, 7, 8, 9].filter (· != e)

/-- The input of consumer c that producer p feeds. -/
def inputOf (p c : Nat) : Nat := ((producersOf c).takeWhile (· != p)).length

/-- The vector at a place of an engine's input stream. -/
def Engine.vectorAt (g : Engine) (i n : Nat) : Eng Vec :=
  match (g.streams.get i)[n]? with
  | some v => .ok v
  | none => .stall

/-- Frees the oldest vector of an input stream; its slot's return goes on the wire (R260). -/
def Engine.freeSlot (g : Engine) (i : Nat) : Engine :=
  { g with streams := g.streams.upd i (·.drop 1), returns := g.returns.upd i (· + 1) }

/-- Sends a vector of lane values from engine p to consumer c, or stalls at a zero free-slot count. -/
def State.sendVector (s : State) (tile p c : Nat) (vals : List Nat) : Eng State :=
  let g := s.engine tile p
  let i := inputOf p c
  if g.used.get (c * 4 + i) ≥ 8 then .stall
  else
    let s := s.setEngine tile p { g with used := g.used.upd (c * 4 + i) (· + 1) }
    let d := s.engine tile c
    let v : Vec := SMap.setMany [] 0 (vals.map fun x => BitVec.ofNat 32 x)
    .ok (s.setEngine tile c { d with streams := d.streams.upd i (· ++ [v]) })

/-- STREAM_SLOT_RETURN: a freed slot of the consumer returns to its producer's counter (R260). -/
def onStreamSlotReturn (s : State) : Option State :=
  match s.cur with
  | .engine tile c =>
    let g := s.engine tile c
    match (List.range 4).find? fun i => decide (g.returns.get i > 0) with
    | none => none
    | some i =>
      let p := (producersOf c).getD i 0
      let s := s.setEngine tile c { g with returns := g.returns.upd i (· - 1) }
      let q := s.engine tile p
      some (s.setEngine tile p { q with used := q.used.upd (c * 4 + i) (· - 1) })
  | _ => none
/-- STREAM_SLOT_RETURN: it happens, or nothing does. -/
def execStreamSlotReturn (s : State) : Out := happens onStreamSlotReturn s

/-! ## A command's fields -/

/-- A bit field [lo + n - 1 : lo] of a command's template copy. -/
def Command.fld (c : Command) (lo n : Nat) : Nat := bitsOf c.image.toNat lo n
/-- COUNT of strip and copy templates (Tables 13.8, 13.11a). -/
def Command.count (c : Command) : Nat := c.fld 96 32
/-- The layout a command read at its issue. -/
def Command.lay (c : Command) (n : Nat) : Layout := layoutOf (c.lays.get n)

end Sys2Proof.Machine
end

