-- ==== Sys2Proof/Machine/Engines.lean ====
section
/-! DEFINITION. The common course of engine commands: what may run beside what, starting in sequence order (13 R252) with
the overlap checker (21 R371, R372), one piece of work at a time, and completion (13 R253). -/

namespace Sys2Proof.Machine

/-- Streams a command reads (input number) and writes (10 + consumer), which older commands must be done with first. -/
def Command.streamKeys (c : Command) : List Nat :=
  let cls := imgClass c.image
  if cls = 6 then
    (if c.fld 252 4 = 4 then [c.fld 192 2] else []) ++ (if c.fld 188 4 = 4 then [10 + c.fld 128 4] else [])
  else if 2 ≤ cls ∧ cls ≤ 5 then
    ([c.fld 88 3, c.fld 85 3, c.fld 82 3].filter (· ≥ 4)).map (· - 4) ++ (if c.fld 91 5 ≥ 5 then [10 + c.fld 91 5] else [])
  else []

/-- Whether a die is held by the energy planner: no command starts on it, no core instruction issues (19 R358, 25 R428). -/
def State.dieHeld (s : State) (die : Nat) : Bool := s.energy.held.get die || s.energy.thermal

/-- What one template opcode does: the checks and reads at its start, the scratchpad footprints of its operands (lowest
byte, one past the highest, written), and one piece of its work. -/
structure EngOp where
  cls : Nat
  opc : Nat
  start : State → Nat → Nat → Command → Eng (State × Command) := fun s _ _ c => .ok (s, c)
  foot : State → Nat → Command → List (Nat × Nat × Bool) := fun _ _ _ => []
  work : State → Nat → Nat → Command → Eng State

/-- A command of this opcode. -/
def EngOp.isFor (op : EngOp) (c : Command) : Bool := imgClass c.image == op.cls && imgOpc c.image == op.opc

/-- The identity of a command among those of its tile (21 R371). -/
def commandId (e : Nat) (c : Command) : Nat := e * 2 ^ 32 + c.seq.toNat

/-- Ends a piece of work: its new state, its cause, its wait for a walk, or nothing while it stalls. A fault that a refused page
or a failed walk has brought to the command is taken instead of the work (23 R405). -/
def State.settleWork (s : State) (tile e : Nat) (c : Command) (r : Eng State) : Option State :=
  match c.refusal with
  | some (cause, val) => some (s.failCommand tile e { c with refusal := none } cause val)
  | none => match r with
    | .ok s => some (match (s.engine tile e).command c.seq.toNat with
      | some d => s.setCommand tile e { d with waited := s.cycle }
      | none => s)
    | .fault cause val => some (s.failCommand tile e c cause val)
    | .walk va => some ((s.askWalk (dieOf tile) (s.tileWho tile).asid va).setCommand tile e { c with wait := some (.walk va 4) })
    | .stall => none

/-- Works on the first started command of this opcode that can go on. -/
def EngOp.workOn (op : EngOp) (tile e : Nat) (s : State) : List Nat → List Command → Option State
  | _, [] => none
  | busy, c :: cs =>
    let keys := c.streamKeys
    let next := op.workOn tile e s (if c.finished then busy else busy ++ keys) cs
    if !op.isFor c || c.finished || c.wait.isSome || keys.any busy.contains then next
    else match s.settleWork tile e c (op.work s tile e c) with
      | some s => some s
      | none => next

/-! ## Starting (R252, R390) -/

/-- Whether two footprints meet with a write. -/
def clash (f : Footprint) (p : Nat × Nat × Bool) : Bool :=
  decide (f.lo < p.2.1) && decide (p.1 < f.hi) && (f.write || p.2.2)

/-- The overlap checker at a start: the other command of the first pair that clashes, or the footprints kept from now on;
none while it waits for a place. -/
def State.overlapStart (s : State) (tile e : Nat) (c : Command) (foot : List (Nat × Nat × Bool)) :
    Eng State :=
  if !s.det (controlTid tile) ∨ foot = [] then .ok s
  else
    let t := s.tile tile
    let full := decide (((t.footprints.map fun f => f.engine * 2 ^ 32 + f.seq).dedup).length ≥ 256)
    match full, t.footprints.find? (·.complete) with
    | true, none => .stall
    | full, oldest =>
      -- a place is made first, then the starting command is compared with what is kept (DEDUCED, log entry 24)
      let kept : List Footprint := match full, oldest with
        | true, some f => t.footprints.filter fun x => !(x.engine == f.engine && x.seq == f.seq)
        | _, _ => t.footprints
      match kept.find? (fun f => !c.after.contains (f.engine * 2 ^ 32 + f.seq) && foot.any (clash f)) with
      | some f => .fault causeOverlap (f.engine * 2 ^ 32 + f.seq)
      | none =>
        let ct := s.thread (controlTid tile)
        let s := if full then s.setThread (controlTid tile) { ct with chkmiss := true } else s
        .ok (s.setTile tile { s.tile tile with
          footprints := kept ++ foot.map fun p => ⟨e, c.seq.toNat, p.1, p.2.1, p.2.2, false⟩ })

/-- Pops a command's tokens once every queue it names holds one (R252 item 2). -/
def State.popFor (s : State) (tile e : Nat) (c : Command) : Option (State × Command) :=
  if c.popped then some (s, c)
  else
    let t := s.tile tile
    if t.tokensReady (imgPop c.image) e then
      let (t, from_) := t.popTokens (imgPop c.image) e
      some (s.setTile tile t, { c with popped := true, after := (c.after ++ from_).dedup })
    else none

/-- Starts the oldest issued command when its conditions hold; otherwise registers its gate once its tokens are popped. -/
def EngOp.startNext (op : EngOp) (tile e : Nat) (s : State) : Option State :=
  let g := s.engine tile e
  match g.issued with
  | [] => none
  | c :: rest =>
    if !op.isFor c || decide (g.started.length ≥ (if e ≤ 4 then 1 else 4)) || s.dieHeld (dieOf tile) then none
    else match s.popFor tile e c with
      | none => none
      | some (s, c) =>
        let s := s.setCommand tile e c
        let gate := imgGen c.image
        let w : SemWait := ⟨.engine tile e, c.seq.toNat, imgGsem c.image, imgGthr c.image, imgGcon c.image, false⟩
        if gate && !c.passed && !c.gated then
          let c := { c with gated := true }
          let s := (s.setCommand tile e c).semFlush tile
          match s.semExamine1 tile w with
          | some s => some s
          | none => some (s.semPark tile w)
        else if gate && !c.passed then none
        else match (op.start s tile e c).andThen fun p =>
            (p.1.overlapStart tile e p.2 (op.foot p.1 tile p.2)).andThen fun s => .ok (s, p.2) with
          | .ok (s, c) =>
            let g := s.engine tile e
            let mine := commandId e c :: c.after
            let order := fun (l : List Nat) => if e ≤ 4 then (l ++ mine).dedup else l
            some (s.setEngine tile e { g with
              issued := rest.map fun d => { d with after := order d.after, waited := s.cycle }
              started := g.started ++ [{ c with started := true, waited := s.cycle }]
              after := order g.after, order := order g.order })
          | .fault cause val => some (s.failCommand tile e c cause val)
          | .walk _ => none
          | .stall => none

/-- Whether a started VIDLE occupies the strip: no command of it works or starts (13 Table 13.9). -/
def Engine.idles (g : Engine) : Bool := g.started.any fun c => imgClass c.image == 2 && imgOpc c.image == 0x0C && !c.finished

/-- An engine executes a command's opcode: a piece of work of a started command, or the start of the next one. -/
def EngOp.turn (op : EngOp) (s : State) : Option State :=
  match s.cur with
  | .engine tile e =>
    let g := s.engine tile e
    if !(g.started ++ g.issued).any op.isFor then none
    else if (s.tile tile).stopped || g.idles then none
    else match op.workOn tile e s [] g.started with
      | some s => some s
      | none => op.startNext tile e s
  | _ => none

/-- A template opcode executed: an engine's turn with it, or nothing while no command of it can go on. -/
def EngOp.exec (op : EngOp) (s : State) : Out := happens op.turn s

/-! ## Completion (R253, Table 13.11, Table 15.13) -/

/-- VALUE of a result element. -/
def resultValue (c : Command) : Nat :=
  match imgClass c.image, imgOpc c.image with
  | 2, 0x0C => 0
  | 5, 0x01 => (c.sent + 191) / 192
  | 6, 0x06 => c.cursor2
  | _, _ => c.cursor

/-- The first queue from engine e that a PUSH mask names and that is full. Of several full ones c.tval names the lowest
target's (R253 does not say which; DESIGN CHOICE, log entry 101). -/
def Tile.fullQueue (t : Tile) (e mask : Nat) : Option Nat := (maskEngines mask).find? fun n => decide (t.tokenCount e n ≥ 15)

/-- COMMAND_COMPLETE: a finished command leaves its engine; a port command delivers its result, any other pushes its
tokens, all or none (R253). Either is a release of its writes: it waits until they are performed (05 R104, R109). One that
finds a queue full raises TOKEN_FAULT and stays until the stop records it, or raises it again (23 R388). -/
def onCommandComplete (seq : BitVec 32) (s : State) : Option State :=
  match s.cur with
  | .engine tile e =>
    let g := s.engine tile e
    match (g.started ++ g.issued).find? fun c => c.seq == seq && c.finished with
    | none => none
    | some c =>
      if (s.tile tile).stopped || s.unperformed (.command tile e seq.toNat) then none
      else
        let out := fun (l : List Command) => l.filter fun d => d.seq != seq
        let roomy := decide (g.started.length < (if e ≤ 4 then 1 else 4))
        let left := s.setEngine tile e { g with
          started := out g.started
          issued := (out g.issued).map fun d => if roomy then d else { d with waited := s.cycle } }
        let left := left.setTile tile ((left.tile tile).markComplete e seq.toNat)
        match c.port with
        | some p => some (left.deliverResult p (resultElement (resultValue c) c.cause seq.toNat))
        | none => match (s.tile tile).fullQueue e (imgPush c.image) with
          | some n => some (s.raiseEngine tile e seq.toNat causeToken (e * 2 ^ 8 + n))
          | none =>
            some (left.setTile tile ((maskEngines (imgPush c.image)).foldl
              (fun t n => t.pushToken e n (commandId e c :: c.after)) (left.tile tile)))
  | _ => none
/-- COMMAND_COMPLETE: it happens, or nothing does. -/
def execCommandComplete (seq : BitVec 32) (s : State) : Out := happens (onCommandComplete seq) s

end Sys2Proof.Machine
end

