-- ==== Sys2Proof/Machine/Tatting.lean ====
section
/-! DEFINITION. Tatting arrays (chapter 17): pattern images, their checks, their evaluation, the slots of a group, and XOP,
PATLD, PATDR and PATQ. -/

namespace Sys2Proof.Machine

/-! ## Images (R320, R321) -/

/-- A field of the header (Table 17.2), from the image as a little-endian number. -/
def patHdr (img : List Byte) (lo n : Nat) : Nat := bitsOf (leNat (img.take 16)) lo n
/-- The descriptor of cell i (Table 17.3). -/
def patCell (img : List Byte) (i : Nat) : Nat := leNat ((img.drop (16 + 8 * i)).take 8)
/-- OP of a descriptor. -/
def cellOp (d : Nat) : Nat := bitsOf d 59 5
/-- PARAM. -/
def cellParam (d : Nat) : Nat := bitsOf d 56 3
/-- The three input selectors. -/
def cellSels (d : Nat) : List Nat := [bitsOf d 50 6, bitsOf d 44 6, bitsOf d 38 6]
/-- Element width W in bits. -/
def patWidth (img : List Byte) : Nat := 8 * 2 ^ patHdr img 19 2
/-- NSRC. -/
def patNsrc (img : List Byte) : Nat := patHdr img 16 2
/-- Two results. -/
def patTwo (img : List Byte) : Bool := patHdr img 18 1 == 1
/-- Bytes of an image, by its TBL bit. -/
def patBytes (img : List Byte) : Nat := if patHdr img 21 1 = 1 then 464 else 208
/-- Cells of an array. -/
def cells : List Nat := List.range 24

/-- Inputs an operation uses (Table 17.1); a refused one counts all three (R322). -/
def opInputs (op : Nat) : Nat :=
  if op = 0 then 0 else if op ≤ 0x0F then 2 else if op = 0x10 then 3 else if op = 0x11 then 2
  else if op ≤ 0x13 then 1 else if op ≤ 0x15 then 2 else 3

/-- Selectors of the inputs a cell uses. -/
def usedSels (d : Nat) : List Nat := (cellSels d).take (opInputs (cellOp d))

/-- Cells a cell reads. -/
def cellReads (d : Nat) : List Nat := (usedSels d).filterMap fun x => if 1 ≤ x ∧ x ≤ 24 then some (x - 1) else none

/-- A cell's cycles (Table 17.1). -/
def cellCycles (op : Nat) : Nat := if op = 0x0E ∨ op = 0x0F then 2 else if op = 0x14 ∨ op = 0x15 then 3 else 1

/-! ## Evaluation (R317-R319) -/

/-- A cell's result (Table 17.1) on 32-bit inputs. -/
def cellResult (img : List Byte) (d x y z : Nat) : Nat :=
  match cellOp d with
  | 0x01 => (x + y) % 2 ^ 32
  | 0x02 => (x + 2 ^ 32 - y) % 2 ^ 32
  | 0x03 => x &&& y
  | 0x04 => x ||| y
  | 0x05 => x ^^^ y
  | 0x06 => x * 2 ^ (y % 32) % 2 ^ 32
  | 0x07 => x / 2 ^ (y % 32)
  | 0x08 => wrapInt 32 (sextNat 32 x / (2 ^ (y % 32) : Nat))
  | 0x09 => (x * 2 ^ (y % 32) + x / 2 ^ (32 - y % 32)) % 2 ^ 32
  | 0x0A => if sextNat 32 x ≤ sextNat 32 y then x else y
  | 0x0B => if sextNat 32 x ≤ sextNat 32 y then y else x
  | 0x0C => min x y
  | 0x0D => max x y
  | 0x0E => x % 2 ^ 16 * (y % 2 ^ 16)
  | 0x0F => wrapInt 32 (sextNat 16 x * sextNat 16 y)
  | 0x10 => if z ≠ 0 then x else y
  | 0x11 => if condInt 32 (cellParam d) x y then 1 else 0
  | 0x12 => ((img.drop 208).getD (x % 256) 0).toNat
  | 0x13 => wrapInt 32 (if cellParam d = 0 then sextNat 8 x else sextNat 16 x)
  | 0x14 => fadd32 x y
  | 0x15 => fmul32 x y
  | _ => 0

/-- An input's value by selector (Table 17.4), from the sources and the cell values known so far. -/
def selValue (d : Nat) (srcs : List Nat) (vals : List (Option Nat)) (sel : Nat) : Option Nat :=
  if sel = 0 then some 0
  else if sel ≤ 24 then (vals.getD (sel - 1) none)
  else if 0x20 ≤ sel ∧ sel ≤ 0x22 then some (srcs.getD (sel - 0x20) 0)
  else if sel = 0x23 then some (wrapInt 32 (sextNat 16 (d % 2 ^ 16)))
  else some (d % 2 ^ 16)

/-- One round: every cell whose inputs are known gets its value. -/
def patRound (img : List Byte) (srcs : List Nat) (vals : List (Option Nat)) : List (Option Nat) :=
  cells.map fun i =>
    let d := patCell img i
    match (usedSels d).map (selValue d srcs vals) with
    | [some x] => some (cellResult img d x 0 0)
    | [some x, some y] => some (cellResult img d x y 0)
    | [some x, some y, some z] => some (cellResult img d x y z)
    | _ => none

/-- Rounds until every cell of an acyclic pattern has its value. -/
def patRounds (img : List Byte) (srcs : List Nat) : Nat → List (Option Nat) → List (Option Nat)
  | 0, v => v
  | n + 1, v => patRounds img srcs n (patRound img srcs v)

/-- The results of a pattern on three operands: sources and results cut to W bits. -/
def patEval (img : List Byte) (srcs : List Nat) : Nat × Nat :=
  let w := patWidth img
  let vals := patRounds img (srcs.map (· % 2 ^ w)) 24 (cells.map fun _ => none)
  let out := fun r => (vals.getD r none).getD 0 % 2 ^ w
  (out (patHdr img 22 5), out (patHdr img 27 5))

/-! ## Checks (R322, Table 17.5) -/

/-- A c.tval of ILLEGAL_PATTERN. -/
def patFail (reason cell : Nat) : Option Nat := some (reason * 256 + cell)

/-- The lowest cell a check fails for. -/
def patCells (reason : Nat) (img : List Byte) (bad : Nat → Nat → Bool) : Option Nat :=
  match cells.find? fun i => bad i (patCell img i) with
  | some i => patFail reason i
  | none => none

/-- Check 1: header values. -/
def patCheck1 (img : List Byte) : Option Nat :=
  if patHdr img 0 8 ≠ 1 ∨ patHdr img 19 2 = 3 ∨ patNsrc img = 0 ∨ patHdr img 64 64 = 0
      ∨ (!patTwo img ∧ patHdr img 27 5 ≠ 0) then patFail 1 0xFF else none

/-- Check 2: reserved bits, unused selectors, PARAM. A reserved bit of the header is reported before any cell (R322 says so of check
4 alone; DESIGN CHOICE, log entry 115). -/
def patCheck2 (img : List Byte) : Option Nat :=
  if patHdr img 32 32 ≠ 0 ∨ patHdr img 8 4 ≠ 0 then patFail 2 0xFF
  else patCells 2 img fun _ d =>
    let op := cellOp d
    bitsOf d 16 22 != 0 || ((cellSels d).drop (opInputs op)).any (· != 0)
      || (cellParam d != 0 && op != 0x11 && op != 0x13 && decide (op < 0x16))

/-- Check 3: operations. -/
def patCheck3 (img : List Byte) : Option Nat :=
  patCells 3 img fun _ d => decide (cellOp d ≥ 0x16) || (cellOp d == 0x13 && decide (cellParam d ≥ 2))

/-- A cell number that does not exist or is OFF. -/
def patNoCell (img : List Byte) (i : Nat) : Bool := decide (i ≥ 24) || cellOp (patCell img i) == 0

/-- Check 4: routes. -/
def patCheck4 (img : List Byte) : Option Nat :=
  if patNoCell img (patHdr img 22 5) ∨ (patTwo img ∧ patNoCell img (patHdr img 27 5)) then patFail 4 0xFF
  else patCells 4 img fun _ d => (usedSels d).any fun x =>
    (decide (0x19 ≤ x) && decide (x ≤ 0x1F)) || decide (0x25 ≤ x)
      || (decide (1 ≤ x) && decide (x ≤ 24) && patNoCell img (x - 1))
      || (decide (0x20 ≤ x) && decide (x ≤ 0x22) && decide (x - 0x20 ≥ patNsrc img))

/-- The cells each cell depends on, one more round of closure. -/
def ancestors (img : List Byte) : Nat → List (List Nat) → List (List Nat)
  | 0, a => a
  | n + 1, a => ancestors img n (cells.map fun i =>
      ((cellReads (patCell img i)).flatMap fun j => j :: a.getD j []).dedup)

/-- Check 5: cycles. -/
def patCheck5 (img : List Byte) : Option Nat :=
  let a := ancestors img 24 (cells.map fun _ => [])
  patCells 5 img fun i _ => (a.getD i []).contains i

/-- Ready times of cells after a number of rounds. -/
def readyTimes (img : List Byte) : Nat → List Nat → List Nat
  | 0, t => t
  | n + 1, t => readyTimes img n (cells.map fun i =>
      let d := patCell img i
      ((cellReads d).map fun j => t.getD j 0).foldl max 0 + cellCycles (cellOp d))

/-- Check 6: the declared latency against the critical path. -/
def patCheck6 (img : List Byte) : Option Nat :=
  let t := readyTimes img 24 (cells.map fun _ => 0)
  let r0 := patHdr img 22 5
  let r1 := patHdr img 27 5
  let worst := if patTwo img ∧ t.getD r1 0 > t.getD r0 0 then r1 else r0
  if patHdr img 12 4 + 1 < t.getD worst 0 then patFail 6 worst else none

/-- Check 7: FADD and FMUL need W = 32. -/
def patCheck7 (img : List Byte) : Option Nat :=
  patCells 7 img fun _ d => (cellOp d == 0x14 || cellOp d == 0x15) && decide (patWidth img < 32)

/-- Check 8: LUT needs a table. -/
def patCheck8 (img : List Byte) : Option Nat :=
  patCells 8 img fun _ d => cellOp d == 0x12 && patHdr img 21 1 == 0

/-- The checks in the order of Table 17.5: the first failure's c.tval. -/
def patCheck (img : List Byte) : Option Nat :=
  [patCheck1, patCheck2, patCheck3, patCheck4, patCheck5, patCheck6, patCheck7, patCheck8].findSome? fun f => f img

/-! ## Slots (R323, R324) -/

/-- Replaces a slot of a group. -/
def State.setSlot (s : State) (gid k : Nat) (p : PatSlot) : State :=
  s.setGroup gid { s.group gid with patterns := (s.group gid).patterns.set k p }

/-- Whether a command of E5 is bound to slot k: an issued or started VXOP that names it and has not finished. -/
def State.slotBound (s : State) (unit k : Nat) : Bool :=
  unit < 96 && ((s.engine unit 5).issued ++ (s.engine unit 5).started).any fun c =>
    imgClass c.image == 2 && imgOpc c.image == 0x0D && bitsOf c.image.toNat 64 4 == k && !c.finished && !c.pattern.isEmpty

/-- Entries of a proof core's store: group key and slot. -/
def State.storeEntries (s : State) (unit : Nat) : List (Nat × Nat) :=
  (s.groups.filter fun g => g.2.unit == unit && g.2.placed).flatMap fun g =>
    (g.2.patterns.filter fun p => p.2.valid).map fun p => (g.1, p.1)

/-- Whether an entry may be evicted by now. -/
def State.evictable (s : State) (e : Nat × Nat) : Bool :=
  let p := (s.group e.1).patterns.get e.2
  decide (s.cycle ≥ p.loadedAt + 65536) || (p.used && decide (s.cycle ≥ p.loadedAt + 1024))

/-- The entry of another group that would be evicted: the oldest last XOP, ties to the older group and lower slot. -/
def State.evictChoice (s : State) (unit gid : Nat) : Option (Nat × Nat) :=
  let key := fun (e : Nat × Nat) => [((s.group e.1).patterns.get e.2).usedAt, (s.group e.1).age, e.1, e.2]
  ((s.storeEntries unit).filter fun e => e.1 != gid && s.evictable e).foldl (fun best e =>
    match best with
    | none => some e
    | some b => if key e < key b then some e else some b) none

/-- Installs an image in a slot, evicting when a proof core's store is full; none when nothing can be evicted yet. -/
def State.installPattern (s : State) (gid k : Nat) (img : List Byte) : Option State :=
  let unit := (s.group gid).unit
  let put := fun (s : State) => s.setSlot gid k ⟨true, img, s.cycle, s.cycle, false⟩
  if ((s.group gid).patterns.get k).valid ∨ unit < 96 ∨ (s.storeEntries unit).length < 64 then some (put s)
  else match s.evictChoice unit gid with
    | some e => some (put (s.setSlot e.1 e.2 default))
    | none => none

/-- Whether a thread's PATLD waits for a store entry: its slot is empty, no command is bound to it, and its wave runs; with the
slot and the image it has read. -/
def State.entryWaiter (s : State) (tid : Nat) : Option (Nat × List Byte) :=
  let t := s.thread tid
  match t.wait with
  | some (.pattern k img) =>
    if s.mayIssue tid && (s.waveOfThread tid).state == .running && !img.isEmpty
        && !((s.group t.gid).patterns.get k).valid && !s.slotBound (unitOf tid) k then some (k, img) else none
  | _ => none

/-- PATTERN_ENTRY_EVICTABLE: an entry that a waiting PATLD needs has become evictable; it is evicted, and the PATLD installs
its image in the same step and completes (R324, R326). -/
def onPatternEntryEvictable (core : Nat) (s : State) : Option State :=
  if (s.storeEntries (96 + core)).length < 64 then none
  else
    let installed := (s.threads.filter fun p => unitOf p.1 == 96 + core).findSome? fun p =>
      match s.entryWaiter p.1 with
      | some (k, img) => (s.installPattern p.2.gid k img).map fun s => s.wake p.1
      | none => none
    match installed with
    | some s => some s
    | none => none
/-- PATTERN_ENTRY_EVICTABLE: it happens, or nothing does. -/
def execPatternEntryEvictable (core : Nat) (s : State) : Out := happens (onPatternEntryEvictable core) s

/-! ## Instructions (R325-R329) -/

/-- A handler's PATLD or PATDR of a slot bound to a stopped command cannot complete (23 R385). -/
def Cx.stuckSlot (c : Cx) (k : Nat) (s : State) : Bool :=
  isControl c.tid && c.t.prv && s.slotBound (unitOf c.tid) k

/-- PATLD once the image is read: checks, the wait for bound commands, a store entry, and the installation. -/
def Cx.loadPattern (c : Cx) (k : Nat) (img : List Byte) (s : State) : Out :=
  match patCheck img with
  | some v => c.trap causePattern (BitVec.ofNat 64 v) (s.setSlot c.t.gid k default)
  | none =>
    if c.stuckSlot k s then c.trap causeIllegal (BitVec.ofNat 64 c.word) s
    else if s.slotBound (unitOf c.tid) k then c.park (.pattern k img) s
    else match s.installPattern c.t.gid k img with
      | some s => c.done s
      | none => c.park (.pattern k img) s

/-- PATLD (R326). -/
def execPatld (g : Guard) (a : BitVec 6) (k : BitVec 4) : State → Out :=
  coreInstr (.patld g a k) { guard := some g, reads := [a], tat := true } fun c s =>
    match c.t.wait with
    | some (.pattern _ img) => c.loadPattern k.toNat img s
    | _ =>
      let va := (c.t.rd a).toNat
      if va % 16 ≠ 0 then c.trap causeMisaligned (c.t.rd a) s
      else c.readThen va 16 (fun head s =>
        c.readThen (va + 16) (patBytes head - 16) (fun rest s => c.loadPattern k.toNat (head ++ rest) s) s) s

/-- PATDR (R327). -/
def execPatdr (g : Guard) (k : BitVec 4) : State → Out :=
  coreInstr (.patdr g k) { guard := some g, tat := true } fun c s =>
    if !((s.group c.t.gid).patterns.get k.toNat).valid then c.done s
    else if c.stuckSlot k.toNat s then c.trap causeIllegal (BitVec.ofNat 64 c.word) s
    else if s.slotBound (unitOf c.tid) k.toNat then c.park (.pattern k.toNat []) s
    else c.done (s.setSlot c.t.gid k.toNat default)

/-- PATQ (R328). -/
def execPatq (g : Guard) (d : BitVec 6) (k : BitVec 4) : State → Out :=
  coreInstr (.patq g d k) { guard := some g, writes := [d], tat := true } fun c s =>
    let p := (s.group c.t.gid).patterns.get k.toNat
    c.write d (if p.valid then BitVec.ofNat 64 (patHdr p.image 64 64) else 0) s

/-- XOP (R329): a miss, then the sources, then the pair rule, then the destinations. -/
def execXop (g : Guard) (d a b r : BitVec 6) (k : BitVec 4) : State → Out :=
  coreInstr (.xop g d a b r k) { guard := some g, kind := .proof, tat := true } fun c s =>
    let p := (s.group c.t.gid).patterns.get k.toNat
    if !p.valid then c.trap causeMiss (k.setWidth 64) s
    else
      let srcs := [a, b, r].take (patNsrc p.image)
      let two := patTwo p.image
      match sharedFault { reads := srcs } c.word c.tid c.t with
      | some (cause, v) => c.trap cause (BitVec.ofNat 64 v) s
      | none =>
        if two ∧ d.getLsbD 0 then c.trap causeIllegal (BitVec.ofNat 64 c.word) s
        else match sharedFault { writes := if two then [d, d + 1] else [d] } c.word c.tid c.t with
          | some (cause, v) => c.trap cause (BitVec.ofNat 64 v) s
          | none =>
            let (r0, r1) := patEval p.image (srcs.map fun x => (c.t.rd x).toNat)
            let s := s.setSlot c.t.gid k.toNat { p with used := true, usedAt := s.cycle }
            let s := c.upd (·.wr d (BitVec.ofNat 64 r0)) s
            c.done (if two then c.upd (·.wr (d + 1) (BitVec.ofNat 64 r1)) s else s)

end Sys2Proof.Machine
end

