-- ==== Sys2Proof/Machine/Strips.lean ====
section
/-! DEFINITION. The strips E5-E8 (13 R268-R275): the checks of their templates at issue, and the work of every strip opcode
on one vector of 192 elements at a time. -/

namespace Sys2Proof.Machine

/-! ## Template fields (Table 13.8) -/

/-- DST. -/
def Command.dst (c : Command) : Nat := c.fld 91 5
/-- KA, KB, KC. -/
def Command.kinds (c : Command) : List Nat := [c.fld 88 3, c.fld 85 3, c.fld 82 3]
/-- FMT. -/
def Command.fmt (c : Command) : Nat := c.fld 78 4
/-- FMTO. -/
def Command.fmto (c : Command) : Nat := c.fld 74 4
/-- RM. -/
def Command.rm (c : Command) : Nat := c.fld 71 3
/-- SAT. -/
def Command.sat (c : Command) : Nat := c.fld 69 2
/-- SUB. -/
def Command.sub (c : Command) : Nat := c.fld 64 5
/-- The word of operand 0 (A), 1 (B) or 2 (C). -/
def Command.word (c : Command) (i : Nat) : Nat := imgWord c.image (6 - i)
/-- The destination word. -/
def Command.wd (c : Command) : Nat := imgWord c.image 7
/-- The layout an operand word names. -/
def Command.opLay (c : Command) (w : Nat) : Layout := c.lay (w / 2 ^ 28)
/-- Its start: BASE + OFS. -/
def Command.opStart (c : Command) (w : Nat) : Nat := (c.opLay w).base + w % 2 ^ 28
/-- Vectors of the command's extent. -/
def Command.vectors (c : Command) : Nat := (c.count + 191) / 192
/-- Elements of vector v. -/
def Command.vecElems (c : Command) (v : Nat) : List Nat := (List.range (min 192 (c.count - 192 * v))).map (192 * v + ·)

/-! ## Checks at issue (R268, R269, Table 13.9) -/

/-- What the row of Table 13.9 allows: source formats, destination formats for a source format, operands A, B, C
required, rounding codes, saturation allowed, SUB bits that must be zero, operands that must be scratchpad. -/
structure StripRow where
  fmts : List Nat
  dsts : Nat → List Nat
  ops : Bool × Bool × Bool
  rms : List Nat := [0]
  sat : Bool := false
  subZero : Nat := 31
  spA : Bool := false
  spB : Bool := false
  spD : Bool := false
  /-- formats of B and C where the row gives them one of their own -/
  bfmt : Option Nat := none
  cfmt : Option Nat := none

/-- FP32, FP16, BF16. -/
def wideFmts : List Nat := [0, 1, 2]
/-- The integer formats of the strips: INT8 to INT32, UINT8, UINT16. -/
def intFmts : List Nat := [7, 8, 9, 11, 12]
/-- Every format of 8, 16 or 32 bits. -/
def plainFmts : List Nat := [0, 1, 2, 3, 4, 6, 7, 8, 9, 11, 12, 13]
/-- Rounding codes RNE to RNA. -/
def rm04 : List Nat := [0, 1, 2, 3, 4]
/-- Same format out as in. -/
def same (f : Nat) : List Nat := [f]
/-- Formats VCVT converts between: any but E8M0, Picot-8 and INT64. -/
def cvtFmts : List Nat := [0, 1, 2, 3, 4, 5, 7, 8, 9, 11, 12]

/-- The row of an opcode; VPACKMX's B depends on RM, VUNPK's SUB on its format. Where the table names source formats only, FMTO
may be FP32, FP16 or BF16 for VEXP2 to VSQRT, VSCALE, VRED and VSCAN of floats, and must be FMT for integer reductions and
for the opcodes that give back what they are given: VADD to VABS, VSEL, VLOG, VSHF, VPERM, VBCAST and VTRN (DESIGN CHOICE,
log entry 82). -/
def stripRow (c : Command) : Option StripRow :=
  match imgClass c.image, imgOpc c.image with
  | 2, 0x01 | 2, 0x02 | 2, 0x03 => some ⟨wideFmts ++ intFmts, same, (true, true, false), rm04, true, 31, false, false, false, none, none⟩
  | 2, 0x04 => some ⟨wideFmts ++ intFmts, same, (true, true, true), rm04, true, 31, false, false, false, none, none⟩
  | 2, 0x05 | 2, 0x06 => some ⟨wideFmts ++ intFmts, same, (true, true, false), [0], false, 31, false, false, false, none, none⟩
  | 2, 0x07 => some ⟨wideFmts ++ intFmts, same, (true, false, false), [0], true, 31, false, false, false, none, none⟩
  | 2, 0x08 => some ⟨wideFmts ++ intFmts, fun _ => [11], (true, true, false), [0], false, 0x18, false, false, false, none, none⟩
  | 2, 0x09 => some ⟨wideFmts ++ intFmts, same, (true, true, true), [0], false, 31, false, false, false, none, some 11⟩
  | 2, 0x0A => some ⟨plainFmts, same, (true, true, false), [0], false, 0x10, false, false, false, none, none⟩
  | 2, 0x0B => some ⟨intFmts, same, (true, true, false), [0], false, 0x1C, false, false, false, none, none⟩
  | 3, 0x05 => some ⟨wideFmts, fun _ => wideFmts, (true, false, false), rm04, true, 31, false, false, false, none, none⟩
  | 3, 0x01 | 3, 0x02 | 3, 0x03 | 3, 0x04 =>
    some ⟨wideFmts, fun _ => wideFmts, (true, false, false), [0], true, 31, false, false, false, none, none⟩
  | 4, 0x01 => some ⟨cvtFmts, fun _ => cvtFmts, (true, false, false), rm04, true, 31, false, false, false, none, none⟩
  | 4, 0x02 => some ⟨wideFmts, fun _ => [3, 4, 5, 7], (true, c.rm == 5, false), [0, 5], false, 31, false, true, true, none, none⟩
  | 4, 0x03 => some ⟨[3, 4, 5, 7, 13], fun _ => wideFmts, (true, false, false), rm04, false, 0, true, false, false, none, none⟩
  | 4, 0x04 => some ⟨wideFmts, fun _ => wideFmts, (true, true, false), rm04, true, 31, false, false, false, some 9, none⟩
  | 4, 0x05 => some ⟨wideFmts, fun _ => [0, 1, 2, 3, 4, 5], (true, true, false), [0, 1, 2, 3, 4, 5], true, 0, false, true, false, none, none⟩
  | 5, 0x01 | 5, 0x02 =>
    some ⟨wideFmts ++ intFmts, fun f => if f < 3 then wideFmts else [f], (true, false, false), [0], false, 0x18, c.sub / 4 % 2 == 1, false,
          false, none, none⟩
  | 5, 0x03 => some ⟨plainFmts, same, (true, true, false), [0], false, 31, false, false, false, some 9, none⟩
  | 5, 0x04 => some ⟨plainFmts, same, (true, false, false), [0], false, 0x1B, false, false, c.sub / 4 % 2 == 1, none, none⟩
  | 5, 0x05 => some ⟨plainFmts, same, (true, false, false), [0], false, 31, true, false, true, none, none⟩
  | _, _ => none

/-- Block length of a VUNPK by SUB (R275). -/
def unpackBlock (c : Command) : Nat := if c.fmt = 13 then 8 * 2 ^ (c.sub - 2) else 32

/-- Whether an operand word suits its kind; `f` is the format its layout must have, none where it is not checked. -/
def operandOk (c : Command) (kind w bits : Nat) (f : Option Nat) : Bool :=
  match kind with
  | 1 =>
    let l := c.opLay w
    decide (l.bpm < 7) && (match f with | some f => l.fmt == f | none => true)
  | 2 => decide (w < 2 ^ bits)
  | 3 => false
  | _ => w == 0

/-- Whether a destination word suits DST of an engine. -/
def destOk (c : Command) (e : Nat) : Bool :=
  match c.dst with
  | 1 => let l := c.opLay c.wd; decide (l.bpm < 7) && l.fmt == c.fmto
  | 0 => c.wd == 0
  | n => decide (5 ≤ n) && decide (n ≤ 9) && n != e && c.wd == 0

/-- Conditions on SUB, RM, COUNT and extents that Table 13.9 refers to R273 and R275. The X that VPACKMX wants a multiple of 32 is
that of D's layout, by whose rows its blocks lie (R275 does not say whose; DESIGN CHOICE, log entry 114). A COUNT or X that R275 wants a multiple
of 32 or of X and that is none is refused with ILLEGAL_INSTRUCTION at issue (R275 names the cause for VTRN alone;
DESIGN CHOICE, log entry 38). -/
def stripExtra (c : Command) : Bool :=
  let la := c.opLay (c.word 0)
  let ld := c.opLay c.wd
  match imgClass c.image, imgOpc c.image with
  | 4, 0x02 => c.count % 32 == 0 && ld.x % 32 == 0
  | 4, 0x03 => (if c.fmt = 13 then decide (2 ≤ c.sub) && decide (c.sub ≤ 5) else c.sub == 1) && la.x % unpackBlock c == 0
  | 4, 0x05 => (c.sub == 0 && c.rm == 5) || (c.sub == 1 && decide (c.rm < 5))
  | 5, 0x01 | 5, 0x02 => c.sub % 4 != 3 && (c.sub / 4 == 0 || c.count % la.x == 0)
  | 5, 0x05 => ld.x == la.y && ld.y == la.x && c.count % (la.x * la.y) == 0
  | _, _ => true

/-- Whether an unused operand is absent and a used one is there, in the kind it must have. -/
def operandUse (used sp : Bool) (kind : Nat) : Bool := if used then kind != 0 && (!sp || kind == 1) else kind == 0

/-- The checks of a strip template that need no pattern: true when none refuses. -/
def stripOk (c : Command) (e : Nat) : Bool :=
  let k := c.kinds
  match imgClass c.image, imgOpc c.image with
  | 2, 0x0C =>
    c.fmt < 14 && c.fmto < 14 && c.rm == 0 && c.sat == 0 && c.sub == 0 && c.dst == 0 && k.all (· == 0)
      && [c.wd, c.word 0, c.word 1, c.word 2].all (· == 0)
  | 2, 0x0D =>
    let okFmt := fun f => f < 14 && f != 5 && f != 6 && f != 10 && f != 13
    okFmt c.fmt && okFmt c.fmto && c.rm == 0 && c.sat == 0 && decide (c.sub < 16) && destOk c e && c.dst != 0
      && ((List.range 3).all fun i => operandOk c (k.getD i 0) (c.word i) (fmtBits c.fmt) (some c.fmt))
  | _, _ =>
    match stripRow c with
    | none => false
    | some r =>
      r.fmts.contains c.fmt && (r.dsts c.fmt).contains c.fmto && r.rms.contains c.rm && (r.sat || c.sat == 0)
        && !(c.sat == 3 && intFmts.contains c.fmto) && c.sub &&& r.subZero == 0
        && destOk c e && c.dst != 0 && (!r.spD || c.dst == 1)
        && operandUse r.ops.1 r.spA (k.getD 0 0) && operandUse r.ops.2.1 r.spB (k.getD 1 0)
        && operandUse r.ops.2.2 false (k.getD 2 0)
        && operandOk c (k.getD 0 0) (c.word 0) (fmtBits c.fmt) (some c.fmt)
        && operandOk c (k.getD 1 0) (c.word 1) (fmtBits (r.bfmt.getD c.fmt))
             (if r.spB then none else some (r.bfmt.getD c.fmt))
        && operandOk c (k.getD 2 0) (c.word 2) (fmtBits (r.cfmt.getD c.fmt)) (some (r.cfmt.getD c.fmt))
        && stripExtra c

/-- Whether a command reads a draw record at its issue (R273). -/
def readsDraw (c : Command) : Bool :=
  imgClass c.image == 4 && (imgOpc c.image == 5 || (imgOpc c.image == 2 && c.rm == 5))

/-! ## Operands of a vector -/

/-- An operand's bits for element e: scratchpad, scalar or stream lane; none reads 0. -/
def State.operand (s : State) (tile eng : Nat) (c : Command) (i bits e : Nat) : Eng Nat :=
  let w := c.word i
  match c.kinds.getD i 0 with
  | 0 => .ok 0
  | 1 => s.spElem tile (c.opLay w) (c.opStart w) bits e
  | 2 => .ok (w % 2 ^ bits)
  | k => ((s.engine tile eng).vectorAt (k - 4) (e / 192 - c.freed.get (k - 4))).andThen fun v =>
      .ok ((SMap.get v (e % 192)).toNat % 2 ^ bits)

/-- The input streams a command reads, each once. -/
def Command.inputs (c : Command) : List Nat := ((c.kinds.filter (· ≥ 4)).map (· - 4)).dedup

/-- Whether every input stream holds its next vector. -/
def State.inputsReady (s : State) (tile e : Nat) (c : Command) : Bool :=
  c.inputs.all fun i => !((s.engine tile e).streams.get i).isEmpty

/-- Frees the next vector of every input stream of a command. -/
def State.freeInputs (s : State) (tile e : Nat) (c : Command) : State × Command :=
  (s.setEngine tile e (c.inputs.foldl Engine.freeSlot (s.engine tile e)),
   { c with freed := c.inputs.foldl (fun m i => m.upd i (· + 1)) c.freed })

/-- Writes results at destination elements `es`: scratchpad places, or one vector of the destination stream. -/
def State.deliverElems (s : State) (tile e : Nat) (c : Command) (es vals : List Nat) : Eng State :=
  match c.dst with
  | 0 => .ok s
  | 1 =>
    let l := c.opLay c.wd
    s.spPutAll tile ((es.map fun i => l.cell (c.opStart c.wd) (fmtBits c.fmto) i).zip vals)
  | d => s.sendVector tile e d vals

/-- Ends the work on a vector: its slots are freed, the cursor moves on, and after the last vector the command is
finished. -/
def State.nextVector (s : State) (tile e : Nat) (c : Command) : State :=
  let (s, c) := s.freeInputs tile e c
  s.setCommand tile e { c with cursor := c.cursor + 1, finished := decide (c.cursor + 1 ≥ c.vectors) }

/-- The place of the 2-byte Picot-8 index that element e of VUNPK's source is in (R265). -/
def Command.picotIndexAt (c : Command) (w e : Nat) : Nat :=
  let ix := (c.opLay w).index e
  (c.opLay w).place (c.opStart w) 2 32 (ix.1 / 8 * 8, ix.2)

/-- The place of D that VTRN writes element e of A to: (i0, i1, i2, i3) of A goes to (i1, i0, i2, i3) of D (R275). -/
def Command.trnAt (c : Command) (e : Nat) : Nat :=
  let ix := (c.opLay (c.word 0)).index e
  (c.opLay c.wd).place (c.opStart c.wd) (fmtBits c.fmto) 32 (ix.2.1, ix.1, ix.2.2)

/-- The footprints of a strip command's scratchpad operands (21 R371): every byte that it may read or write lies in one. -/
def stripFoot (_ : State) (_ : Nat) (c : Command) : List (Nat × Nat × Bool) :=
  let cells := fun (w bits n : Nat) => (List.range n).map fun i => ((c.opLay w).elem (c.opStart w) bits 32 i, (bits + 7) / 8)
  let scales := fun (w bits n : Nat) (blk sb : Nat) =>
    (List.range ((n + blk - 1) / blk)).map fun b =>
      ((c.opLay w).scale (c.opStart w) bits (b * blk) (b * blk % (c.opLay w).x / blk * sb), sb)
  let add := fun (l : List (Nat × Nat)) (wr : Bool) =>
    if l.isEmpty then [] else [((footprintOf l).1, (footprintOf l).2, wr)]
  let opBits := fun i => if imgClass c.image = 4 ∧ imgOpc c.image = 3 ∧ c.fmt = 13 then 2
    else if i = 1 ∧ (stripRow c).any (·.bfmt.isSome) then 32
    else if i = 2 ∧ imgClass c.image = 2 ∧ imgOpc c.image = 9 then 8 else fmtBits c.fmt
  let src := (List.range 3).flatMap fun i =>
    if c.kinds.getD i 0 = 1 then
      if i = 1 ∧ readsDraw c then [((c.opLay (c.word 1)).elem (c.opStart (c.word 1)) 32 32 0,
        (c.opLay (c.word 1)).elem (c.opStart (c.word 1)) 32 32 0 + 32, false)]
      else
        -- VBCAST reads a[0], or one element a row of D (R275)
        let n := if imgClass c.image = 5 ∧ imgOpc c.image = 4 then
            (if c.count = 0 then 0 else if c.sub / 4 % 2 = 1 then (c.count - 1) / (c.opLay c.wd).x + 1 else 1)
          else c.count
        let sc := if imgClass c.image = 4 ∧ imgOpc c.image = 3 then
          scales (c.word i) (opBits i) c.count (unpackBlock c) (if c.fmt = 13 then 2 else 1) else []
        let own := if imgClass c.image = 4 ∧ imgOpc c.image = 3 ∧ c.fmt = 13 then
          (List.range n).map fun k => (c.picotIndexAt (c.word i) k, 2) else cells (c.word i) (opBits i) n
        add (own ++ sc) false
    else []
  let results := if imgClass c.image = 5 ∧ imgOpc c.image = 1 then
      (if c.count = 0 then 0 else if c.sub / 4 % 2 = 1 then c.count / (c.opLay (c.word 0)).x else 1)
    else if imgClass c.image = 2 ∧ imgOpc c.image = 0x0D ∧ patTwo c.pattern then 2 * c.count else c.count
  let out := if c.dst = 1 then
      let sc := if imgClass c.image = 4 ∧ imgOpc c.image = 2 then scales c.wd (fmtBits c.fmto) c.count 32 1 else []
      let own := if imgClass c.image = 5 ∧ imgOpc c.image = 5 then
          (List.range results).map fun k => (c.trnAt k, (fmtBits c.fmto + 7) / 8) else cells c.wd (fmtBits c.fmto) results
      add (own ++ sc) true
    else []
  src ++ out

/-- The work of an element-wise opcode on one vector: `f` gives a result from the element number and operands; `bits`
are the widths of A, B and C. -/
def elemWork (bits : Command → Nat × Nat × Nat) (f : Command → Nat → Nat → Nat → Nat → Nat) (s : State) (tile e : Nat)
    (c : Command) : Eng State :=
  if c.cursor ≥ c.vectors then .ok (s.setCommand tile e { c with finished := true })
  else if !s.inputsReady tile e c then .stall
  else
    let es := c.vecElems c.cursor
    let (ba, bb, bc) := bits c
    let get := fun (n bits i : Nat) => if bits = 0 then Eng.ok 0 else s.operand tile e c n bits i
    (Eng.collect (fun i => (get 0 ba i).andThen fun a => (get 1 bb i).andThen fun b =>
        (get 2 bc i).andThen fun x => .ok (f c i a b x)) es).andThen fun vals =>
      (s.deliverElems tile e c es vals).andThen fun s => .ok (s.nextVector tile e c)

/-- All operands in the source format. -/
def plainBits (c : Command) : Nat × Nat × Nat := (fmtBits c.fmt, fmtBits c.fmt, fmtBits c.fmt)

/-- An element-wise opcode. -/
def elemOp (cls opc : Nat) (bits : Command → Nat × Nat × Nat) (f : Command → Nat → Nat → Nat → Nat → Nat) : EngOp :=
  { cls := cls, opc := opc, foot := stripFoot, work := elemWork bits f }

/-! ## Arithmetic of strip A (R270) -/

/-- The signed or unsigned value of an integer element. -/
def intValue (fmt x : Nat) : Int :=
  match intOf fmt with
  | some (n, true) => sextNat n x
  | _ => (x : Int)

/-- An arithmetic result: floats by a rounded operation and SAT, integers exactly and then wrapped or clamped. -/
def arith (ff : FloatFmt → Nat → Nat) (fi : Int) (c : Command) : Nat :=
  match floatOf c.fmt with
  | some f => satF f c.sat (ff f c.rm)
  | none => satInt c.sat (fmtBits c.fmto) fi

/-- VADD. -/
def opVadd : EngOp := elemOp 2 0x01 plainBits fun c _ a b _ =>
  arith (fun f m => (addF f m false a b).bits) (intValue c.fmt a + intValue c.fmt b) c
/-- VSUB. -/
def opVsub : EngOp := elemOp 2 0x02 plainBits fun c _ a b _ =>
  arith (fun f m => (subF f m false a b).bits) (intValue c.fmt a - intValue c.fmt b) c
/-- VMUL. -/
def opVmul : EngOp := elemOp 2 0x03 plainBits fun c _ a b _ =>
  arith (fun f m => (mulF f m false a b).bits) (intValue c.fmt a * intValue c.fmt b) c
/-- VFMA. -/
def opVfma : EngOp := elemOp 2 0x04 plainBits fun c _ a b x =>
  arith (fun f m => (fmaF f m false a b x).bits) (intValue c.fmt a * intValue c.fmt b + intValue c.fmt x) c
/-- The minimum or maximum of two elements. -/
def minMaxElem (max : Bool) (fmt a b : Nat) : Nat :=
  match floatOf fmt with
  | some f => (minMaxF f false max a b).bits
  | none => if (decide (intValue fmt a ≤ intValue fmt b)) != max then a else b
/-- VMIN. -/
def opVmin : EngOp := elemOp 2 0x05 plainBits fun c _ a b _ => minMaxElem false c.fmt a b
/-- VMAX. -/
def opVmax : EngOp := elemOp 2 0x06 plainBits fun c _ a b _ => minMaxElem true c.fmt a b
/-- VABS: the sign cleared, or the magnitude. -/
def opVabs : EngOp := elemOp 2 0x07 plainBits fun c _ a _ _ =>
  match floatOf c.fmt with
  | some f => satF f c.sat (a % 2 ^ (f.width - 1))
  | none => satInt c.sat (fmtBits c.fmt) ((intValue c.fmt a).natAbs : Int)
/-- VCMP: FCMP's conditions on floats, CMP's on widened integers. -/
def opVcmp : EngOp := elemOp 2 0x08 plainBits fun c _ a b _ =>
  let cond := c.sub % 8
  let r := match floatOf c.fmt with
    | some f => (cmpF f false cond a b).1
    | none => condInt 64 cond (wrapInt 64 (intValue c.fmt a)) (wrapInt 64 (intValue c.fmt b))
  if r then 1 else 0
/-- VSEL: C is UINT8. -/
def opVsel : EngOp := elemOp 2 0x09 (fun c => (fmtBits c.fmt, fmtBits c.fmt, 8)) fun _ _ a b x => if x ≠ 0 then a else b
/-- VLOG: each bit by the truth table SUB. -/
def opVlog : EngOp := elemOp 2 0x0A plainBits fun c _ a b _ =>
  (List.range (fmtBits c.fmt)).foldl (fun r i =>
    r + (if bitOf c.sub (2 * bitsOf a i 1 + bitsOf b i 1) then 2 ^ i else 0)) 0
/-- VSHF: SHL, SHR, SAR, ROTL by b mod width. -/
def opVshf : EngOp := elemOp 2 0x0B plainBits fun c _ a b _ =>
  let n := fmtBits c.fmt
  let k := b % n
  match c.sub % 4 with
  | 0 => a * 2 ^ k % 2 ^ n
  | 1 => a / 2 ^ k
  | 2 => wrapInt n (sextNat n a / (2 ^ k : Nat))
  | _ => (a * 2 ^ k + a / 2 ^ (n - k)) % 2 ^ n

/-- VIDLE: its cycles pass with the clock; VIDLE_END completes it. It holds the strip for COUNT cycles from its start
(`Engine.idles`). -/
def opVidle : EngOp :=
  { cls := 2, opc := 0x0C
    start := fun s _ _ c => .ok (s, { c with cursor := s.cycle + c.count })
    work := fun _ _ _ _ => .stall }

/-- The bits of a pattern's operands. -/
def opVxopWork (s : State) (tile e : Nat) (c : Command) : Eng State :=
  if c.cursor ≥ c.vectors then .ok (s.setCommand tile e { c with finished := true })
  else if !s.inputsReady tile e c then .stall
  else
    let es := c.vecElems c.cursor
    let n := fmtBits c.fmt
    (Eng.collect (fun i => (s.operand tile e c 0 n i).andThen fun a => (s.operand tile e c 1 n i).andThen fun b =>
        (s.operand tile e c 2 n i).andThen fun x => .ok (patEval c.pattern [a, b, x])) es).andThen fun rs =>
      let second := fun (s : State) =>
        if patTwo c.pattern then s.deliverElems tile e c (es.map (· + c.count)) (rs.map (·.2)) else .ok s
      (s.deliverElems tile e c es (rs.map (·.1))).andThen fun s =>
        (second s).andThen fun s => .ok (s.nextVector tile e c)

/-- VXOP (17 R330): result 1 goes to elements COUNT and up, or to the following vector of a stream. -/
def opVxop : EngOp := { cls := 2, opc := 0x0D, foot := stripFoot, work := opVxopWork }

/-! ## Strip S (R274) -/

/-- A special function on one element: widened, computed at FP32, rounded to FMTO, saturated. -/
def specialElem (fn : SpecialFn) (c : Command) (a : Nat) : Nat :=
  match floatOf c.fmt, floatOf c.fmto with
  | some f, some o => satF o c.sat (deliver o 0 false (decodeF fp32 (special32 fn (decodeF f a)).bits)).bits
  | _, _ => 0

/-- VEXP2. -/
def opVexp2 : EngOp := elemOp 3 0x01 plainBits fun c _ a _ _ => specialElem .exp2 c a
/-- VLOG2. -/
def opVlog2 : EngOp := elemOp 3 0x02 plainBits fun c _ a _ _ => specialElem .log2 c a
/-- VRCP. -/
def opVrcp : EngOp := elemOp 3 0x03 plainBits fun c _ a _ _ => specialElem .rcp c a
/-- VRSQ. -/
def opVrsq : EngOp := elemOp 3 0x04 plainBits fun c _ a _ _ => specialElem .rsq c a
/-- VSQRT: the root rounded once to FMTO. -/
def sqrtTo (c : Command) (a : Nat) : Nat :=
  match floatOf c.fmt, floatOf c.fmto with
  | some f, some o =>
    let r := match decodeF f a with
      | .nan _ => o.canonNan
      | .inf neg => if neg then o.canonNan else o.infBits
      | .fin neg m e =>
        if m = 0 then o.signBit neg
        else if neg then o.canonNan
        else let (r, q, st) := sqrtMag m e; (roundF o c.rm false false r q st).bits
    satF o c.sat r
  | _, _ => 0
/-- VSQRT. -/
def opVsqrt : EngOp := elemOp 3 0x05 plainBits fun c _ a _ _ => sqrtTo c a

/-! ## Strip C (R273, R275) -/

/-- An exact value rounded to a format in a mode. -/
def toFmt (fmto mode : Nat) (v : FVal) : Nat :=
  match floatOf fmto with
  | some o => if fmto < 3 then (deliver o mode false v).bits else (narrowSmall o mode v).bits
  | none => 0

/-- VCVT (R58, R59). -/
def opVcvt : EngOp := elemOp 4 0x01 plainBits fun c _ a _ _ => convertSat c.fmt c.fmto c.rm c.sat a

/-- A value times 2^b; b is cut to a range beyond which every result is the same. -/
def scaleBy (v : FVal) (b : Int) : FVal :=
  match v with
  | .fin n m e => .fin n m (e + max (-1024) (min b 1024))
  | v => v

/-- VSCALE: round(a * 2^b) in FMTO. -/
def opVscale : EngOp := elemOp 4 0x04 (fun c => (fmtBits c.fmt, 32, 0)) fun c _ a b _ =>
  match floatOf c.fmt, floatOf c.fmto with
  | some f, some o => satF o c.sat (toFmt c.fmto c.rm (scaleBy (decodeF f a) (sextNat 32 b)))
  | _, _ => 0

/-- The draw of element e: R273's counter over the layout of A, else D, else the element number. -/
def drawOf (c : Command) (e : Nat) : Nat :=
  let d := c.draw.toNat
  let ix : Nat × Nat × Nat × Nat :=
    if c.kinds.getD 0 0 = 1 then (c.opLay (c.word 0)).index e
    else if c.dst = 1 then (c.opLay c.wd).index e else (e, 0, 0, 0)
  let ctr := bitsOf d 0 64 + ix.1 + ix.2.1 * bitsOf d 160 32 + ix.2.2.1 * bitsOf d 192 32 + ix.2.2.2 * bitsOf d 224 32
  qcg c.rkey.toNat (ctr % 2 ^ 64) (bitsOf d 64 32)

/-- Stochastic rounding of a value to a format (03 R54); NaN and infinities as R59. -/
def stoTo (fmto : Nat) (v : FVal) (d : Nat) : Nat :=
  match floatOf fmto, v with
  | some o, .fin n m e => roundSto o n m e d
  | _, _ => toFmt fmto 0 v

/-- VSRND: stochastic rounding, or dropout scaled by KSCALE. -/
def opVsrnd : EngOp := elemOp 4 0x05 (fun c => (fmtBits c.fmt, 0, 0)) fun c e a _ _ =>
  match floatOf c.fmt, floatOf c.fmto with
  | some f, some o =>
    let v := decodeF f a
    let q := drawOf c e
    let r :=
      if c.sub = 0 then stoTo c.fmto v q
      else if q ≥ bitsOf c.draw.toNat 96 32 then
        toFmt c.fmto c.rm (mulV v (decodeF fp32 (bitsOf c.draw.toNat 128 32))).1
      else 0
    satF o c.sat r
  | _, _ => 0

/-- Blocks of 32 of a list. -/
def blocks32 {α : Type} : Nat → List α → List (List α)
  | 0, _ => []
  | n + 1, l => if l.isEmpty then [] else l.take 32 :: blocks32 n (l.drop 32)

/-- VPACKMX on one vector: six blocks, elements and scales placed by R265. -/
def packWork (s : State) (tile e : Nat) (c : Command) : Eng State :=
  if c.cursor ≥ c.vectors then .ok (s.setCommand tile e { c with finished := true })
  else if !s.inputsReady tile e c then .stall
  else
    let es := c.vecElems c.cursor
    let l := c.opLay c.wd
    let start := c.opStart c.wd
    let bits := fmtBits c.fmto
    match floatOf c.fmt with
    | none => .stall
    | some f =>
      (Eng.collect (s.operand tile e c 0 (fmtBits c.fmt)) es).andThen fun vals =>
        let packs := (blocks32 6 (es.zip vals)).map fun b =>
          let draws := if c.rm = 5 then some (b.map fun p => drawOf c p.1) else none
          (b.map (·.1), mxPack c.fmto draws (b.map fun p => decodeF f p.2))
        let cells := packs.flatMap fun p =>
          let first := p.1.headD 0
          ((p.1.map fun i => l.cell start bits i).zip p.2.2)
            ++ [((l.scale start bits first (first % l.x / 32), 8, false), p.2.1)]
        (s.spPutAll tile cells).andThen fun s => .ok (s.nextVector tile e c)

/-- VPACKMX. -/
def opVpackmx : EngOp := { cls := 4, opc := 0x02, foot := stripFoot, work := packWork }

/-- The scale bytes of the block holding element i of A, as a number. -/
def State.scaleAt (s : State) (tile : Nat) (l : Layout) (start bits blk sb i : Nat) : Eng Nat :=
  let a := l.scale start bits i (i % l.x / blk * sb)
  (s.spAt tile a sb).andThen fun p => s.engRead p a sb

/-- VUNPK's value of element i of A (03 R61, R65). -/
def State.unpackElem (s : State) (tile : Nat) (c : Command) (i : Nat) : Eng Nat :=
  let w := c.word 0
  let l := c.opLay w
  let start := c.opStart w
  if c.fmt = 13 then
    let a := c.picotIndexAt w i
    (s.spAt tile a 2).andThen fun p => (s.engRead p a 2).andThen fun idx =>
      (s.scaleAt tile l start 2 (unpackBlock c) 2 i).andThen fun sc =>
        .ok (toFmt c.fmto c.rm (decodeF fp32 (rne32 (mulV (picotValue idx ((l.index i).1 % 8)) (decodeF bf16 sc)).1)))
  else
    (s.spElem tile l start (fmtBits c.fmt) i).andThen fun x =>
      (s.scaleAt tile l start (fmtBits c.fmt) 32 1 i).andThen fun sc =>
        .ok (toFmt c.fmto c.rm (decodeF fp32 (rne32 (scaleE8 sc (mxElem c.fmt x)))))

/-- VUNPK on one vector. -/
def unpackWork (s : State) (tile e : Nat) (c : Command) : Eng State :=
  if c.cursor ≥ c.vectors then .ok (s.setCommand tile e { c with finished := true })
  else
    let es := c.vecElems c.cursor
    (Eng.collect (s.unpackElem tile c) es).andThen fun vals =>
      (s.deliverElems tile e c es vals).andThen fun s => .ok (s.nextVector tile e c)

/-- VUNPK. -/
def opVunpk : EngOp := { cls := 4, opc := 0x03, foot := stripFoot, work := unpackWork }

/-! ## Strip X (R275) -/

/-- The operation of VRED and VSCAN on values held at FP32 or at the element width (03 R77). -/
def redOp (c : Command) (a b : Nat) : Nat :=
  match floatOf c.fmt with
  | some _ => if c.sub % 4 = 0 then fadd32 a b else (minMaxF fp32 false (c.sub % 4 == 2) a b).bits
  | none => if c.sub % 4 = 0 then (a + b) % 2 ^ fmtBits c.fmt else minMaxElem (c.sub % 4 == 2) c.fmt a b

/-- An element widened for a reduction. -/
def redIn (c : Command) (x : Nat) : Nat :=
  match floatOf c.fmt with
  | some f => widen32 f x
  | none => x

/-- A reduction's result rounded to FMTO. -/
def redOut (c : Command) (x : Nat) : Nat :=
  match floatOf c.fmt with
  | some _ => toFmt c.fmto 0 (decodeF fp32 x)
  | none => x

/-- Elements of one list of VRED and VSCAN: a row of A, or the whole extent. -/
def listLen (c : Command) : Nat := if c.sub / 4 % 2 = 1 then (c.opLay (c.word 0)).x else c.count

/-- Results that stand ready of a running reduction: what has been gathered of the current list, and its new results. -/
def redStep (c : Command) : List Nat → List Nat → List Nat → List Nat × List Nat
  | [], cur, out => (cur, out)
  | x :: xs, cur, out =>
    let cur := cur ++ [x]
    if cur.length = listLen c then redStep c xs [] (out ++ [redOut c (reduceTree (redOp c) 0 cur)])
    else redStep c xs cur out

/-- Values of `partials` under a tag: 0 the current list, 1 results not yet sent. -/
def tagged (c : Command) (tag : Nat) : List Nat := (c.partials.filter (·.1 == tag)).map (·.2)
/-- `partials` from its two lists. -/
def tagLists (cur out : List Nat) : List (Nat × Nat) := cur.map (0, ·) ++ out.map (1, ·)

/-- VRED on one source vector; of an empty extent it writes nothing and completes (R74's tree has no result for an empty list;
DESIGN CHOICE, log entry 100). The vector's stream slot is freed once it is folded (when R260 frees it the manual does not say;
DESIGN CHOICE, log entry 83). Results go to the scratchpad in row order as their lists end, or gather into vectors of a
destination stream; `sent` counts them. -/
def redWork (s : State) (tile e : Nat) (c : Command) : Eng State :=
  let out := tagged c 1
  let last := decide (c.cursor ≥ c.vectors)
  if c.dst ≠ 1 ∧ (out.length ≥ 192 ∨ (last ∧ out ≠ [])) then
    (s.deliverElems tile e c [] (out.take 192)).andThen fun s =>
      .ok (s.setCommand tile e { c with partials := tagLists (tagged c 0) (out.drop 192), sent := c.sent + 192 })
  else if last then .ok (s.setCommand tile e { c with finished := true })
  else if !s.inputsReady tile e c then .stall
  else
    (Eng.collect (s.operand tile e c 0 (fmtBits c.fmt)) (c.vecElems c.cursor)).andThen fun vals =>
      let (cur, res) := redStep c (vals.map (redIn c)) (tagged c 0) []
      let wrote : Eng (State × Command) :=
        if c.dst = 1 then
          (s.deliverElems tile e c ((List.range res.length).map (c.sent + ·)) res).andThen fun s =>
            .ok (s, { c with partials := tagLists cur [], sent := c.sent + res.length })
        else .ok (s, { c with partials := tagLists cur (out ++ res) })
      wrote.andThen fun p =>
        let (s, c) := p.1.freeInputs tile e p.2
        .ok (s.setCommand tile e { c with
          cursor := c.cursor + 1, finished := decide (c.cursor + 1 ≥ c.vectors) && (tagged c 1).isEmpty })

/-- VRED. -/
def opVred : EngOp := { cls := 5, opc := 0x01, foot := stripFoot, work := redWork }

/-- The scanned values of a run of elements: each is the last of the scan of its list so far. -/
def scanRun (c : Command) : List Nat → List Nat → List Nat × List Nat
  | [], cur => (cur, [])
  | x :: xs, cur =>
    let cur := cur ++ [x]
    let y := (scanTree (redOp c) (Nat.log2 cur.length + 1) 1 cur).getLastD 0
    let (rest, ys) := scanRun c xs (if cur.length = listLen c then [] else cur)
    (rest, redOut c y :: ys)

/-- VSCAN on one vector, whose stream slot is freed once it is scanned (DESIGN CHOICE, log entry 83). -/
def scanWork (s : State) (tile e : Nat) (c : Command) : Eng State :=
  if c.cursor ≥ c.vectors then .ok (s.setCommand tile e { c with finished := true })
  else if !s.inputsReady tile e c then .stall
  else
    let es := c.vecElems c.cursor
    (Eng.collect (s.operand tile e c 0 (fmtBits c.fmt)) es).andThen fun vals =>
      let (cur, ys) := scanRun c (vals.map (redIn c)) (tagged c 0)
      (s.deliverElems tile e c es ys).andThen fun s => .ok (s.nextVector tile e { c with partials := tagLists cur [] })

/-- VSCAN. -/
def opVscan : EngOp := { cls := 5, opc := 0x02, foot := stripFoot, work := scanWork }

/-- VPERM within a vector: b of 192 or more, or naming an element at or beyond COUNT, gives zero. -/
def permWork (s : State) (tile e : Nat) (c : Command) : Eng State :=
  if c.cursor ≥ c.vectors then .ok (s.setCommand tile e { c with finished := true })
  else if !s.inputsReady tile e c then .stall
  else
    let es := c.vecElems c.cursor
    (Eng.collect (fun i => (s.operand tile e c 1 32 i).andThen fun b =>
        if b ≥ 192 ∨ 192 * c.cursor + b ≥ c.count then .ok 0
        else s.operand tile e c 0 (fmtBits c.fmt) (192 * c.cursor + b)) es).andThen fun vals =>
      (s.deliverElems tile e c es vals).andThen fun s => .ok (s.nextVector tile e c)

/-- VPERM. -/
def opVperm : EngOp := { cls := 5, opc := 0x03, foot := stripFoot, work := permWork }

/-- The source element of destination element i of VBCAST. -/
def bcastSrc (c : Command) (i : Nat) : Nat := if c.sub / 4 % 2 = 1 then i / (c.opLay c.wd).x else 0

/-- VBCAST on one destination vector. A stream vector is freed once no later result depends on it; the command takes as
many vectors as any reader of its COUNT (R261). -/
def bcastWork (s : State) (tile e : Nat) (c : Command) : Eng State :=
  let took := c.inputs.all fun i => decide (c.freed.get i ≥ c.vectors)
  if c.cursor ≥ c.vectors then
    if took then .ok (s.setCommand tile e { c with finished := true })
    else if !s.inputsReady tile e c then .stall
    else let (s, c) := s.freeInputs tile e c; .ok (s.setCommand tile e c)
  else
    let es := c.vecElems c.cursor
    (Eng.collect (fun i => s.operand tile e c 0 (fmtBits c.fmt) (bcastSrc c i)) es).andThen fun vals =>
      (s.deliverElems tile e c es vals).andThen fun s =>
        let next := bcastSrc c (192 * (c.cursor + 1)) / 192
        let behind := c.inputs.any fun i => decide (c.freed.get i < next)
        let (s, c) := if behind ∧ c.cursor + 1 < c.vectors then s.freeInputs tile e c else (s, c)
        .ok (s.setCommand tile e { c with
          cursor := c.cursor + 1, finished := decide (c.cursor + 1 ≥ c.vectors) && c.inputs.isEmpty })

/-- VBCAST. -/
def opVbcast : EngOp := { cls := 5, opc := 0x04, foot := stripFoot, work := bcastWork }

/-- VTRN on one source vector: element (i0, i1, i2, i3) of A goes to (i1, i0, i2, i3) of D. -/
def trnWork (s : State) (tile e : Nat) (c : Command) : Eng State :=
  if c.cursor ≥ c.vectors then .ok (s.setCommand tile e { c with finished := true })
  else
    let es := c.vecElems c.cursor
    (Eng.collect (s.operand tile e c 0 (fmtBits c.fmt)) es).andThen fun vals =>
      let cells := es.map fun i => (c.trnAt i, fmtBits c.fmto, false)
      (s.spPutAll tile (cells.zip vals)).andThen fun s => .ok (s.nextVector tile e c)

/-- VTRN. -/
def opVtrn : EngOp := { cls := 5, opc := 0x05, foot := stripFoot, work := trnWork }

/-! ## The rows -/

/-- VADD. -/
def execVadd (s : State) : Out := opVadd.exec s
/-- VSUB. -/
def execVsub (s : State) : Out := opVsub.exec s
/-- VMUL. -/
def execVmul (s : State) : Out := opVmul.exec s
/-- VFMA. -/
def execVfma (s : State) : Out := opVfma.exec s
/-- VMIN. -/
def execVmin (s : State) : Out := opVmin.exec s
/-- VMAX. -/
def execVmax (s : State) : Out := opVmax.exec s
/-- VABS. -/
def execVabs (s : State) : Out := opVabs.exec s
/-- VCMP. -/
def execVcmp (s : State) : Out := opVcmp.exec s
/-- VSEL. -/
def execVsel (s : State) : Out := opVsel.exec s
/-- VLOG. -/
def execVlog (s : State) : Out := opVlog.exec s
/-- VSHF. -/
def execVshf (s : State) : Out := opVshf.exec s
/-- VIDLE: it starts, and holds the strip until VIDLE_END. -/
def execVidle (s : State) : Out := opVidle.exec s
/-- VXOP. -/
def execVxop (s : State) : Out := opVxop.exec s
/-- VEXP2. -/
def execVexp2 (s : State) : Out := opVexp2.exec s
/-- VLOG2. -/
def execVlog2 (s : State) : Out := opVlog2.exec s
/-- VRCP. -/
def execVrcp (s : State) : Out := opVrcp.exec s
/-- VRSQ. -/
def execVrsq (s : State) : Out := opVrsq.exec s
/-- VSQRT. -/
def execVsqrt (s : State) : Out := opVsqrt.exec s
/-- VCVT. -/
def execVcvt (s : State) : Out := opVcvt.exec s
/-- VPACKMX. -/
def execVpackmx (s : State) : Out := opVpackmx.exec s
/-- VUNPK. -/
def execVunpk (s : State) : Out := opVunpk.exec s
/-- VSCALE. -/
def execVscale (s : State) : Out := opVscale.exec s
/-- VSRND. -/
def execVsrnd (s : State) : Out := opVsrnd.exec s
/-- VRED. -/
def execVred (s : State) : Out := opVred.exec s
/-- VSCAN. -/
def execVscan (s : State) : Out := opVscan.exec s
/-- VPERM. -/
def execVperm (s : State) : Out := opVperm.exec s
/-- VBCAST. -/
def execVbcast (s : State) : Out := opVbcast.exec s
/-- VTRN. -/
def execVtrn (s : State) : Out := opVtrn.exec s

/-- VIDLE_END: a started VIDLE whose cycles have passed completes. -/
def onVidleEnd (s : State) : Option State :=
  match s.cur with
  | .engine tile e =>
    if (s.tile tile).stopped then none
    else match (s.engine tile e).started.find? fun c =>
        opVidle.isFor c && !c.finished && decide (c.cursor ≤ s.cycle) with
      | some c => some (s.setCommand tile e { c with finished := true, cursor := 0 })
      | none => none
  | _ => none
/-- VIDLE_END: it happens, or nothing does. -/
def execVidleEnd (s : State) : Out := happens onVidleEnd s

end Sys2Proof.Machine
end

