-- ==== Sys2Proof/Machine/Copy.lean ====
section
/-! DEFINITION. The copy engine E9 (13 R276-R284): the checks of its templates at issue, and the work of CPY, GATH, SCAT,
MCST, HALO, COLL and DPOS on one 256-byte chunk or one stream vector at a time, with the counting of chunks. -/

namespace Sys2Proof.Machine

/-! ## Template fields (Tables 13.11a, 13.12) -/

/-- SRC operand word. -/
def Command.src (c : Command) : Nat := c.fld 192 64
/-- DST operand word. -/
def Command.cdst (c : Command) : Nat := c.fld 128 64
/-- KIND of an operand word. -/
def opKind (w : Nat) : Nat := bitsOf w 60 4
/-- LS layout. -/
def Command.ls (c : Command) : Layout := c.lay (c.fld 92 4)
/-- LD layout. -/
def Command.ld (c : Command) : Layout := c.lay (c.fld 88 4)
/-- CEN. -/
def Command.cen (c : Command) : Bool := c.fld 87 1 == 1
/-- CTILE. -/
def Command.ctile (c : Command) : Nat := c.fld 80 7
/-- CSEM. -/
def Command.csem (c : Command) : Nat := c.fld 74 6
/-- SUB of a copy template. -/
def Command.csub (c : Command) : Nat := c.fld 70 4
/-- XPK. -/
def Command.xpk (c : Command) : Bool := c.fld 69 1 == 1

/-- Whether an operand kind reads a layout: VS, SP, MG. -/
def kindHasLayout (k : Nat) : Bool := k == 2 || k == 3 || k == 5

/-- GATH or SCAT, whose index list has a layout of its own. -/
def isRows (c : Command) : Bool := imgOpc c.image == 2 || imgOpc c.image == 3

/-- Element size in bits from the layouts in use (R277). -/
def Command.ebits (c : Command) : Nat :=
  let s := kindHasLayout (opKind c.src)
  let d := kindHasLayout (opKind c.cdst)
  if s then fmtBits c.ls.fmt else if d then fmtBits c.ld.fmt else if opKind c.src = 4 then 32 else 8

/-- Element size in bytes. -/
def Command.eb (c : Command) : Nat := c.ebits / 8

/-- Bits an operand word leaves unused are zero (Table 13.12). -/
def copyWordOk (w : Nat) (dst : Bool) : Bool :=
  match opKind w with
  | 0 => w == 0
  | 1 | 2 => bitsOf w 57 3 == 0
  | 3 => bitsOf w 28 32 == 0
  | 4 => if dst then bitsOf w 4 56 == 0 && decide (5 ≤ w % 16) && decide (w % 16 ≤ 8) else bitsOf w 2 58 == 0
  | 5 => dst && bitsOf w 28 4 == 0
  | _ => false

/-- A layout a copy command uses: a known format that is not E2M1, and a known bank permutation. -/
def copyLayOk (l : Layout) : Bool := decide (l.fmt < 14) && l.fmt != 5 && decide (l.bpm < 7)

/-- Groups of a wave. -/
def State.groupCount (s : State) (w : Nat) : Nat := (s.wave w).groups

/-- The tile a virtual address's scratchpad window belongs to. -/
def windowTile (va : Nat) : Option Nat :=
  if Config.window ≤ va ∧ va < Config.window + Config.tiles * Config.aliasSize then
    some ((va - Config.window) / Config.aliasSize) else none

/-- Operand kinds of each opcode (Table 13.13). -/
def copyKinds (opc : Nat) : List Nat × List Nat :=
  match opc with
  | 1 => ([1, 2, 3, 4], [1, 2, 3, 4])
  | 2 => ([1], [2, 3])
  | 3 => ([2, 3], [1])
  | 4 => ([1, 2, 3], [5])
  | 5 => ([3], [3])
  | 6 => ([3], [3])
  | _ => ([1, 2, 3, 4], [1, 2])

/-- The checks of a copy template at issue: true when none refuses with ILLEGAL_INSTRUCTION. R280 wants COUNT a multiple of X and
INT32 indexes and names no cause for a command that breaks this: it is refused here too (DESIGN CHOICE, log entry 38). -/
def copyOk (s : State) (tile : Nat) (c : Command) : Bool :=
  let opc := imgOpc c.image
  let ks := opKind c.src
  let kd := opKind c.cdst
  let (sk, dk) := copyKinds opc
  let useLs := kindHasLayout ks || opc == 2
  let useLd := kindHasLayout kd || opc == 3
  let groups := s.groupCount (waveOf (s.tile tile).group.pred)
  decide (1 ≤ opc) && decide (opc ≤ 7) && c.fld 64 5 == 0 && (!c.xpk || (opc == 6 && s.feature 5))
    && (c.ctile < 96 || c.ctile == 0x7F) && sk.contains ks && dk.contains kd && copyWordOk c.src false
    && copyWordOk c.cdst true && !(ks == 4 && kd == 4) && (!useLs || copyLayOk c.ls) && (!useLd || copyLayOk c.ld)
    && !(kindHasLayout ks && kindHasLayout kd && fmtBits c.ls.fmt != fmtBits c.ld.fmt)
    && !((ks == 4 || kd == 4) && decide (c.ebits > 32))
    && (match opc with
      | 2 => c.csub == 0 && c.ls.fmt == 9 && c.count % c.ld.x == 0
      | 3 => c.csub == 0 && c.ld.fmt == 9 && c.count % c.ls.x == 0
      | 4 => c.csub == 0 && decide (bitsOf c.cdst 50 10 ≤ bitsOf c.cdst 40 10) && bitsOf c.cdst 32 8 != 0
              && decide (bitsOf c.cdst 40 10 < groups)
      | 5 => decide (c.csub < 8)
      | 6 => decide (c.csub < 4)
      | 7 => c.csub == 0 && c.cen && (c.ctile == 0x7F || windowTile (bitsOf c.cdst 0 57) == some c.ctile)
      | _ => c.csub == 0)

/-- MISALIGNED at issue: the VA of a VL or VS operand that is no multiple of eb (R277). -/
def copyMisaligned (c : Command) : Option Nat :=
  let bad := fun w => (opKind w == 1 || opKind w == 2) && bitsOf w 0 57 % c.eb != 0
  if bad c.src then some (bitsOf c.src 0 57) else if bad c.cdst then some (bitsOf c.cdst 0 57) else none

/-! ## Elements -/

/-- The virtual address of element e of a VL or VS operand. -/
def copyVa (w : Nat) (l : Layout) (ebits e : Nat) : Nat :=
  if opKind w = 1 then bitsOf w 0 57 + e * (ebits / 8) else l.elem (bitsOf w 0 57) ebits 64 e

/-- A copy command as the maker of its writes. -/
def State.commandWho (s : State) (tile e : Nat) (c : Command) : Who :=
  { s.tileWho tile with writer := .command tile e c.seq.toNat }

/-- Reads an element of a virtual operand as one request: its line prepared, or admitted when it is watched (21 R373). -/
def State.vaElem (s : State) (tile va n : Nat) : Eng (State × Nat) :=
  (s.vaAt tile .other needR va n).andThen fun l => (s.engRead l va n).andThen fun _ =>
    match s.admitPlain (s.tileWho tile) 0 (va % 2 ^ 64) l with
    | none => .stall
    | some (s, hint) =>
      let s := s.prepareRead (s.tileWho tile) l hint
      .ok (s, s.viewNum l n)

/-- The row index r of an index list in scratchpad. -/
def State.rowIndex (s : State) (tile : Nat) (l : Layout) (r : Nat) : Eng Nat :=
  let a := (l.base + 4 * r) % 2 ^ 32
  (s.spAt tile a 4).andThen fun p => s.engRead p a 4

/-- Reads element e of a copy command's source, as bits. -/
def State.copySrc (s : State) (tile e : Nat) (c : Command) (i : Nat) : Eng (State × Nat) :=
  let w := c.src
  if imgOpc c.image = 2 then
    (s.rowIndex tile c.ls (i / c.ld.x)).andThen fun ix =>
      s.vaElem tile (bitsOf w 0 57 + ix * 16 * c.ls.p1 + i % c.ld.x * c.eb) c.eb
  else match opKind w with
    | 3 => (s.spElem tile c.ls (c.ls.base + w % 2 ^ 28) c.ebits i).andThen fun v => .ok (s, v)
    | 4 => ((s.engine tile e).vectorAt (w % 4) (i / 192 - c.freed.get (w % 4))).andThen fun v =>
        .ok (s, (SMap.get v (i % 192)).toNat % 2 ^ c.ebits)
    | _ => s.vaElem tile (copyVa w c.ls c.ebits i) c.eb

/-- Reads a list of elements, threading the state. -/
def State.copyRead (tile e : Nat) (c : Command) : List Nat → State → Eng (State × List Nat)
  | [], s => .ok (s, [])
  | i :: is, s => (s.copySrc tile e c i).andThen fun p =>
      (State.copyRead tile e c is p.1).andThen fun q => .ok (q.1, p.2 :: q.2)

/-- Where an element of a destination goes: a scratchpad offset of a tile, or a virtual address. -/
inductive CopyDst where
  | sp (tile off : Nat)
  | va (a : Nat)
deriving DecidableEq, Repr

/-- The destination of element i; `target` is the tile of an MCST or HALO. -/
def State.copyDst (s : State) (tile target : Nat) (c : Command) (i : Nat) : Eng CopyDst :=
  let w := c.cdst
  if imgOpc c.image = 3 then
    (s.rowIndex tile c.ld (i / c.ls.x)).andThen fun ix =>
      .ok (.va (bitsOf w 0 57 + ix * 16 * c.ld.p1 + i % c.ls.x * c.eb))
  else match opKind w with
    | 3 | 5 => .ok (.sp target (c.ld.elem (c.ld.base + w % 2 ^ 28) c.ebits 32 i))
    | _ => .ok (.va (copyVa w c.ld c.ebits i))

/-- The place of a destination of a writer. -/
def State.dstPlace (s : State) (tile : Nat) (w : Writer) (n : Nat) : CopyDst → Eng Loc
  | .sp t off => if s.blocked tile ⟨.sp t, off⟩ then .stall else s.spAt t off n
  | .va a => s.vaAt tile w needW a n

/-- Writes elements at places found beforehand, each one request: admitted when its line is watched (21 R373). -/
def State.copyWrite (s : State) (tile e : Nat) (c : Command) (n : Nat) : List ((CopyDst × Loc) × Nat) → Eng State
  | [] => .ok s
  | ((d, l), x) :: ps =>
    let who := s.commandWho tile e c
    match (match d with | .va a => s.admitPlain who 0 (a % 2 ^ 64) l | .sp _ _ => some (s, 0)) with
    | none => .stall
    | some (s, hint) => State.copyWrite ((s.performWrite who l (leBytes n x) hint).peerSent who l) tile e c n ps

/-! ## Chunks and counting (R278, R283) -/

/-- Bytes of the command's byte stream. -/
def Command.streamBytes (c : Command) : Nat := c.count * c.eb
/-- Chunks of a byte stream. -/
def chunksOf (bytes : Nat) : Nat := (bytes + 255) / 256
/-- Elements of chunk k of a stream of n elements of eb bytes. -/
def chunkElems (n eb k : Nat) : List Nat := (List.range (min (256 / eb) (n - 256 / eb * k))).map (256 / eb * k + ·)

/-- The group on a tile that an engine's remote work may reach (R278, 01 R40). -/
def State.reaches (s : State) (tile target : Nat) : Bool := tile == target || s.tileOpen (s.tileWho tile) target

/-- The tile a chunk is counted on, when the command counts. -/
def countTile (tile target : Nat) (c : Command) : Nat :=
  if imgOpc c.image = 4 ∨ imgOpc c.image = 5 ∨ imgOpc c.image = 7 then target
  else if c.ctile = 0x7F then tile else c.ctile

/-- After the chunk at the cursor is complete and counted: the cursor moves on, input slots whose results are all
written are freed. `ord` is the number of destinations of an MCST. -/
def State.advanceChunk (s : State) (tile e : Nat) (c : Command) (ords : Nat) : State :=
  let s := s.dropAnswers (.command tile e c.seq.toNat)
  if imgOpc c.image = 4 ∧ c.cursor2 + 1 < ords then s.setCommand tile e { c with phase := 0, cursor2 := c.cursor2 + 1 }
  else if imgOpc c.image = 6 then s.setCommand tile e { c with phase := 0, cursor2 := c.cursor2 + 1 }
  else
    let c := { c with phase := 0, cursor := c.cursor + 1, cursor2 := 0 }
    if opKind c.src = 4 then
      let i := c.src % 4
      let doneElems := min c.count (c.cursor * (256 / c.eb))
      let target := if doneElems = c.count then (c.count + 191) / 192 else doneElems / 192
      let n := target - c.freed.get i
      let g := (List.range n).foldl (fun g _ => g.freeSlot i) (s.engine tile e)
      (s.setEngine tile e g).setCommand tile e { c with freed := c.freed.set i target }
    else s.setCommand tile e c

/-- Groups an MCST writes, in order. -/
def mcstGroups (c : Command) : List Nat :=
  let g0 := bitsOf c.cdst 50 10
  let g1 := bitsOf c.cdst 40 10
  let st := bitsOf c.cdst 32 8
  (List.range ((g1 - g0) / st + 1)).map (g0 + · * st)

/-- The unit of a group of the tile's wave. -/
def State.unitOfGroup (s : State) (tile g : Nat) : Nat :=
  (s.group (waveOf ((s.tile tile).group - 1) * 1024 + g)).unit

/-- The neighbour of a HALO in the wave's grid, as a group index (R281); none at the edge. -/
def haloGroup (place g dir : Nat) : Option Nat :=
  let whole := bitOf place 9
  let h : Int := if whole then 3 else (bitsOf place 7 2 + 1 : Nat)
  let w : Int := if whole then ((bitsOf place 2 3 + 2) * 4 : Nat) else (bitsOf place 5 2 + 1 : Nat)
  let row : Int := if whole then (g % 12 / 4 : Nat) else (g / (bitsOf place 5 2 + 1) : Nat)
  let col : Int := if whole then (g / 12 * 4 + g % 4 : Nat) else (g % (bitsOf place 5 2 + 1) : Nat)
  let dr : Int := if dir = 0 ∨ dir = 4 ∨ dir = 5 then -1 else if dir = 1 ∨ dir = 6 ∨ dir = 7 then 1 else 0
  let dc : Int := if dir = 2 ∨ dir = 4 ∨ dir = 6 then -1 else if dir = 3 ∨ dir = 5 ∨ dir = 7 then 1 else 0
  let r := row + dr
  let k := col + dc
  if r < 0 ∨ r ≥ h ∨ k < 0 ∨ k ≥ w then none
  else if whole then some ((k / 4).toNat * 12 + r.toNat * 4 + (k % 4).toNat)
  else some ((r * w + k).toNat)

/-- The tile the present chunk of a command goes to: its own, a multicast group's, or a neighbour's. -/
def State.copyTarget (s : State) (tile : Nat) (c : Command) : Option Nat :=
  match imgOpc c.image with
  | 4 => some (s.unitOfGroup tile ((mcstGroups c).getD c.cursor2 0))
  | 5 => match haloGroup (s.waveOfThread (controlTid tile)).node.place.toNat ((s.tile tile).group.pred % 1024) (c.csub % 8) with
    | some g => some (s.unitOfGroup tile g)
    | none => none
  | 7 => some ((windowTile (bitsOf c.cdst 0 57)).getD tile)
  | _ => some tile

/-- The first address of a DPOS chunk that leaves its destination's window. -/
def dposStray (c : Command) (ds : List CopyDst) (n : Nat) : Option Nat :=
  let home := windowTile (bitsOf c.cdst 0 57)
  ds.findSome? fun d => match d with
    | .va a => if home.isSome ∧ windowTile a = home ∧ windowTile (a + n - 1) = home then none else some a
    | .sp _ _ => none

/-- Counts a DPOS chunk at its destination in the same step as its bytes. -/
def State.dposCount (s : State) (tile e target : Nat) (c : Command) (bytes : Nat) : Eng State :=
  match s.semAdd target c.csem bytes with
  | none => .fault causeOverflow (nameWord target c.csem)
  | some s => .ok ((s.setCommand tile e { c with phase := 3 }).semExamine target)

/-- One chunk of a command whose destination is memory: the absent tiles, the reads, the places, the writes. An MCST reads its
source chunk again for each destination (R278 does not say whether once; DESIGN CHOICE, log entry 111). -/
def chunkWork (s : State) (tile e : Nat) (c : Command) : Eng State :=
  match s.copyTarget tile c with
  | none => .ok (s.setCommand tile e { c with finished := true })
  | some target =>
    let es := chunkElems c.count c.eb c.cursor
    let remote := imgOpc c.image == 4 || imgOpc c.image == 5
    if remote ∧ !s.reaches tile target then .fault causeAccess target
    else if c.cen ∧ imgOpc c.image ≠ 7 ∧ !s.reaches tile (countTile tile target c) then
      .fault causeAccess (countTile tile target c)
    else
      (State.copyRead tile e c es s).andThen fun p =>
        (Eng.collect (p.1.copyDst tile target c) es).andThen fun ds =>
          let stray := if imgOpc c.image = 7 then dposStray c ds c.eb else none
          match stray with
          | some a => .fault causeAccess a
          | none =>
            if imgOpc c.image = 7 ∧ !s.reaches tile target then .fault causeAccess target
            else (Eng.collect (p.1.dstPlace tile (.command tile e c.seq.toNat) c.eb) ds).andThen fun ls =>
              (p.1.copyWrite tile e c c.eb ((ds.zip ls).zip p.2)).andThen fun s =>
                if imgOpc c.image = 7 then s.dposCount tile e target c (es.length * c.eb)
                else .ok (s.setCommand tile e { c with phase := 1 })

/-- One vector of a command whose destination is a stream; a chunk is complete once its vectors are sent (R284). -/
def streamWork (s : State) (tile e : Nat) (c : Command) : Eng State :=
  let chunkEnd := min c.streamBytes (256 * (c.cursor + 1))
  if chunkEnd ≤ c.sent * c.eb ∨ c.sent ≥ c.count then
    if c.cen ∧ !s.reaches tile (countTile tile tile c) then .fault causeAccess (countTile tile tile c)
    else .ok (s.setCommand tile e { c with phase := 1 })
  else
    let es := (List.range (min 192 (c.count - c.sent))).map (c.sent + ·)
    (State.copyRead tile e c es s).andThen fun p =>
      (p.1.sendVector tile e (c.cdst % 16) p.2).andThen fun s =>
        .ok (s.setCommand tile e { c with sent := c.sent + 192 })

/-- Destinations of an MCST; one for any other command. -/
def copyOrds (c : Command) : Nat := if imgOpc c.image = 4 then (mcstGroups c).length else 1

/-- One piece of work of CPY, GATH, SCAT, MCST, HALO or DPOS. -/
def copyWork (s : State) (tile e : Nat) (c : Command) : Eng State :=
  if c.phase = 3 then .ok (s.advanceChunk tile e c (copyOrds c))
  else if c.phase ≠ 0 then .stall
  else if c.cursor ≥ chunksOf c.streamBytes then .ok (s.setCommand tile e { c with finished := true })
  else if opKind c.cdst = 4 then streamWork s tile e c
  else chunkWork s tile e c

/-! ## COLL (R282) -/

/-- The two operands of a COLL's reduction joined, in the source format's own arithmetic (03 R77). -/
def collOp (c : Command) (a b : Nat) : Nat :=
  let f := c.ls.fmt
  match floatOf f with
  | some _ => if c.csub = 0 then fadd32 a b else (minMaxF fp32 false (c.csub == 2) a b).bits
  | none =>
    if f = 6 ∨ f = 13 then Config.freeReduce f a b
    else if c.csub = 0 then (a + b) % 2 ^ fmtBits f else minMaxElem (c.csub == 2) f a b

/-- A reduced value of a COLL in the destination's format: a free value where the manual states no conversion, into or from E8M0
or Picot-8 (R59, R282; log entry 29). -/
def collConvert (src dst r : Nat) : Nat :=
  if src = 6 ∨ src = 13 ∨ dst = 6 ∨ dst = 13 then Config.freeConvert src dst r % 2 ^ fmtBits dst
  else (convert src dst 0 0 false r).bits

/-- One result element of a COLL in the destination's format. -/
def collResult (c : Command) (vs : List Nat) : Nat :=
  match floatOf c.ls.fmt with
  | some f => collConvert 0 c.ld.fmt (reduceTree (collOp c) 0 (vs.map (widen32 f)))
  | none =>
    let r := reduceTree (collOp c) 0 vs
    if c.ls.fmt = c.ld.fmt then r else collConvert c.ls.fmt c.ld.fmt r

/-- The COLL commands of a wave with one match number: tile and command of each rank that has started its own. -/
def State.collRanks (s : State) (tile : Nat) (c : Command) : List (Nat × Option Command) :=
  let w := waveOf ((s.tile tile).group - 1)
  (List.range (s.groupCount w)).map fun g =>
    let t := s.unitOfGroup tile g
    (t, (s.engine t 9).started.find? fun d =>
      imgOpc d.image == 6 && d.matchNo == c.matchNo && (s.tile t).group == w * 1024 + g + 1)

/-- The results of a matched COLL: `partials` begins with a mark of the match. -/
def Command.results (c : Command) : List Nat := (c.partials.drop 1).map (·.2)

/-- Whether a rank's contribution is all delivered. -/
def contributed (c : Command) : Bool := decide (c.contrib.length ≥ c.count)

/-- What other packages' ranks of an XPK collective contribute: values from outside this package, free. -/
def State.foreignRanks (s : State) (tile : Nat) (c : Command) : Nat × Nat :=
  let dom := (s.waveOfThread (controlTid tile)).node.domain.toNat
  if c.xpk then (bitsOf dom 16 16, bitsOf dom 0 16) else (1, 0)

/-- The other packages whose ranks an XPK collective waits for: those of the fabric domain (25 R426). -/
def State.foreignPkgs (s : State) (tile : Nat) (c : Command) : List Nat :=
  if 1 < (s.foreignRanks tile c).1 then s.domain.filter (· != s.pkg) else []

/-- What stands for the answer of a package's ranks to a COLL: the first block of its memory. -/
def ranksBlock (pkg : Nat) : Nat := (⟨.peer pkg, 0⟩ : Loc).key / 128

/-- Packages whose ranks have not answered a tile's COLL yet. -/
def State.ranksAwaited (s : State) (tile : Nat) (c : Command) : List Nat :=
  (s.foreignPkgs tile c).filter fun p => !s.answers.contains ⟨.command tile 9 c.seq.toNat, ranksBlock p⟩

/-- The results of a matched COLL, the same in every rank: reduced by rank, or gathered in rank order. -/
def State.collResults (s : State) (tile : Nat) (c : Command) (own : List (List Nat)) : List Nat × Nat :=
  let (pkgs, ord) := s.foreignRanks tile c
  let g := own.length
  let ranks := (List.range (max 1 pkgs * g)).map fun r =>
    if r / g = ord ∨ pkgs ≤ 1 then own.getD (r % g) []
    else (List.range c.count).map fun i => (Config.freeWord (s.free + r * c.count + i)).toNat % 2 ^ c.ebits
  let used := if pkgs ≤ 1 then 0 else pkgs * g * c.count
  (if c.csub = 3 then ranks.flatten
   else (List.range c.count).map fun i => collResult c (ranks.map fun l => l.getD i 0), used)

/-- A COLL that has been matched with ones that differ from it: it raises ILLEGAL_INSTRUCTION on its next turn (R282),
with word 0 of its image in c.tval (the manual names no value; DESIGN CHOICE, log entry 112). -/
def Command.mismatched (c : Command) : Bool := c.partials == [(2, 0)]

/-- Matches a COLL once every rank has contributed and no link between their dies holds (25 R411): results for every rank, or the
mark of a mismatch, by which each raises its cause itself, one on a stopped tile after TRET (R282, 23 R388). -/
def State.collMatch (s : State) (tile : Nat) (c : Command) : Option State :=
  let ranks := s.collRanks tile c
  let far := decide (1 < ((ranks.map fun r => dieOf r.1).dedup).length)
  match ranks.mapM fun r => r.2 with
  | none => none
  | some cs =>
    let give := fun (s : State) (ps : List (Nat × Nat)) => ranks.foldl (fun s r => match r.2 with
      | some d => (s.setCommand r.1 9 { d with partials := ps }).dropAnswers (.command r.1 9 d.seq.toNat)
      | none => s) s
    if !cs.all contributed || !(s.ranksAwaited tile c).isEmpty || (far && ranks.any fun r => s.linkHeld r.1) then none
    else if cs.any fun d => d.count != c.count || d.csub != c.csub || d.ls.fmt != c.ls.fmt || d.ld.fmt != c.ld.fmt then
      some (give s [(2, 0)])
    else
      let (res, used) := s.collResults tile c (cs.map (·.contrib))
      let s := { s with free := s.free + used }
      let w := waveOf ((s.tile tile).group - 1)
      some (give (if c.xpk then s.setMark w else s) ((1, 0) :: res.map (1, ·)))

/-- The COLL of a tile that waits for ranks on other packages: all of its contribution is read and it has no result. -/
def State.foreignColl (s : State) (tile : Nat) : Option Command :=
  (s.engine tile 9).started.find? fun c =>
    imgOpc c.image == 6 && !c.finished && contributed c && c.partials.isEmpty && !(s.ranksAwaited tile c).isEmpty

/-- The first virtual address that the next piece of a copy command reads or writes, of those a test picks, and whether it writes
there. -/
def State.nextVa (s : State) (tile : Nat) (c : Command) (pick : Need → Nat → Bool) : Option (Bool × Nat) :=
  let es := if opKind c.cdst = 4 then (List.range (min 192 (c.count - c.sent))).map (c.sent + ·)
    else chunkElems c.count c.eb c.cursor
  let src := es.filterMap fun i =>
    if imgOpc c.image = 2 then match s.rowIndex tile c.ls (i / c.ld.x) with
      | .ok ix => some (bitsOf c.src 0 57 + ix * 16 * c.ls.p1 + i % c.ld.x * c.eb)
      | _ => none
    else if opKind c.src = 1 ∨ opKind c.src = 2 then some (copyVa c.src c.ls c.ebits i) else none
  let dst := es.filterMap fun i => match s.copyDst tile tile c i with
    | .ok (.va a) => some a
    | _ => none
  (((src.find? (pick needR)).map (false, ·)).toList ++ ((dst.find? (pick needW)).map (true, ·)).toList).head?

/-- The copy command of a tile whose next piece stands at a closed order gate before an access to a watched line (21 R375). -/
def State.gateCopy (s : State) (tile line : Nat) : Option Command :=
  (s.engine tile 9).started.find? fun c =>
    !(imgOpc c.image == 6) && !c.finished && c.phase == 0 && c.wait.isNone &&
      (s.nextVa tile c fun need a => match s.resolve (s.tileWho tile) need a c.eb with
        | .at l => l.space == .hbm && lineOf l.addr == line && (s.admitPlain (s.tileWho tile) 0 a l).isNone
        | _ => false).isSome

/-- Whether an access of a command to a place waits for another package: for the line of a read, or the answer to a write. -/
def State.waitsFar (s : State) (tile : Nat) (c : Command) (need : Need) (l : Loc) : Bool :=
  l.space.foreign && (if need.w then !s.peerAnswered (.command tile 9 c.seq.toNat) l else !s.peerHeld l)

/-- The copy command of a tile that stands before an access to another package: whether it writes, and the address. -/
def State.peerCopy (s : State) (tile : Nat) : Option (Command × Bool × Nat) :=
  (s.engine tile 9).started.findSome? fun c =>
    if imgOpc c.image = 6 ∨ c.finished ∨ c.phase ≠ 0 ∨ c.wait.isSome then none
    else (s.nextVa tile c fun need a => match s.resolve (s.tileWho tile) need (a % 2 ^ 64) c.eb with
      | .at l => s.waitsFar tile c need l
      | _ => false).map fun a => (c, a)

/-- The command whose access of a kind to a line of another package waits for that package. -/
def State.copyAwaits (s : State) (tile pkg line : Nat) (write : Bool) : Option Command :=
  match s.peerCopy tile with
  | some (c, w, a) => match s.resolve (s.tileWho tile) (if w then needW else needR) (a % 2 ^ 64) c.eb with
    | .at l => if w == write && l.space == .peer pkg && lineOf l.addr == line then some c else none
    | _ => none
  | none => none

/-- A copy command whose next access is to a package that has answered nothing for 2 ms, or a COLL whose ranks include such
a package, ends with ACCESS_FAULT at its cursor (25 R424). A COLL has no virtual address, so the value reported is one
the manual leaves open. -/
def State.peerSilent (s : State) (tile : Nat) : Option State :=
  let late := fun (c : Command) => decide (c.waited + Config.peerTimeout ≤ s.cycle) && !(s.tile tile).stopped
  match s.foreignColl tile, s.peerCopy tile with
  | some c, _ =>
    if late c then some ({ s with free := s.free + 1 }.failCommand tile 9 c causeAccess (Config.freeWord s.free).toNat)
    else none
  | none, some (c, _, a) => if late c then some (s.failCommand tile 9 c causeAccess a) else none
  | none, none => none

/-- One piece of a COLL's work: a chunk of the contribution, the match, or a chunk of the result. One of COUNT 0 meets the
other ranks' too. -/
def collWork (s : State) (tile e : Nat) (c : Command) : Eng State :=
  let res := c.results
  if !contributed c then
    (State.copyRead tile e c (chunkElems c.count c.eb c.cursor) s).andThen fun p =>
      .ok (p.1.setCommand tile e { c with contrib := c.contrib ++ p.2, cursor := c.cursor + 1 })
  else if c.partials = [] then
    match s.collMatch tile c with
    | some s => .ok s
    | none => .stall
  else if c.mismatched then .fault causeIllegal (imgWord c.image 0)
  else if c.phase = 3 then .ok (s.advanceChunk tile e c 1)
  else if c.phase ≠ 0 then .stall
  else if c.cursor2 ≥ chunksOf (res.length * c.eb) then .ok (s.setCommand tile e { c with finished := true })
  else
    let es := chunkElems res.length c.eb c.cursor2
    if c.cen ∧ !s.reaches tile (countTile tile tile c) then .fault causeAccess (countTile tile tile c)
    else
      (Eng.collect (fun i => s.spAt tile (c.ld.elem (c.ld.base + c.cdst % 2 ^ 28) c.ebits 32 i) c.eb) es).andThen fun ls =>
        (s.copyWrite tile e c c.eb ((ls.map fun l => (CopyDst.sp tile l.addr, l)).zip (es.map fun i => res.getD i 0))).andThen fun s =>
          .ok (s.setCommand tile e { c with phase := 1 })

/-- A COLL takes its match number as it starts. -/
def collStart (s : State) (tile e : Nat) (c : Command) : Eng (State × Command) :=
  let g := s.engine tile e
  .ok (s.setEngine tile e { g with colls := g.colls + 1 }, { c with matchNo := g.colls + 1 })

/-- The scratchpad footprints of a copy command's own operands (21 R371). -/
def copyFoot (s : State) (tile : Nat) (c : Command) : List (Nat × Nat × Bool) :=
  let cells := fun (l : Layout) (w n : Nat) => (List.range n).map fun i => (l.elem (l.base + w % 2 ^ 28) c.ebits 32 i, c.eb)
  let add := fun (l : List (Nat × Nat)) (wr : Bool) =>
    if l.isEmpty then [] else [((footprintOf l).1, (footprintOf l).2, wr)]
  let index := fun (l : Layout) (rows : Nat) => (List.range rows).map fun r => ((l.base + 4 * r) % 2 ^ 32, 4)
  (if opKind c.src = 3 then add (cells c.ls c.src c.count) false else [])
    ++ (if imgOpc c.image = 2 then add (index c.ls (c.count / c.ld.x)) false else [])
    ++ (if imgOpc c.image = 3 then add (index c.ld (c.count / c.ls.x)) false else [])
    ++ (if opKind c.cdst = 3 ∧ imgOpc c.image ≠ 5 then
          add (cells c.ld c.cdst (if imgOpc c.image = 6 ∧ c.csub = 3 then
            max 1 (s.foreignRanks tile c).1 * s.groupCount (waveOf (s.tile tile).group.pred) * c.count else c.count)) true
        else if imgOpc c.image = 4 ∧ (mcstGroups c).any (fun g => s.unitOfGroup tile g == tile) then
          add (cells c.ld c.cdst c.count) true
        else [])

/-- A copy opcode. -/
def copyOp (opc : Nat) : EngOp := { cls := 6, opc := opc, foot := copyFoot, work := copyWork }

/-- CPY. -/
def execCpy (s : State) : Out := (copyOp 0x01).exec s
/-- GATH. -/
def execGath (s : State) : Out := (copyOp 0x02).exec s
/-- SCAT. -/
def execScat (s : State) : Out := (copyOp 0x03).exec s
/-- MCST. -/
def execMcst (s : State) : Out := (copyOp 0x04).exec s
/-- HALO. -/
def execHalo (s : State) : Out := (copyOp 0x05).exec s
/-- COLL. -/
def opColl : EngOp := { cls := 6, opc := 0x06, start := collStart, foot := copyFoot, work := collWork }
/-- COLL executed by its engine. -/
def execColl (s : State) : Out := opColl.exec s
/-- DPOS. -/
def execDpos (s : State) : Out := (copyOp 0x07).exec s

/-- COPY_CHUNK_COMPLETE: the chunk at the cursor is performed, the invalidations of its bytes in other packages included (05
R104); with CEN its increment is sent, and the cursor moves on once that is applied; without, the cursor moves on at once
(R278). -/
def onCopyChunkComplete (s : State) : Option State :=
  match s.cur with
  | .engine tile e =>
    if (s.tile tile).stopped then none
    else match (s.engine tile e).started.find? fun c => !c.finished && c.phase == 1 && imgClass c.image == 6 with
      | none => none
      | some c =>
        if s.unperformed (.command tile e c.seq.toNat) then none
        else if !c.cen then some (s.advanceChunk tile e c (copyOrds c))
        else
          let at_ := countTile tile ((s.copyTarget tile c).getD tile) c
          let n := if imgOpc c.image = 6 then (chunkElems c.results.length c.eb c.cursor2).length * c.eb
                   else (chunkElems c.count c.eb c.cursor).length * c.eb
          let rank := if at_ = tile then e else 16 + sharerBit tile
          let s := s.setCommand tile e { c with phase := 2 }
          let t := s.tile at_
          some { s.setTile at_ { t with incs := t.incs ++ [⟨rank, c.csem, n, .engine tile e, c.seq.toNat, s.nextPark⟩] } with
            nextPark := s.nextPark + 1 }
  | _ => none
/-- COPY_CHUNK_COMPLETE: it happens, or nothing does. -/
def execCopyChunkComplete (s : State) : Out := happens onCopyChunkComplete s

end Sys2Proof.Machine
end

