-- ==== Sys2Proof/Machine/Gather.lean ====
section
/-! DEFINITION. Checkpoints of record and replay mode (21 R377), deterministic flush points (21 R363), and what gathers or
shares among the threads of a proof core: DIVB, JOIN, VOTE, SHFL, REDX, FLRD, FLCL, GANGQ, RBGET and RBPUT (11
R213-R229), and the convergence test of 11 R218. -/

namespace Sys2Proof.Machine

/-! ## Checkpoints (21 R377) -/

/-- How stores of several words end: made, the first failing address with its cause, a walk awaited, or held on the way to a
place. -/
inductive Stored where
  | ok (s : State)
  | fault (cause va : Nat)
  | walk (va : Nat)
  | held (l : Loc) (va : Nat)

/-- The checks of stores of `n` words of eight bytes at consecutive addresses, before any is made. -/
def State.storeCheck (s : State) (who : Who) (va : Nat) : Nat → Stored
  | 0 => .ok s
  | n + 1 => match s.resolve who needW va 8 with
    | .fault c => .fault c va
    | .walk => .walk va
    | .at l => if s.writeHeld who l then .held l va else s.storeCheck who (va + 8) n

/-- Makes them, once checked: each one store of its maker, admitted when its line is watched (21 R373). -/
def State.storeWords (s : State) (who : Who) (slot va : Nat) : List Nat → Stored
  | [] => .ok s
  | x :: xs => match s.resolve who needW va 8 with
    | .fault c => .fault c va
    | .walk => .walk va
    | .at l => match s.admitPlain who slot va l with
      | none => .held l va
      | some (s, hint) => ((s.performWrite who l (leBytes 8 x) hint).peerSent who l).storeWords who slot (va + 8) xs

/-- Loads one word of eight bytes as a plain load of a thread. -/
def State.loadWord (s : State) (tid va : Nat) : Plain :=
  let who := s.who tid
  match s.resolve who needR va 8 with
  | .fault c => .fault c va
  | .walk => .walk va
  | .at l =>
    if s.poisoned l then .fault causePoison va
    else if s.readHeld who l then .held l va
    else match s.admitPlain who (slotOf tid) va l with
      | none => .held l va
      | some (s, hint) => let s := s.prepareRead who l hint; .ok s (s.seenBytes tid l 8)

/-- Loads words at consecutive addresses, in order. -/
def State.loadWords (s : State) (tid va : Nat) : Nat → Plain
  | 0 => .ok s []
  | n + 1 => match s.loadWord tid va with
    | .ok s bs => match s.loadWords tid (va + 8) n with
      | .ok s cs => .ok s (bs ++ cs)
      | r => r
    | r => r

/-- The first digest record from `va` on, `n` records left, that names a node, group, thread and checkpoint: its digest, as
eight bytes; no bytes when there is none. -/
def State.findDigest (s : State) (tid node key va : Nat) : Nat → Plain
  | 0 => .ok s []
  | n + 1 => match s.loadWords tid va 3 with
    | .ok s bs =>
      let w := fun (i : Nat) => (bs.drop (8 * i)).take 8
      if leNat (w 1) = key ∧ leNat (w 2) = node then .ok s (w 0) else s.findDigest tid node key (va + 32) n
    | r => r

/-- Whether a thread's checkpoints write or read the digest region: its wave records or replays. -/
def State.recorded (s : State) (tid : Nat) : Bool := (s.waveOfThread tid).recMode != 0

/-- A checkpoint of the current thread, then the rest of its instruction. In record mode the digest is appended; in
replay mode it is compared with the record of the same node, group, thread and checkpoint. -/
def Cx.checkpoint (c : Cx) (k : State → Out) (s : State) : Out :=
  let w := s.waveOfThread c.tid
  let t := s.thread c.tid
  let r := s.records.get w.asid
  let who := s.who c.tid
  let base := r.block.digbase.toNat
  let key := t.gid % 1024 * 2 ^ 42 + t.idx * 2 ^ 32 + t.ckpt % 2 ^ 32
  let pass := fun (s : State) => k (c.upd (fun t => { t with ckpt := t.ckpt + 1 }) s)
  if w.recMode = 1#2 then
    let taken := { s with records := s.records.set w.asid { r with digests := r.digests + 1 } }
    if 32 * (r.digests + 1) > r.block.diglen.toNat then pass taken
    else
      let va := base + 32 * r.digests
      let made : Stored := match taken.storeCheck who va 4 with
        | .ok s => match s.storeWords who (slotOf c.tid) va [t.digest.toNat, key, w.node.id.toNat, 0] with
          | .ok s => .ok (s.dropAnswers who.writer)
          | r => r
        | r => r
      match made with
      | .ok s => pass s
      | .walk va => c.awaitWalk va 1 s
      | .fault cause va => c.trap cause (BitVec.ofNat 64 va) s
      | .held l va => c.park (.line l va true) s
  else if w.recMode = 2#2 then
    match s.findDigest c.tid w.node.id.toNat key base (r.block.diglen.toNat / 32) with
    | .ok _ [] => c.trap causeReplay 0 s
    | .ok s' bs =>
      if leNat bs = t.digest.toNat then pass s' else c.trap causeReplay (BitVec.ofNat 64 (leNat bs)) s
    | .walk va => c.awaitWalk va 0 s
    | .fault cause va => c.trap cause (BitVec.ofNat 64 va) s
    | .held l va => c.park (.line l va false) s
  else pass s

/-- A thread's waiting instruction is met. A checkpoint that writes or reads the digest region is made by the thread
itself, which executes its instruction again with `granted`, each of those released on its own turn (R214 has them go on
in one cycle, R377 puts a store or a load of each before that; DESIGN CHOICE, log entry 93); any other completes at
once. -/
def State.passWait (s : State) (tid : Nat) : State :=
  let t := s.thread tid
  if s.recorded tid then s.setThread tid { t with granted := true }
  else (s.setThread tid { t with ckpt := t.ckpt + 1 }).wake tid

/-! ## Gathering divergent threads (R213-R215) -/

/-- Every live thread of a group is parked at one PC in a wait of one kind. -/
def State.gathered (s : State) (gid : Nat) (atKind : Wait → Bool) : Bool :=
  let ms := s.members gid
  !ms.isEmpty && ms.all fun m =>
    ((s.thread m).wait.any atKind) && !(s.thread m).granted && (s.thread m).pc == (s.thread (ms.headD 0)).pc

/-- A wait at DIVB. -/
def Wait.isDivb : Wait → Bool
  | .divb _ _ => true
  | _ => false
/-- A wait at a lane collective. -/
def Wait.isCollective : Wait → Bool
  | .collective _ => true
  | _ => false
/-- A wait at WDONE. -/
def Wait.isWdone : Wait → Bool
  | .wdone _ => true
  | _ => false
/-- A wait the convergence test looks at. -/
def Wait.isGather (w : Wait) : Bool := w == .join || w.isDivb || w.isCollective

/-- A group reaches its next flush point (21 R363). -/
def State.reachFlush (s : State) (gid : Nat) : State :=
  s.setGroup gid { s.group gid with flushes := (s.group gid).epoch + 1 }

/-! ## Lane collectives (R216-R224) -/

/-- The member mask of a collective. -/
def collectiveMask : Instr → Nat
  | .vote _ _ _ _ _ m => m.toNat
  | .shfl _ _ _ _ m => m.toNat
  | .redx _ _ _ _ _ m => m.toNat
  | _ => 0

/-- The thread in lane l of a thread's lane set, when it is a live thread of the same group. -/
def State.laneMate (s : State) (tid l : Nat) : Option Nat :=
  let m := tid / 32 * 32 + l
  if (s.thread m).live ∧ (s.thread m).gid = (s.thread tid).gid then some m else none

/-- The lanes a mask names, with the issuing thread's own. -/
def maskLanes (tid mask : Nat) : List Nat := (List.range 32).filter fun l => bitOf mask l || l == tid % 32

/-- Whether a parked collective can complete now: every live member is parked at its PC at a collective. -/
def State.collectiveReady (s : State) (tid : Nat) (i : Instr) : Bool :=
  (maskLanes tid (collectiveMask i)).all fun l =>
    match s.laneMate tid l with
    | none => true
    | some m => (s.thread m).wait.any Wait.isCollective && (s.thread m).pc == (s.thread tid).pc

/-- A vote's source value in a thread (R222). -/
def voteValue (t : Thread) (idx : BitVec 3) (flag : Bool) : Bool := if flag then t.fl.getLsbD idx.toNat else t.pred idx

/-- A reduction's source value in a thread (R224). -/
def redxValue (t : Thread) (a : BitVec 6) (cls : BitVec 2) : Nat :=
  if cls = 0 then (t.rd a).toNat
  else if cls = 1 then (if t.pred (a.setWidth 3) then 1 else 0)
  else t.fl.toNat

/-- The operation of a REDX kind (Table 11.5). -/
def redxOp (kind a b : Nat) : Nat :=
  match kind with
  | 0 => (a + b) % 2 ^ 64
  | 1 => a &&& b
  | 2 => a ||| b
  | 3 => a ^^^ b
  | 4 => if sextNat 64 a ≤ sextNat 64 b then a else b
  | 5 => if sextNat 64 a ≤ sextNat 64 b then b else a
  | 6 => min a b
  | 7 => max a b
  | 8 => fadd32 (a % 2 ^ 32) (b % 2 ^ 32)
  | 9 => (minMaxF fp32 false false a b).bits
  | _ => (minMaxF fp32 false true a b).bits

/-- The source lane of a SHFL with control value `b` in lane `l`; none outside 0-31 (R223). -/
def shflLane (b l : Nat) : Option Nat :=
  let k := b % 32
  match b / 32 % 4 with
  | 0 => some k
  | 1 => if k ≤ l then some (l - k) else none
  | 2 => if l + k < 32 then some (l + k) else none
  | _ => some (l ^^^ k)

/-- What a completing collective writes in its thread, from the members' registers in `s`. A SHFL whose source lane the mask
does not name, its own included, gives 0 (R223). -/
def State.collectiveResult (s : State) (tid : Nat) (i : Instr) (t : Thread) : Thread :=
  let lanes := maskLanes tid (collectiveMask i)
  let mates := lanes.map fun l => (l, (s.laneMate tid l).map s.thread)
  match i with
  | .vote _ d idx flag kind _ =>
    let vals := mates.map fun p => (p.1, p.2.any fun u => voteValue u idx flag)
    let count := (vals.filter (·.2)).length
    match kind.toNat with
    | 0 => t.setPred (d.setWidth 3) (vals.any (·.2))
    | 1 => t.setPred (d.setWidth 3) (vals.all (·.2))
    | 2 => t.wr d (BitVec.ofNat 64 (vals.foldl (fun m p => if p.2 then m + 2 ^ p.1 else m) 0))
    | _ => t.wr d (BitVec.ofNat 64 count)
  | .shfl _ d a b _ =>
    match shflLane (t.rd b).toNat (tid % 32) with
    | none => t.wr d (t.rd a)
    | some src =>
      if bitOf (collectiveMask i) src then
        match s.laneMate tid src with
        | some m => t.wr d ((s.thread m).rd a)
        | none => t.wr d 0
      else t.wr d 0
  | .redx _ d a cls kind _ =>
    let vals := mates.map fun p => match p.2 with
      | some u => if kind.toNat ≥ 8 then redxValue u a cls % 2 ^ 32 else redxValue u a cls
      | none => 0
    t.wr d (BitVec.ofNat 64 (reduceTree (redxOp kind.toNat) 0 vals))
  | _ => t

/-- Completes every parked collective of a group whose condition holds, all from the registers as they stand. -/
def State.settleCollectives (s : State) (gid : Nat) : State :=
  let ready := (s.members gid).filterMap fun m =>
    match (s.thread m).wait with
    | some (.collective i) => if s.collectiveReady m i then some (m, i) else none
    | _ => none
  ready.foldl (fun r p => (r.setThread p.1 (s.collectiveResult p.1 p.2 (r.thread p.1))).wake p.1) s

/-- Releases what a park or an exit lets go in a group: DIVB, JOIN, DFLUSH's and WDONE's flush point, collectives. -/
def State.settleGroup (s : State) (gid : Nat) : State :=
  let det := (s.wave (waveOf gid)).node.ctl.getLsbD 23
  let ms := s.members gid
  if s.gathered gid Wait.isDivb then
    ms.foldl (fun s m =>
      match (s.thread m).wait with
      | some (.divb true target) => s.complete m target (!(s.thread m).prv)
      | _ => s.wake m) s
  else if s.gathered gid (· == .join) then
    if det then s.reachFlush gid else ms.foldl State.passWait s
  else if det && s.gathered gid (· == .dflush) then s.reachFlush gid
  else
    let last := det && !ms.isEmpty && ms.all (fun m => (s.thread m).wdone || (s.thread m).wait.any Wait.isWdone)
      && ms.any (fun m => (s.thread m).wait.any Wait.isWdone && !(s.thread m).granted)
    (if last then s.reachFlush gid else s).settleCollectives gid

/-- After a thread parks at a gathering: releases follow at once, unless other members of its gang are still to issue. -/
def Cx.gather (c : Cx) (w : Wait) (s : State) : Out :=
  match c.park w s with
  | .next s =>
    let gang := (s.core (c.tid / 1024)).gang
    if gang = 0 ∨ gang = 1#32 <<< laneOf c.tid then .next (s.settleGroup c.t.gid) else .next s
  | o => o

/-- DIVB: the thread reads its guard and arrives, guarded off or not (R213). -/
def execDivb (g : Guard) (off : BitVec 18) : State → Out :=
  coreInstr (.divb g off) { kind := .proof, transfer := true } fun c s =>
    c.gather (.divb (c.t.guard g) (c.t.pc + (off.signExtend 64 <<< 2))) s

/-- JOIN (R214); in deterministic mode it waits for the close of the epoch (21 R364). -/
def execJoin (g : Guard) : State → Out :=
  coreInstr (.join g) { guard := some g, kind := .proof } fun c s =>
    if c.t.granted then c.checkpoint (fun s => c.done s) s else c.gather .join s

/-- VOTE (R222). -/
def execVote (g : Guard) (d : BitVec 6) (idx : BitVec 3) (flag : Bool) (kind : BitVec 4) (mask : BitVec 32) : State → Out :=
  coreInstr (.vote g d idx flag kind mask)
    { guard := some g, kind := .proof, writes := if kind.toNat < 2 then [] else [d] } fun c s =>
    c.gather (.collective (.vote g d idx flag kind mask)) s

/-- SHFL (R223). -/
def execShfl (g : Guard) (d a b : BitVec 6) (mask : BitVec 32) : State → Out :=
  coreInstr (.shfl g d a b mask) { guard := some g, kind := .proof, reads := [a, b], writes := [d] } fun c s =>
    c.gather (.collective (.shfl g d a b mask)) s

/-- REDX (R224). -/
def execRedx (g : Guard) (d a : BitVec 6) (cls : BitVec 2) (kind : BitVec 4) (mask : BitVec 32) : State → Out :=
  coreInstr (.redx g d a cls kind mask)
    { guard := some g, kind := .proof, reads := if cls = 0 then [a] else [], writes := [d] } fun c s =>
    c.gather (.collective (.redx g d a cls kind mask)) s

/-- One round of R218's removal: the members of the set whose waited-for threads all wait in it. -/
def State.convergeRound (s : State) (gid : Nat) (set : List Nat) : List Nat :=
  set.filter fun m =>
    let ws := match (s.thread m).wait with
      | some (.collective i) => (maskLanes m (collectiveMask i)).filterMap (s.laneMate m)
      | _ => s.members gid
    ws.all fun w => w == m || set.contains w

/-- R218's set: rounds until nothing is removed, at most as many as threads. Threads that wait only for each other are
faulted by the pseudocode though another member still runs, and its words alone would spare them; the pseudocode is
followed (DESIGN CHOICE, log entry 84). -/
def State.convergeSet (s : State) (gid : Nat) : Nat → List Nat → List Nat
  | 0, set => set
  | n + 1, set =>
    let next := s.convergeRound gid set
    if next.length = set.length then set else s.convergeSet gid n next

/-- CONVERGENCE_TEST: every thread left in the set raises CONVERGENCE_FAULT at its waiting instruction (R218). In deterministic
mode the test is not made while the group stands at a flush point that its wave's epoch has still to close (R364 against
the pseudocode of R218, which knows no close; DESIGN CHOICE, log entry 94). -/
def onConvergenceTest (gid : Nat) (s : State) : Option State :=
  if !(s.group gid).test then none
  else
    let s := s.setGroup gid { s.group gid with test := false }
    let parked := (s.members gid).filter fun m => (s.thread m).wait.any Wait.isGather && !(s.thread m).granted
    let det := (s.wave (waveOf gid)).node.ctl.getLsbD 23
    let set := if det && (s.group gid).flushes > (s.group gid).epoch then []
               else s.convergeSet gid parked.length parked
    some (set.foldl (fun s m =>
      let val := match (s.thread m).wait with
        | some (.collective i) => collectiveMask i
        | _ => 0
      s.trap m causeConvergence (s.thread m).pc (BitVec.ofNat 64 val)) s)
/-- CONVERGENCE_TEST: it happens, or nothing does. -/
def execConvergenceTest (gid : Nat) (s : State) : Out := happens (onConvergenceTest gid) s

/-! ## Flags and gang (R220, R225, R226) -/

/-- FLRD. -/
def execFlrd (g : Guard) (d : BitVec 6) : State → Out :=
  coreInstr (.flrd g d) { guard := some g, kind := .proof, writes := [d] } fun c s => c.write d (c.t.fl.setWidth 64) s

/-- FLCL. -/
def execFlcl (g : Guard) (a : BitVec 6) : State → Out :=
  coreInstr (.flcl g a) { guard := some g, kind := .proof, reads := [a] } fun c s =>
    c.done (c.upd (fun t => { t with fl := t.fl &&& ~~~((c.t.rd a).setWidth 5) }) s)

/-- GANGQ: the lanes and count of the issuing gang and the thread's own slot (Table 11.2). A thread executed outside a
gang is a gang of one. -/
def execGangq (g : Guard) (d : BitVec 6) : State → Out :=
  coreInstr (.gangq g d) { guard := some g, kind := .proof, writes := [d] } fun c s =>
    let own := 2 ^ laneOf c.tid
    let lanes := (s.core (c.tid / 1024)).gang.toNat ||| own
    let count := ((List.range 32).filter fun l => bitOf lanes l).length
    c.write d (BitVec.ofNat 64 (c.tid % 1024 * 2 ^ 40 + count * 2 ^ 32 + lanes)) s

/-! ## Register blocks (R227-R229, 01 R42, R43) -/

/-- Live threads on a proof core. -/
def State.coreThreads (s : State) (core : Nat) : List Nat :=
  (s.threads.filter fun p => p.2.live && decide (p.1 / 1024 = core) && !isControl p.1).map (·.1)

/-- Blocks set in a six-bit mask. -/
def heldCount (h : BitVec 6) : Nat := ((List.range 6).filter h.getLsbD).length

/-- Blocks a saved group's threads come back with: a reserve block comes back as an ordinary one. -/
def SaveGroup.blocks (g : SaveGroup) : Nat := (g.threads.map fun t => heldCount t.held).sum

/-- Blocks of a core kept for saved groups that are placed on it and not yet restored (R229). -/
def State.keptBlocks (s : State) (core : Nat) : Nat :=
  ((s.groups.filter fun g => g.2.placed && !g.2.started && g.2.unit == 96 + core).map fun g =>
    match (s.wave (waveOf g.1)).saved.find? (·.index == g.1 % 1024) with
    | some x => x.blocks
    | none => 0).sum

/-- Ordinary blocks of a core that no thread holds and that are kept for none. -/
def State.freeBlocks (s : State) (core : Nat) : Nat :=
  Config.blocks - ((s.coreThreads core).map fun m =>
    heldCount (s.thread m).held - (if (s.thread m).reserve = 0 then 0 else 1)).sum - s.keptBlocks core

/-- Whether the reserve block of a core is free. -/
def State.reserveFree (s : State) (core : Nat) : Bool := (s.coreThreads core).all fun m => (s.thread m).reserve == 0

/-- The register numbers of a block. -/
def blockRegs (b : Nat) : List (BitVec 6) := (List.range 8).map fun i => BitVec.ofNat 6 (16 + 8 * b + i)

/-- Maps a block, ordinary or the reserve, onto zeroed registers. -/
def Thread.takeBlock (t : Thread) (b : Nat) (reserve : Bool) : Thread :=
  { (blockRegs b).foldl (fun t r => t.wr r 0) t with
    held := t.held ||| (1#6 <<< b), reserve := if reserve then b + 1 else t.reserve }

/-- Discards a block. -/
def Thread.dropBlock (t : Thread) (b : Nat) : Thread :=
  { (blockRegs b).foldl (fun t r => t.wr r 0) t with
    held := t.held &&& ~~~(1#6 <<< b), reserve := if t.reserve = b + 1 then 0 else t.reserve }

/-- The block a thread is parked for, if it is parked at RBGET. -/
def rbWait (t : Thread) : Option Nat :=
  match t.wait with
  | some (.rbget b) => some b
  | _ => none

/-- The order in which parked RBGETs are granted: the progress token's group, the cycle of parking, the PC-table key (R228). -/
def State.grantBefore (s : State) (token : Nat) (a b : Nat) : Bool :=
  let key := fun m =>
    let t := s.thread m
    [if t.gid + 1 = token then 0 else 1, t.parkedIn, t.pc.toNat, (s.group t.gid).age, m]
  decide (key a < key b)

/-- The least of a list by an order. -/
def leastBy {α : Type} (lt : α → α → Bool) : List α → Option α
  | [] => none
  | x :: xs => match leastBy lt xs with
    | none => some x
    | some y => if lt y x then some y else some x

/-- The progress token of a core: kept by a group that has not ended, else the oldest with a thread parked at RBGET
(01 R42). -/
def State.tokenOf (s : State) (core : Nat) : Nat :=
  let held := (s.core core).token
  if held ≠ 0 ∧ (s.members (held - 1)).any (fun m => m / 1024 = core) then held
  else
    let parked := (s.coreThreads core).filter fun m => (rbWait (s.thread m)).isSome
    match leastBy (fun a b => decide ((s.group (s.thread a).gid).age < (s.group (s.thread b).gid).age)) parked with
    | some m => (s.thread m).gid + 1
    | none => 0

/-- Grants blocks of a core to parked RBGETs while one can be granted (R228, 01 R43). -/
def State.grantBlocks (core : Nat) : Nat → State → State
  | 0, s => s
  | n + 1, s =>
    let token := s.tokenOf core
    let s := s.setCore core { s.core core with token := token }
    let parked := (s.coreThreads core).filter fun m => (rbWait (s.thread m)).isSome
    if s.freeBlocks core > 0 then
      match leastBy (s.grantBefore token) parked with
      | some m =>
        let b := (rbWait (s.thread m)).getD 0
        State.grantBlocks core n ((s.setThread m ((s.thread m).takeBlock b false)).wake m)
      | none => s
    else if s.reserveFree core then
      match leastBy (s.grantBefore token) (parked.filter fun m => (s.thread m).gid + 1 == token) with
      | some m =>
        let b := (rbWait (s.thread m)).getD 0
        State.grantBlocks core n ((s.setThread m ((s.thread m).takeBlock b true)).wake m)
      | none => s
    else s

/-- Grants after a block or the token has become free on a core. -/
def State.regrant (s : State) (core : Nat) : State := State.grantBlocks core (s.coreThreads core).length s

/-- REGB of a wave's footprint. -/
def Node.regb (n : Node) : Nat := bitsOf n.place.toNat 32 3

/-- RBGET (R227). -/
def execRbget (g : Guard) (b : BitVec 6) : State → Out :=
  coreInstr (.rbget g b) { guard := some g, kind := .proof } fun c s =>
    let core := c.tid / 1024
    let b := b.toNat
    if b ≥ 6 then c.trap causeIllegal (BitVec.ofNat 64 c.word) s
    else if c.t.held.getLsbD b then c.done s
    else if b ≥ (s.waveOfThread c.tid).node.regb then c.trap causeRegblock (BitVec.ofNat 64 b) s
    else if s.freeBlocks core > 0 then c.done (c.upd (·.takeBlock b false) s)
    else if c.t.reserve ≠ 0 then c.trap causeRegblock (BitVec.ofNat 64 (0x100 + b)) s
    else if (s.core core).token = c.t.gid + 1 ∧ s.reserveFree core then c.done (c.upd (·.takeBlock b true) s)
    else match c.park (.rbget b) s with
      | .next s => .next (s.regrant core)
      | o => o

/-- RBPUT: a returned block is granted in the same cycle (R228). A number that names no block is refused as RBGET refuses it (log
entry 102). -/
def execRbput (g : Guard) (b : BitVec 6) : State → Out :=
  coreInstr (.rbput g b) { guard := some g, kind := .proof } fun c s =>
    if b.toNat ≥ 6 then c.trap causeIllegal (BitVec.ofNat 64 c.word) s
    else if c.t.held.getLsbD b.toNat then
      match c.done (c.upd (·.dropBlock b.toNat) s) with
      | .next s => .next (s.regrant (c.tid / 1024))
      | o => o
    else c.done s

end Sys2Proof.Machine
end

