-- ==== Sys2Proof/Machine/Paging.lean ====
section
/-! DEFINITION. Page walks and page faults (23 R403-R405): the report of an absent page, the end of a walk for everyone who
waits on it, the driver's answers to parked threads, commands and strands, and walks made at once by hub agents. -/

namespace Sys2Proof.Machine

/-! ## Reports of absent pages (R404) -/

/-- The report of a page found absent at a level, or the outstanding one for the same page; its tag. -/
def State.pageReport (s : State) (asid va level acc wave unit : Nat) : State × Nat :=
  let page := va / levelSize level * levelSize level
  match s.parks.find? fun p => p.asid == asid && p.level == level && p.page == page with
  | some p => (s, p.tag)
  | none =>
    let tag := s.nextTag
    let s := s.report (mkReport 1 asid acc 0 tag va wave unit level)
    ({ s with parks := s.parks ++ [⟨tag, asid, page, level⟩], nextTag := tag + 1 }, tag)

/-! ## Everyone who waits -/

/-- What a wait becomes: the new wait and the fault brought to the access. -/
abbrev Answer := Option Wait × Option (Nat × Nat)

/-- Applies an answer to a waiting thread. -/
def Thread.answer (t : Thread) (f : Wait → Option Answer) (now : Nat) : Thread :=
  match t.wait.bind f with
  | some (w, r) => { t with wait := w, refusal := r, since := now }
  | none => t

/-- Applies an answer to a waiting command; the cycles it was parked count for no wait (R399). -/
def Command.answer (c : Command) (f : Wait → Option Answer) (now : Nat) : Command :=
  match c.wait.bind f with
  | some (w, r) => { c with wait := w, refusal := r, waited := now }
  | none => c

/-- Applies an answer to a waiting strand. -/
def Strand.answer (st : Strand) (f : Wait → Option Answer) : Strand :=
  match st.wait.bind f with
  | some (w, r) => { st with wait := w, refusal := r }
  | none => st

/-- Applies an answer to everything of an engine that waits. -/
def Engine.answer (g : Engine) (f : Wait → Option Answer) (now : Nat) : Engine :=
  { g with
    strand := g.strand.map (·.answer f), issued := g.issued.map (·.answer f now)
    started := g.started.map (·.answer f now) }

/-- Applies an answer to every engine of a tile. -/
def Tile.answer (t : Tile) (f : Wait → Option Answer) (now : Nat) : Tile :=
  { t with engines := t.engines.map fun p => (p.1, p.2.answer f now) }

/-- Waits of an engine. -/
def Engine.waits (g : Engine) : List Wait :=
  (g.strand.bind (·.wait)).toList ++ (g.started ++ g.issued).filterMap (·.wait)

/-! ## The end of a walk (R403) -/

/-- Whether a wait is for a walk of this 64 KiB page. -/
def Walk.serves (w : Walk) (x : Wait) : Bool :=
  match x with
  | .walk va _ => va / 2 ^ 16 * 2 ^ 16 == w.va
  | _ => false

/-- Whether a unit's accesses wait on a walk of this die and address space. -/
def Walk.covers (w : Walk) (unit asid : Nat) : Bool := dieOf unit == w.die && asid == w.asid

/-- Who waits on a walk: the wait with the wave and the unit of a report, and the unit itself. -/
def State.askers (s : State) (w : Walk) : List (Wait × Nat × Nat × Nat) :=
  (s.threads.filterMap fun p =>
    match p.2.wait with
    | some x => if w.serves x && p.2.live && w.covers (unitOf p.1) (s.asidOf p.1) then
        some (x, waveOf p.2.gid, reportUnit p.1, unitOf p.1) else none
    | none => none)
  ++ s.tiles.flatMap fun p =>
    if w.covers p.1 (s.tileWho p.1).asid then
      ((p.2.engines.flatMap fun e => e.2.waits).filter w.serves).map fun x => (x, waveOf (p.2.group - 1), unitWord p.1, p.1)
    else []

/-- Answers everyone who waits on a walk. -/
def State.answerWalk (s : State) (w : Walk) (f : Nat → Nat → Answer) : State :=
  let g := fun (x : Wait) => match x with
    | .walk va acc => if w.serves x then some (f va acc) else none
    | _ => none
  { s with
    threads := s.threads.map fun p =>
      (p.1, if p.2.live && w.covers (unitOf p.1) (s.asidOf p.1) then p.2.answer g s.cycle else p.2)
    tiles := s.tiles.map fun p => (p.1, if w.covers p.1 (s.tileWho p.1).asid then p.2.answer g s.cycle else p.2) }

/-- Whether a walk cannot go on now: its die's link holds, or a home of a table line it reads cannot serve it. -/
def State.walkHeld (s : State) (w : Walk) : Bool :=
  (s.links.get (w.die - 1)).holds || (s.walkLocs w.asid w.va).any (s.blocked 1000)

/-- Makes the prefetches that waited for a walk (09 R187). -/
def State.makePrefetches (s : State) (w : Walk) : State := w.prefs.foldl (State.prefetchAt · w.asid) s

/-- PAGE_WALK_COMPLETE: the oldest walk that can go on, of the 64 in progress, ends; its tables are read through their
homes. A leaf fills the TLBs of everyone who waits on it and of their die, and their accesses and prefetches are made; an
absent page is reported and they stay parked on it; a malformed entry or a poisoned table line becomes their fault. -/
def onPageWalkComplete (s : State) : Option State :=
  match (s.walks.take 64).find? (!s.walkHeld ·) with
  | none => none
  | some w =>
    let s := { s with walks := s.walks.erase w }.walked w.asid w.va
    let who := s.askers w
    match s.walk w.asid w.va with
    | .leaf level e =>
      let entry : TlbEntry := ⟨w.asid, w.va / levelSize level * levelSize level, level, e⟩
      let s := (who.map (·.2.2.2) ++ w.prefs.map (·.unit)).dedup.foldl (fun s u => s.tlbFill u entry) s
      let die := fun (l : List TlbEntry) => (entry :: l.filter fun x => decide (x ≠ entry)).take 4096
      some (({ s with tlbs := s.tlbs.upd (1000 + w.die) die }.answerWalk w fun _ _ => (none, none)).makePrefetches w)
    | .absent level =>
      match who with
      | (.walk va acc, wave, unit, _) :: _ =>
        let (s, tag) := s.pageReport w.asid va level acc wave unit
        some (s.answerWalk w fun va _ => (some (.page tag va), none))
      | _ => some s
    | .malformed =>
      match who with
      | (.walk va acc, wave, unit, _) :: _ =>
        let s := s.report (mkReport 2 w.asid acc 0 0 va wave unit 0)
        some (s.answerWalk w fun va _ => (none, some (causeAccess, va)))
      | _ => some s
    | .poison => some (s.answerWalk w fun va _ => (none, some (causePoison, va)))
/-- PAGE_WALK_COMPLETE: it happens, or nothing does. -/
def execPageWalkComplete (s : State) : Out := happens onPageWalkComplete s

/-! ## The driver's answer (R405) -/

/-- Answers every thread, command and strand parked on the page of a report: replay, or refuse with PAGE_FAULT for a
core access or fetch and ACCESS_FAULT for a command or a strand fetch. -/
def State.answerPage (s : State) (tag : Nat) (refuse : Bool) : State :=
  let g := fun (cause : Nat) (x : Wait) => match x with
    | .page t va => if t = tag then some ((none, if refuse then some (cause, va) else none) : Answer) else none
    | _ => none
  { s with
    threads := s.threads.map fun p => (p.1, p.2.answer (g causePage) s.cycle)
    tiles := s.tiles.map fun p => (p.1, p.2.answer (g causeAccess) s.cycle) }

/-! ## Reads by hub agents -/

/-- How an access whose walk is made at once ends: its place, an absent page at a level, a malformed entry, another
cause. -/
inductive HubPlace where
  | at (l : Loc)
  | absent (level : Nat)
  | malformed
  | fault (cause : Nat)

/-- Checks an access, making its walk at once (R401, R403): always so for a hub agent. -/
def State.hubPlace (s : State) (who : Who) (need : Need) (va size : Nat) : HubPlace :=
  match s.resolve who need va size with
  | .at l => .at l
  | .fault c => .fault c
  | .walk => match s.walk who.asid va with
    | .absent level => .absent level
    | .malformed => .malformed
    | .poison => .fault causePoison
    | .leaf level e =>
      if !leafOk e need who then .fault causeAccess
      else match leafPlace s level e va with
        | .at l => .at l
        | .fault c => .fault c
        | .walk => .fault causeAccess

/-- How a hub agent's read of bytes ends; `held` while the home of a place on its way cannot serve it, or a line of another
package has not come. -/
inductive HubBytes where
  | ok (s : State) (bs : List Byte)
  | absent (va level : Nat)
  | malformed (va : Nat)
  | fault (cause : Nat)
  | held (l : Loc)

/-- Whether a hub agent's read of a place is held: its home is at work, or the line of another package has to come to this
package's L2 first. -/
def State.hubHeld (s : State) (who : Who) (l : Loc) : Bool :=
  if l.space.foreign then !s.peerHeld l else s.blocked who.unit l

/-- Reads `n` bytes as a hub agent, the tables of the first page already read; each line is one request, admitted when it is
watched (21 R373, R374). -/
def State.hubRead (s : State) (who : Who) (va : Nat) : Nat → Bool → HubBytes
  | 0, _ => .ok s []
  | n + 1, first =>
    match (if va % 2 ^ 16 = 0 then s.hubWalkStop who va else none) with
    | some l => .held l
    | none =>
    match s.hubPlace who needR va 1 with
    | .absent level => .absent va level
    | .malformed => .malformed va
    | .fault c => .fault c
    | .at l =>
      if s.poisoned l then .fault causePoison
      else if s.hubHeld who l then .held l
      else
        let s := if va % 2 ^ 16 = 0 then s.hubWalked who va else s
        match (if first || va % 128 == 0 then s.admitAgent who.unit l else some s) with
        | none => .held l
        | some s =>
          let s := s.prepareRead who l (s.agentHint l)
          match s.hubRead who (va + 1) n false with
          | .ok r bs => .ok r (BitVec.ofNat 8 (s.viewNum l 1) :: bs)
          | r => r

/-- Reads `n` bytes as a hub agent. -/
def State.hubBytes (s : State) (who : Who) (va n : Nat) : HubBytes :=
  match s.hubWalkStop who va with
  | some l => .held l
  | none => (s.hubWalked who va).hubRead who va n true

/-! ## The place of a cut record (R389) -/

/-- The address of a tile's cut record. -/
def State.cutVa (s : State) (tile : Nat) : Nat := (s.thread (controlTid tile)).tcut.toNat / 64 * 64

/-- Where a tile's cut record goes. -/
def State.cutPlace (s : State) (tile : Nat) : HubPlace := s.hubPlace (s.tileWho tile) needW (s.cutVa tile) 64

/-- The block of another package's memory it goes to, if it goes there. -/
def State.cutBlock (s : State) (tile : Nat) : Option Nat :=
  match s.cutPlace tile with
  | .at l => if l.space.foreign then some (l.key / 128) else none
  | _ => none

/-- A cut-record write that cannot be made ends as a double trap: the unit stops with a report (R389). -/
def State.cutFailed (s : State) (tile cause : Nat) : State :=
  let tid := controlTid tile
  let t := s.thread tid
  let s := s.setTile tile { s.tile tile with stops := [], cutRefused := false, cutSince := 0 }
  ((s.setThread tid t.settle).haltGroup t.gid).haltReport tid cause t.pc.toNat

/-- A cut record whose package has answered nothing for 2 ms: its write ends with ACCESS_FAULT, as a double trap (25 R424). -/
def State.cutSilent (s : State) (tile : Nat) : Option State :=
  let t := s.tile tile
  if t.cutSince ≠ 0 ∧ t.cutSince + Config.peerTimeout ≤ s.cycle + 1 then some (s.cutFailed tile causeAccess) else none

end Sys2Proof.Machine
end

