-- ==== Sys2Proof/Machine/Sync.lean ====
section
/-! DEFINITION. Semaphore instructions and engine ports (09 R196-R207) and CSR access (09 R209, R210). -/

namespace Sys2Proof.Machine

/-! ## Semaphores -/

/-- How a name word is read by a thread (Table 9.11): a fault, its value open or the word's own, or tile and number. -/
inductive SemName where
  | illegal
  | access
  | at (tile sem : Nat)
deriving DecidableEq, Repr

/-- Reads a name word; CON must be 0 when `sig`. -/
def State.semName (s : State) (tid : Nat) (w : Nat) (sig : Bool) : SemName :=
  let own := bitOf w 15
  let tile := bitsOf w 8 7
  if bitsOf w 17 47 ≠ 0 ∨ bitsOf w 6 2 ≠ 0 ∨ (sig ∧ bitOf w 16) ∨ (own ∧ tile ≠ 0) then .illegal
  else if own then (if isControl tid then .at (tileOf tid) (w % 64) else .access)
  else if tile ≥ 96 then .access
  else if (isControl tid && tile == tileOf tid) || s.tileOpen (s.who tid) tile then .at tile (w % 64)
  else .access

/-- What a thread does at a tile, or waits for while a link on the way to it holds (25 R411). -/
def Cx.toTile (c : Cx) (tile : Nat) (k : State → Out) (s : State) : Out :=
  let l : Loc := ⟨.sp tile, 0⟩
  if s.blocked (unitOf c.tid) l then c.park (.line l (Config.window + tile * Config.aliasSize) true) s else k s

/-- SEMWAIT: satisfied at once or held at the block (R198, R199). -/
def execSemwait (g : Guard) (a b : BitVec 6) : State → Out :=
  coreInstr (.semwait g a b) { guard := some g, reads := [a, b] } fun c s =>
    let w := (c.t.rd a).toNat
    let thr := (c.t.rd b).toNat
    match s.semName c.tid w false with
    | .illegal => c.trap causeIllegal (c.t.rd a) s
    | .access => if thr ≥ 2 ^ 24 then c.trap causeIllegal (BitVec.ofNat 64 c.word) s else c.trapOpen causeAccess s
    | .at tile sem =>
      if thr ≥ 2 ^ 24 then c.trap causeIllegal (BitVec.ofNat 64 c.word) s
      else c.toTile tile (fun s =>
        let con := bitOf w 16
        let s := s.semFlush tile
        let t := s.tile tile
        if t.sems.get sem ≥ thr ∧ !(s.semHeld tile (unitOf c.tid != tile)) then
          c.done (if con then s.setTile tile { t with sems := t.sems.upd sem (· - thr) } else s)
        else match c.park (.semwait tile sem thr con) s with
          | .next s => .next (s.semPark tile ⟨.thread c.tid, 0, sem, thr, con, unitOf c.tid != tile⟩)
          | o => o) s

/-- SEMSIG: a release, then the increment (R197). -/
def execSemsig (g : Guard) (a b : BitVec 6) : State → Out :=
  coreInstr (.semsig g a b) { guard := some g, reads := [a, b] } fun c s =>
    let w := (c.t.rd a).toNat
    let n := (c.t.rd b).toNat
    match s.semName c.tid w true with
    | .illegal => c.trap causeIllegal (c.t.rd a) s
    | .access => if n ≥ 2 ^ 24 then c.trap causeIllegal (c.t.rd b) s else c.trapOpen causeAccess s
    | .at tile sem =>
      if n ≥ 2 ^ 24 then c.trap causeIllegal (c.t.rd b) s
      else c.release true (c.toTile tile fun s =>
        let s := s.semFlush tile
        match s.semAdd tile sem n with
        | none => c.trap causeOverflow (c.t.rd a) s
        | some s =>
          let other := waveOf ((s.tile tile).group - 1) != waveOf c.t.gid
          let s := if other then s.setMark (waveOf c.t.gid) else s
          match c.done s with
          | .next s => .next (if n = 0 then s else s.semExamine tile)
          | o => o) s

/-! ## Engine ports (R202-R206) -/

/-- Commands a thread may have outstanding on a port. -/
def portDepth : Nat := 8

/-- The port table entry of a thread's wave. -/
def State.portEntry (s : State) (tid p : Nat) : Nat := ((s.waveOfThread tid).node.ports.get p).toNat

/-- Pushes a command on a port of the current thread: Table 9.16's faults, then the engine's queue in the hub. `busy` is
what happens when eight commands are outstanding, `after` finishes the instruction. The key of the command's draws is the
pushing thread's c.rkey at this push (R82 and R210 say 'when it is issued' and not whose, nor whether a push or the take
from the port issues it; DESIGN CHOICE, log entry 87). -/
def Cx.push (c : Cx) (a b p : BitVec 6) (busy after : State → Out) (s : State) : Out :=
  let e := s.portEntry c.tid p.toNat
  let port := BitVec.ofNat 64 p.toNat
  let tile := if bitsOf e 24 7 = 0x7F then tileOf c.tid else bitsOf e 24 7
  if !bitOf e 31 ∨ (bitsOf e 24 7 = 0x7F ∧ !isControl c.tid) then c.trap causePort port s
  else if !((isControl c.tid && tile == tileOf c.tid) || s.tileOpen (s.who c.tid) tile) then
    c.trap causeAccess (BitVec.ofNat 64 tile) s
  else if (c.t.ports.get p.toNat).length ≥ portDepth then busy s
  else c.release true (c.toTile tile fun s =>
    let n := s.nextPush
    let src : PortSource := ⟨c.tid, p.toNat, n, c.t.gid, c.t.rkey, s.asidOf c.tid⟩
    let cmd : PortCommand := ⟨src, c.t.rd b ++ c.t.rd a⟩
    let eng := s.engine tile (bitsOf e 20 4)
    let s := s.setEngine tile (bitsOf e 20 4) { eng with portq := eng.portq ++ [cmd] }
    let s := c.upd (fun t => { t with ports := t.ports.upd p.toNat (· ++ [⟨n, false, 0⟩]) }) s
    after { s with nextPush := n + 1 }) s

/-- ENQP (R203). -/
def execEnqp (g : Guard) (a b p : BitVec 6) : State → Out :=
  coreInstr (.enqp g a b p) { guard := some g, reads := [a, b] } fun c s =>
    c.push a b p (c.park (.enqp p.toNat)) (fun s => c.done s) s

/-- ENQP.nb. -/
def execEnqpNb (g : Guard) (q : BitVec 3) (a b p : BitVec 6) : State → Out :=
  coreInstr (.enqpNb g q a b p) { guard := some g, reads := [a, b] } fun c s =>
    c.push a b p (fun s => c.writePred q false s) (fun s => c.writePred q true s) s

/-- DEQP (R204). -/
def execDeqp (g : Guard) (d p : BitVec 6) : State → Out :=
  coreInstr (.deqp g d p) { guard := some g, writes := [d] } fun c s =>
    let port := BitVec.ofNat 64 p.toNat
    if !bitOf (s.portEntry c.tid p.toNat) 31 then c.trap causePort port s
    else match c.t.ports.get p.toNat with
      | [] => c.trap causePort port s
      | x :: rest =>
        if x.done then
          let s := c.upd (fun t => { t.wr d x.result with ports := t.ports.set p.toNat rest }) s
          if bitsOf x.result.toNat 32 8 = 0 then c.done s else c.trap causePort x.result s
        else c.park (.deqp p.toNat) s

/-- PORTQ (R205). -/
def execPortq (g : Guard) (d p : BitVec 6) : State → Out :=
  coreInstr (.portq g d p) { guard := some g, writes := [d] } fun c s =>
    let l := c.t.ports.get p.toNat
    let valid := if bitOf (s.portEntry c.tid p.toNat) 31 then 2 ^ 9 else 0
    let busy := if l.length ≥ portDepth then 2 ^ 8 else 0
    c.write d (BitVec.ofNat 64 (valid + busy + (l.takeWhile (·.done)).length * 2 ^ 4 + l.length)) s

/-! ## CSRs (R209, R210; Tables 1.4-1.7, 3.5, 3.6, 3.11, 17.6, 17.9, 19.9, 19.10, 21.1, 21.2, 23.2, 25.6, 25.9) -/

/-- c.status. -/
def State.csrStatus (s : State) (tid : Nat) : Nat :=
  let t := s.thread tid
  let w := s.waveOfThread tid
  (if w.mark then 16 else 0) + (if w.node.ctl.getLsbD 22 then 8 else 0) + (if t.step then 4 else 0)
    + (if t.pprv then 2 else 0) + (if t.prv then 1 else 0)

/-- c.dmode. -/
def State.csrDmode (s : State) (tid : Nat) : Nat :=
  (s.group (s.thread tid).gid).epoch % 2 ^ 32 * 2 ^ 8 + (if (s.thread tid).chkmiss then 8 else 0)
    + (s.waveOfThread tid).recMode.toNat * 2 + (if s.det tid then 1 else 0)

/-- The frame table entry of a wave's frame, when there is one and the governor is accepted (19 R355, 25 Table 25.8). -/
def State.frameOf (s : State) (w : Wave) : Option (Nat × Frame) :=
  if s.feature 4 then
    match s.frames.find? fun p => p.2.present && p.2.entry.frame.toNat == bitsOf w.node.ctl.toNat 32 32 with
    | some p => some p
    | none => none
  else none

/-- c.energy of a die. -/
def State.csrEnergy (s : State) (die : Nat) : Nat :=
  s.energy.window % 2 ^ 32 * 2 ^ 32 + (if s.energy.overdraft.get die then 2 ^ 31 else 0)
    + min (s.energy.used.get die) (2 ^ 23 - 1)

/-- c.patvalid: the slots of the thread's group that hold a pattern. -/
def State.csrPatvalid (s : State) (gid : Nat) : Nat :=
  ((List.range 16).filter fun k => ((s.group gid).patterns.get k).valid).foldl (fun m k => m + 2 ^ k) 0

/-- c.waveid and c.stage of a thread. -/
def State.csrStage (s : State) (tid : Nat) : Nat :=
  let w := s.waveOfThread tid
  bitsOf w.node.ctl.toNat 32 32 * 2 ^ 32 + w.prio % 8 * 2 ^ 12 + w.depth % 8 * 2 ^ 8 + bitsOf w.node.ctl.toNat 28 4

/-- The value a CSR reads as. -/
def State.csrRead (s : State) (tid n : Nat) : Word :=
  let t := s.thread tid
  match n with
  | 0x000 => BitVec.ofNat 64 (s.csrStatus tid)
  | 0x001 => t.tcause.setWidth 64
  | 0x002 => t.tepc
  | 0x003 => t.tval
  | 0x004 => t.tvec
  | 0x005 => t.tcut
  | 0x006 => BitVec.ofNat 64 (s.asidOf tid % 4096)
  | 0x010 => t.fmode.setWidth 64
  | 0x011 => t.fl.setWidth 64
  | 0x020 => BitVec.ofNat 64 (s.csrDmode tid)
  | 0x021 => t.digest
  | 0x022 => t.rkey
  | 0x030 => t.govmask
  | 0x031 => match s.frameOf (s.waveOfThread tid) with
    | some (_, f) => f.entry.deadline
    | none => BitVec.allOnes 64
  | 0x040 => t.patbase
  | 0x041 => BitVec.ofNat 64 (s.csrPatvalid t.gid)
  | 0x050 => BitVec.ofNat 64 s.cycle
  | 0x051 => BitVec.ofNat 64 (s.csrEnergy (dieOf (unitOf tid)))
  | 0x060 => BitVec.ofNat 64 (s.host.pkgid.toNat * 2 ^ 16 + unitWord (unitOf tid))
  | 0x061 => BitVec.ofNat 64 (waveOf t.gid * 2 ^ 32 + t.gid % 1024 * 2 ^ 16 + t.idx % 1024)
  | 0x062 => BitVec.ofNat 64 (s.csrStage tid)
  | _ => BitVec.ofNat 64 (s.host.facc.toNat % 2 ^ 7)

/-- Reserved fields of a CSR, as a mask. -/
def csrReserved (n : Nat) : Nat :=
  match n with
  | 0x000 => 2 ^ 64 - 2 ^ 5
  | 0x001 => 2 ^ 64 - 2 ^ 8
  | 0x002 => 2 ^ 64 - 2 ^ 57 + 3
  | 0x004 => 2 ^ 64 - 2 ^ 57 + 3
  | 0x005 => 2 ^ 64 - 2 ^ 57 + 0x3E
  | 0x006 => 2 ^ 64 - 2 ^ 12
  | 0x010 => 2 ^ 64 - 2 ^ 4
  | 0x011 => 2 ^ 64 - 2 ^ 5
  | 0x020 => 2 ^ 64 - 2 ^ 40 + 0xF0
  | 0x040 => 2 ^ 64 - 2 ^ 57 + 2
  | 0x041 => 2 ^ 64 - 2 ^ 16
  | 0x051 => 0xFF * 2 ^ 23
  | 0x060 => 2 ^ 64 - 2 ^ 32 + 7 * 2 ^ 12
  | 0x061 => 2 ^ 32 - 2 ^ 26 + 2 ^ 16 - 2 ^ 10
  | 0x062 => 2 ^ 32 - 2 ^ 15 + 2 ^ 11 + 0xF0
  | 0x070 => 2 ^ 64 - 2 ^ 7
  | _ => 0

/-- CSRs a thread writes at level S only (23 R380). -/
def csrPrivileged (n : Nat) : Bool := decide (n ≤ 6) || n == 0x21 || n == 0x40

/-- The RW fields of a CSR set to those of a value, and W1C fields cleared where the value has ones; RO fields keep. -/
def Thread.csrWrite (t : Thread) (n : Nat) (v : Word) : Thread :=
  match n with
  | 0x000 => { t with step := v.getLsbD 2, pprv := v.getLsbD 1 }
  | 0x001 => { t with tcause := v.setWidth 8 }
  | 0x002 => { t with tepc := v }
  | 0x003 => { t with tval := v }
  | 0x004 => { t with tvec := v }
  | 0x005 => { t with tcut := v }
  | 0x010 => { t with fmode := v.setWidth 4 }
  | 0x011 => { t with fl := v.setWidth 5 }
  | 0x020 => { t with chkmiss := t.chkmiss && !v.getLsbD 3 }
  | 0x021 => { t with digest := v }
  | 0x022 => { t with rkey := v }
  | 0x040 => { t with patbase := v }
  | _ => t

/-- Bits of a CSR's RW fields: CSRS sets those of its value in the old value; a W1C field is written as CSRW would. -/
def csrRw (n : Nat) : Nat :=
  match n with
  | 0x000 => 6
  | 0x020 => 0
  | _ => 2 ^ 64 - 1

/-- A write of a CSR with value `v`: reserved fields and refused values raise ILLEGAL_INSTRUCTION with the word. `put` is
the value its RW fields take. -/
def Cx.csrPut (c : Cx) (n : Nat) (v put : Word) (s : State) : Out :=
  let word := BitVec.ofNat 64 c.word
  if v.toNat &&& csrReserved n ≠ 0 then c.trap causeIllegal word s
  else if n = 0x010 ∧ put.toNat / 2 > 4 then c.trap causeIllegal word s
  else c.done (c.upd (·.csrWrite n put) s)

/-- CSRR. -/
def execCsrr (g : Guard) (d : BitVec 6) (csr : BitVec 12) : State → Out :=
  coreInstr (.csrr g d csr) { guard := some g, writes := [d] } fun c s => c.write d (s.csrRead c.tid csr.toNat) s

/-- CSRW. -/
def execCsrw (g : Guard) (a : BitVec 6) (csr : BitVec 12) : State → Out :=
  coreInstr (.csrw g a csr) { guard := some g, reads := [a], privileged := csrPrivileged csr.toNat } fun c s =>
    c.csrPut csr.toNat (c.t.rd a) (c.t.rd a) s

/-- CSRS: each RW field becomes its old value or the bits of ga. -/
def execCsrs (g : Guard) (a : BitVec 6) (csr : BitVec 12) : State → Out :=
  coreInstr (.csrs g a csr) { guard := some g, reads := [a], privileged := csrPrivileged csr.toNat } fun c s =>
    let old := s.csrRead c.tid csr.toNat &&& BitVec.ofNat 64 (csrRw csr.toNat)
    c.csrPut csr.toNat (c.t.rd a) (c.t.rd a ||| old) s

end Sys2Proof.Machine
end

