-- ==== Sys2Proof/Machine/Pool.lean ====
section
/-! DEFINITION. The ready pool (chapter 19): node records and their checks, entry, predecessors and co-placement sets,
SPAWN and TENQ, and the draining of task queues. -/

namespace Sys2Proof.Machine

/-! ## Node records (R336-R338) -/

/-- A record from its 640 bytes (Table 19.1). -/
def parseNode (bs : List Byte) : Node :=
  let w := fun (i : Nat) => (BitVec.ofNat 64 (leNat ((bs.drop (8 * i)).take 8)) : Word)
  let ctl := w 0
  { ctl := ctl, entry := w 1, arg := w 2, rkey := w 3, patbase := w 4, id := w 5, place := w 6, mem := w 7
    coplace := w 8, domain := w 9
    preds := (List.range (min 8 (bitsOf ctl.toNat 10 4))).map fun i => w (10 + i)
    ops := (List.range (min 8 (bitsOf ctl.toNat 6 4))).map fun i => (w (18 + 2 * i), w (19 + 2 * i))
    ports := SMap.setMany [] 0 ((List.range 64).map fun i =>
      (BitVec.ofNat 32 (leNat ((bs.drop (272 + 4 * i)).take 4)) : Half))
    reserved := (bs.drop 528).any (· != 0) }

/-- A field of CTL (Table 19.2). -/
def Node.ctlF (n : Node) (lo w : Nat) : Nat := bitsOf n.ctl.toNat lo w
/-- KIND: a proof wave. -/
def Node.proof (n : Node) : Bool := n.ctl.getLsbD 24
/-- PRIO. -/
def Node.prio (n : Node) : Nat := n.ctlF 25 3
/-- FRAME. -/
def Node.frame (n : Node) : Nat := n.ctlF 32 32
/-- STAGE. -/
def Node.stage (n : Node) : Nat := n.ctlF 28 4
/-- FMODE as c.fmode holds it: RMODE above FTZ. -/
def Node.fmode (n : Node) : Nat := n.ctlF 18 4
/-- SRAM. -/
def Node.sram (n : Node) : Nat := n.ctlF 14 4
/-- A field of PLACE (Table 19.3). -/
def Node.placeF (n : Node) (lo w : Nat) : Nat := bitsOf n.place.toNat lo w
/-- FORM: whole dies. -/
def Node.wholeDies (n : Node) : Bool := n.place.getLsbD 9
/-- Rows of a rectangle. -/
def Node.height (n : Node) : Nat := n.placeF 7 2 + 1
/-- Columns of a rectangle. -/
def Node.width (n : Node) : Nat := n.placeF 5 2 + 1
/-- Dies of a whole-die set. -/
def Node.dies (n : Node) : Nat := n.placeF 2 3 + 2
/-- Threads per proof group. -/
def Node.threads (n : Node) : Nat := n.placeF 0 10 + 1
/-- GMEM, or EASEL. -/
def Node.gmem (n : Node) : Nat := bitsOf n.mem.toNat 0 21
/-- STACK. -/
def Node.stack (n : Node) : Nat := bitsOf n.mem.toNat 21 21
/-- Groups of the wave. -/
def Node.groups (n : Node) : Nat :=
  if n.proof then n.placeF 10 10 + 1 else if n.wholeDies then n.dies * 12 else n.height * n.width
/-- Group-memory bytes of a group (R338). -/
def Node.groupBytes (n : Node) : Nat := n.gmem + n.threads * n.stack
/-- Shape codes of the footprint hoops of a tile, in order. -/
def Node.hoops (n : Node) : List Nat :=
  ((List.range 4).map fun i => n.placeF (32 + 4 * i) 4).filterMap fun x => if x ≥ 8 then some (x - 8) else none

/-! ## Checks (R339, Table 19.4) -/

/-- Reason 1 in PLACE and MEM. -/
def Node.badPlace (n : Node) : Bool :=
  if n.proof then
    n.placeF 35 29 != 0 || n.placeF 20 12 != 0 || decide (n.regb ≥ 7)
  else
    n.placeF 48 16 != 0 || n.placeF 10 22 != 0 || n.placeF 0 2 != 0 || n.stack != 0
      || decide (n.gmem > Config.easelSize)
      || (if n.wholeDies then n.placeF 5 4 != 0 else n.placeF 2 3 != 0)

/-- Reason 1: reserved bits, ranges, alignment, and the features of 25 Table 25.8 and the fabric domain (25 R426). -/
def State.reason1 (s : State) (n : Node) : Bool :=
  n.reserved || n.ctlF 0 6 != 0 || n.prio == 7 || decide (n.fmode ≥ 10) || n.sram == 0
    || decide (n.sram > (if n.proof then 2 else 8)) || decide (n.ctlF 10 4 > 8) || decide (n.ctlF 6 4 > 8)
    || bitsOf n.entry.toNat 0 2 != 0 || n.patbase.toNat &&& csrReserved 0x040 != 0 || bitsOf n.mem.toNat 42 22 != 0
    || n.stack % 16 != 0 || n.badPlace || bitsOf n.domain.toNat 32 32 != 0
    || bitsOf n.domain.toNat 16 16 != s.domain.length
    || (bitsOf n.domain.toNat 0 16 != 0 && decide (bitsOf n.domain.toNat 0 16 ≥ bitsOf n.domain.toNat 16 16))
    || n.ops.any (fun o => bitsOf o.2.toNat 40 23 != 0) || n.ports.any (fun p => bitsOf p.2.toNat 0 20 != 0)
    || (n.ctl.getLsbD 23 && !s.feature 1)

/-- Reason 2: the tile set or the hoop list. -/
def Node.reason2 (n : Node) : Bool :=
  !n.proof && ((!n.wholeDies && n.height == 4) || (n.wholeDies && n.dies == 9)
    || (List.range 3).any fun i => decide (n.placeF (32 + 4 * i) 4 < 8) && decide (n.placeF (36 + 4 * i) 4 ≥ 8))

/-- Reason 3: a port entry. -/
def Node.reason3 (n : Node) : Bool :=
  n.ports.any fun p => p.2.getLsbD 31 &&
    (decide (bitsOf p.2.toNat 20 4 < 5) || decide (bitsOf p.2.toNat 20 4 > 9)
      || (decide (96 ≤ bitsOf p.2.toNat 24 7) && bitsOf p.2.toNat 24 7 != 0x7F))

/-- Reason 5: a tile operand. -/
def Node.reason5 (n : Node) : Bool :=
  n.ops.any fun o =>
    bitsOf o.2.toNat 0 40 == 0 || decide (o.1.toNat + bitsOf o.2.toNat 0 40 > Config.ownAlias)

/-! ## Sets and predecessors (R340-R342) -/

/-- Wave numbers in the pool. -/
def State.pool (s : State) : List Nat := s.waves.map (·.1)

/-- Whether a wave still waits for a first or further placement. -/
def Wave.unplaced (w : Wave) : Bool := !w.refused && (w.state == .pending || w.state == .ready)

/-- Whether a node is a member of a co-placement set to be placed: in the pool, and neither Placed nor Running (R342). One that is
refused stays Pending (R339), and one that retires is Ready no more: each holds its set until it has left the pool. -/
def Wave.joinable (w : Wave) : Bool := !(w.state == .placed || w.state == .running)

/-- Whether two waves are joined: a COPLACE field names the other's ID, or a pre-empted set holds both. -/
def State.joined (s : State) (a b : Nat) : Bool :=
  let x := s.wave a
  let y := s.wave b
  (y.node.id != 0 && x.node.coplace == y.node.id) || (x.node.id != 0 && y.node.coplace == x.node.id)
    || x.set.contains b || y.set.contains a

/-- Grows a set by everything joined to it that is not placed. -/
def State.growSet (s : State) : Nat → List Nat → List Nat
  | 0, set => set
  | n + 1, set =>
    s.growSet n (set ++ s.pool.filter fun k => !set.contains k && (s.wave k).joinable && set.any (s.joined k))

/-- The co-placement set of a wave that is not placed (R342). -/
def State.coSet (s : State) (k : Nat) : List Nat := s.growSet 5 [k]

/-- Reasons 4 and 6, against the pool as it stands. -/
def State.poolReason (s : State) (n : Node) : Option Nat :=
  if n.id = 0 ∨ s.waves.any (fun w => w.2.node.id == n.id) then some 4
  else if ((s.setWave s.nextWave { (default : Wave) with node := n }).coSet s.nextWave).length > 4 then some 6
  else none

/-- The first check of Table 19.4 a record fails. -/
def State.nodeReason (s : State) (n : Node) : Option Nat :=
  if s.reason1 n then some 1 else if n.reason2 then some 2 else if n.reason3 then some 3
  else match s.poolReason n with
    | some 4 => some 4
    | r => if n.reason5 then some 5 else r

/-- Whether a predecessor ID names a node that has neither retired nor become done. -/
def State.predOpen (s : State) (id : Word) : Bool := id != 0 && s.waves.any fun w => w.2.node.id == id && !w.2.done

/-- Whether a frame is critical (R360). -/
def State.frameCritical (s : State) (frame : Nat) : Bool :=
  s.frames.any fun f => f.2.present && f.2.entry.frame.toNat == frame && f.2.critical

/-- A wave enters Ready, again or for the first time: a member of a critical frame has effective priority 7 until it retires
(R348, R360). -/
def State.enterReady (s : State) (k : Nat) : State :=
  let w := s.wave k
  s.setWave k { w with
    state := .ready, readySince := s.cycle, critical := w.critical || s.frameCritical w.node.frame }

/-- Moves every pending wave whose predecessors have all retired or become done to Ready (R340). -/
def State.releasePending (s : State) : State :=
  let free := s.waves.filter fun w => w.2.state == .pending && !w.2.refused && !w.2.node.preds.any s.predOpen
  free.foldl (fun s w => s.enterReady w.1) s

/-- Enters an accepted node as a wave: it takes the next logical wave number (R339). -/
def State.enterNode (s : State) (n : Node) (asid depth : Nat) : State :=
  let w : Wave := { (default : Wave) with
    node := n, asid := asid, depth := depth, groups := n.groups, critical := s.frameCritical n.frame }
  ({ s.setWave s.nextWave w with nextWave := s.nextWave + 1 }).releasePending

/-- Holds a refused node, under a key above every wave number, and reports it (R339). -/
def State.refuseNode (s : State) (n : Node) (asid va reason : Nat) : State :=
  let k := (s.pool.foldl max (2 ^ 32 - 1)) + 1
  (s.setWave k { (default : Wave) with node := n, asid := asid, refused := true }).report
    (mkReport 4 asid 5 reason 0 va 0 0 0)

/-! ## SPAWN and TENQ (R345, R347) -/

/-- SPAWN's entry, once its record is read and checked: it waits while the pool is full. -/
def Cx.spawnEnter (c : Cx) (ga : Word) (n : Node) (s : State) : Out :=
  if s.waves.length ≥ 4096 then c.park (.spawn n) s
  else match s.poolReason n with
    | some _ => c.trap causeIllegal ga s
    | none =>
      let w := waveOf c.t.gid
      c.done ((s.enterNode n (s.asidOf c.tid) ((s.wave w).depth + 1)).setMark w)

/-- SPAWN. -/
def execSpawn (g : Guard) (a : BitVec 6) : State → Out :=
  coreInstr (.spawn g a) { guard := some g, reads := [a] } fun c s =>
    let ga := c.t.rd a
    match c.t.wait with
    | some (.spawn n) => c.spawnEnter ga n s
    | _ =>
      if ga.toNat % 128 ≠ 0 then c.trap causeMisaligned ga s
      else if (s.waveOfThread c.tid).depth = 7 then c.trap causeDepth ga s
      else c.release true (fun s =>
        c.readThen ga.toNat 640 (fun bs s =>
          let n := parseNode bs
          if s.reason1 n || n.reason2 || n.reason3 || n.reason5 then c.trap causeIllegal ga s
          else c.spawnEnter ga n s) s) s

/-- TENQ: the descriptor is checked as an 8-byte atomic in HBM or PEER memory, its poison before gb; in deterministic mode
poison is found when the entry is applied (21 R366). -/
def execTenq (g : Guard) (d a b : BitVec 6) : State → Out :=
  coreInstr (.tenq g d a b) { guard := some g, reads := [a, b], writes := [d] } fun c s =>
    let ga := c.t.rd a
    let gb := c.t.rd b
    if ga.toNat % 128 ≠ 0 then c.trap causeMisaligned ga s
    else match s.resolve (s.who c.tid) needRW ga.toNat 8 with
      | .fault cause => c.trap cause ga s
      | .walk => c.awaitWalk ga.toNat 2 s
      | .at l =>
        let reachable := match l.space with
          | .hbm | .peer _ => true
          | _ => false
        if !reachable then c.trap causeAccess ga s
        else if !s.det c.tid ∧ s.poisoned l then c.trap causePoison ga s
        else if bitsOf gb.toNat 57 7 ≠ 0 ∨ bitsOf gb.toNat 0 7 ≠ 0 then c.trap causeIllegal gb s
        else c.release true (fun s => c.access (c.mkAccess .tenq ga.toNat 8 d gb 0) s) s

/-! ## Draining (R346) -/

/-- The ready-pool queue reader as maker of accesses (05 Table 5.4, bit 34). -/
def poolReader (asid : Nat) : Who := ⟨194, asid, 0, true, .other⟩

/-- How the pool's read of a record ends. -/
inductive PoolRead where
  /-- read, and entered or refused -/
  | taken (s : State)
  /-- an absent page of this level at this address -/
  | page (va level : Nat)
  /-- the home of a place on its way cannot serve it now, or a line of another package has not come -/
  | held (l : Loc)

/-- Reads the record at an address under an address space, checks it and enters it, or holds it refused. -/
def State.takeRecord (s : State) (asid va : Nat) : PoolRead :=
  if va % 128 ≠ 0 then .taken (s.refuseNode default asid va 7)
  else match s.hubBytes (poolReader asid) va 640 with
    | .absent a level => .page a level
    | .malformed a => .taken ((s.report (mkReport 2 asid 5 0 0 a 0 0 0)).refuseNode default asid va 7)
    | .fault _ => .taken (s.refuseNode default asid va 7)
    | .held l => .held l
    | .ok s bs =>
      let n := parseNode bs
      match s.nodeReason n with
      | some r => .taken (s.refuseNode n asid va r)
      | none => .taken (s.enterNode n asid 0)

/-- A word of a queue read by the pool. -/
def State.poolWord (s : State) (asid va : Nat) : HubBytes :=
  if va % 8 ≠ 0 then .fault causeMisaligned else s.hubBytes (poolReader asid) va 8

/-- HEAD, TAIL, RING and CAP of a queue's 28 bytes. -/
def queueWords (bs : List Byte) : Nat × Nat × Nat × Nat :=
  let word := fun (i n : Nat) => leNat ((bs.drop i).take n)
  (word 0 8, word 8 8, word 16 8, word 24 4)

/-- The pool waits for the page of a read. -/
def WatchedQueue.parkOn (q : WatchedQueue) (s : State) (va level : Nat) : State × WatchedQueue :=
  let (s, tag) := s.pageReport q.asid va level 5 0 0
  (s, { q with parked := tag + 1 })

/-- The pool waits for a line of another package: since when, unless it waits for it already. A read held here needs no note. -/
def WatchedQueue.awaits (q : WatchedQueue) (l : Loc) (now : Nat) : Option WatchedQueue :=
  if l.space.foreign ∧ q.line ≠ some l then some { q with line := some l, waited := now } else none

/-- Whether a read of the pool from another package has waited for 2 ms (25 R424). -/
def WatchedQueue.silent (q : WatchedQueue) (now : Nat) : Bool :=
  q.parked == 0 && q.line.isSome && decide (q.waited + Config.peerTimeout ≤ now)

/-- Advances HEAD by one at its home, an atomic add; none while a gate holds it. -/
def State.advanceHead (s : State) (q : WatchedQueue) (l : Loc) : Option State :=
  (s.admitAgent (poolReader q.asid).unit l).map fun s =>
    let hint := s.agentHint l
    let s := s.recallFor (poolReader q.asid) l hint
    s.performWrite (poolReader q.asid) l (leBytes 8 ((s.numAt l 8 + 1) % 2 ^ 64)) hint

/-- The pool's visit to one queue: nothing, a wait for a page or for another package, or one entry taken. A record or entry it
cannot read is refused: of a page the driver has refused (`refuse`), or of a package that does not answer (`silent`). A read of
the descriptor itself that the driver refuses ends so too, with the descriptor's address in the refusal, and a malformed
entry it meets is reported once (R405, R401; DESIGN CHOICE, log entry 107). -/
def State.visit (s : State) (q : WatchedQueue) (refuse silent : Bool) : State × WatchedQueue × Bool :=
  let reader := poolReader q.asid
  let idle := (s, q, false)
  let over_ := fun (t : State) (h : Loc) => match t.advanceHead q h with
    | some t => (t, { q with line := none, told := false }, true)
    | none => idle
  let page := fun (s : State) (va level : Nat) (head : Option Loc) =>
    if refuse then match head with
      | some h => over_ (s.refuseNode default q.asid va 7) h
      | none => (s.refuseNode default q.asid va 7, { q with line := none }, true)
    else let (s, q) := q.parkOn s va level; (s, { q with line := none }, true)
  let held := fun (l : Loc) (va : Nat) (head : Option Loc) =>
    if silent && q.line == some l then match head with
      | some h => over_ (s.refuseNode default q.asid va 7) h
      | none => (s, { q with waited := s.cycle }, true)
    else match q.awaits l s.cycle with
      | some q => (s, q, true)
      | none => idle
  match s.hubPlace reader needRW q.va 8 with
  | .absent level => page s q.va level none
  | .malformed =>
    if q.told then idle else (s.report (mkReport 2 q.asid 5 0 0 q.va 0 0 0), { q with told := true }, true)
  | .fault _ => idle
  | .at h =>
    if s.isFrozen h then idle
    else match s.hubBytes reader q.va 28 with
    | .held l => held l q.va none
    | .absent _ _ | .malformed _ | .fault _ => idle
    | .ok t bs =>
      let (head, tail, ring, cap) := queueWords bs
      if tail ≤ head then idle
      else
        let va := (ring + head % cap * 8) % 2 ^ 64
        match t.poolWord q.asid va with
        | .absent a level => page s a level (some h)
        | .malformed a => over_ ((t.report (mkReport 2 q.asid 5 0 0 a 0 0 0)).refuseNode default q.asid va 7) h
        | .fault _ => over_ (t.refuseNode default q.asid va 7) h
        | .held l => held l va (some h)
        | .ok t entry =>
          match t.takeRecord q.asid (leNat entry) with
          | .held l => held l (leNat entry) (some h)
          | .page a level => if refuse then over_ (t.refuseNode default q.asid (leNat entry) 7) h else page t a level (some h)
          | .taken t => over_ t h

/-- One round over the watched queues, in registration order, while the pool holds fewer than 4,096 nodes. A queue that waits on a
page is passed over, and the rounds go on with the others (R346 does not say; DESIGN CHOICE, log entry 108). -/
def State.drainRound : List WatchedQueue → State × List WatchedQueue × Bool → State × List WatchedQueue × Bool
  | [], r => r
  | q :: qs, (s, done, any) =>
    if q.parked ≠ 0 ∨ s.waves.length ≥ 4096 then State.drainRound qs (s, done ++ [q], any)
    else
      let (s, q, moved) := s.visit q false false
      State.drainRound qs (s, done ++ [q], any || moved)

/-- Enters a record the driver names directly (01 R36); it waits for an absent page, or with `parked` 0 for a home on its
way or a line of another package. -/
def State.enterDirect (s : State) (asid va : Nat) : State :=
  match s.takeRecord asid va with
  | .taken s => s
  | .held l => { s with direct := s.direct ++ [⟨va, asid, 0, if l.space.foreign then some l else none, s.cycle, false⟩] }
  | .page a level =>
    let (s, tag) := s.pageReport asid a level 5 0 0
    { s with direct := s.direct ++ [⟨va, asid, tag + 1, none, 0, false⟩] }

/-- A record named directly whose read was held and can be made now, or goes on to another line of another package. -/
def State.directReady (s : State) : Option WatchedQueue :=
  s.direct.find? fun q => q.parked == 0 && (match s.takeRecord q.asid q.va with
    | .held l => (q.awaits l s.cycle).isSome
    | _ => true)

/-- The pool's first read from another package that has waited for 2 ms ends: a record is refused with reason 7, as of a read
that faults; a descriptor is read again (25 R424). -/
def State.poolSilent (s : State) : Option State :=
  match s.direct.find? (·.silent s.cycle) with
  | some q => some ({ s with direct := s.direct.erase q }.refuseNode default q.asid q.va 7)
  | none =>
    if !s.watched.any (·.silent s.cycle) then none
    else
      let (s, qs) := s.watched.foldl (fun (p : State × List WatchedQueue) q =>
        if q.silent s.cycle then
          let (s, q, _) := p.1.visit q false true
          (s, p.2 ++ [q])
        else (p.1, p.2 ++ [q])) (s, [])
      some { s with watched := qs }

/-- Whether a read of the pool waits for a line of another package to come. -/
def State.poolWants (s : State) (pkg line : Nat) : Bool :=
  (s.direct ++ s.watched).any fun q => q.parked == 0 && q.line.any fun l =>
    l.space == .peer pkg && lineOf l.addr == line && !s.peerHeld l

/-- QUEUE_DRAIN_ROUND. The command processor drains no queue before features are accepted (25 R429). -/
def onQueueDrainRound (s : State) : Option State :=
  if !s.host.fack then none
  else match s.directReady with
    | some q => some ({ s with direct := s.direct.erase q }.enterDirect q.asid q.va)
    | none => match State.drainRound s.watched (s, [], false) with
      | (_, _, false) => none
      | (s, qs, true) => some { s with watched := qs }
/-- QUEUE_DRAIN_ROUND: it happens, or nothing does. -/
def execQueueDrainRound (s : State) : Out := happens onQueueDrainRound s

/-- The pool's reads that waited on a report, when the driver answers it: made again, or ended with reason 7 (23 R405). -/
def State.answerPool (s : State) (tag : Nat) (refuse : Bool) : State :=
  let mine := fun (q : WatchedQueue) => q.parked == tag + 1
  let direct := s.direct.filter mine
  let s := { s with direct := s.direct.filter fun q => !mine q }
  let s := direct.foldl (fun s q =>
    if refuse then s.refuseNode default q.asid q.va 7 else s.enterDirect q.asid q.va) s
  let (s, qs) := s.watched.foldl (fun (p : State × List WatchedQueue) q =>
    if !mine q then (p.1, p.2 ++ [q])
    else if refuse then
      let (s, q, _) := p.1.visit { q with parked := 0 } true false
      (s, p.2 ++ [q])
    else (p.1, p.2 ++ [{ q with parked := 0 }])) (s, [])
  { s with watched := qs }

end Sys2Proof.Machine
end

