-- ==== Sys2Proof/Machine/Coherence.lean ====
section
/-! DEFINITION. The coherence protocol's events (05 R92-R100): what homes and L1s do with the requests and messages that
are under way, atomics at their homes, accesses that travel to tiles, the host and other packages, and what other
packages and the companion processor do here. -/

namespace Sys2Proof.Machine

/-- The fabric as an agent: sharer bit 39. -/
def fabric : Nat := 199

/-! ## Messages -/

/-- Whether a message travels from a home to an L1. -/
def MsgKind.down : MsgKind → Bool
  | .invalidate | .forward _ | .grant _ | .wbAck => true
  | .writeback | .invAck | .fwdResponse _ _ _ => false

/-- The oldest message of one direction between a home and an L1 about a line, taken out (R94: messages keep their order),
when it is of the kind asked for; none while the link between them holds (25 R411). -/
def State.takeMsg (s : State) (line unit : Nat) (down : Bool) (kind : MsgKind → Bool) : Option (Msg × State) :=
  match s.msgs.find? fun m => m.line == line && m.unit == unit && m.kind.down == down with
  | some m => if kind m.kind && !s.linkHeld unit then some (m, { s with msgs := s.msgs.erase m }) else none
  | none => none

/-- Units other than one that may hold the line: holders, and those a grant is on its way to. -/
def State.otherHolders (s : State) (line unit : Nat) : List Nat :=
  ((s.holders line).map (·.1) ++ (s.msgs.filterMap fun m => match m.kind with
    | .grant _ => if m.line = line then some m.unit else none
    | _ => none)).dedup.filter (· != unit)

/-- Clears the sharer bit of a unit unless another unit of its cluster holds the line. -/
def State.clearSharer (s : State) (unit line : Nat) : State :=
  let h := s.homeLine line
  if (s.otherHolders line unit).any fun u => sharerBit u == sharerBit unit then s
  else s.setHome line { h with sharers := h.sharers &&& ~~~sharerMask unit }

/-! ## Admission (R93-R95) -/

/-- The access a thread waits for at a line's home. -/
def State.waitingAt (s : State) (tid line : Nat) : Option Access :=
  match (s.thread tid).wait with
  | some (.access a) => if a.loc.space = .hbm ∧ lineOf a.loc.addr = line ∧ (s.thread tid).live then some a else none
  | _ => none

/-- Whether an order gate lets a request through now (21 R375). -/
def State.gateOpen (s : State) (line : Nat) (r : Request) : Bool :=
  if r.tid = 0 then true
  else match s.waitingAt (r.tid - 1) line with
    | some a => !s.watchedVa (waveOf (s.thread (r.tid - 1)).gid) a.va || (s.admitThread (r.tid - 1) a.loc).isSome
    | none => true

/-- The request a home admits next: the oldest its gate lets through; of those of one cycle the lowest sharer bit, then the
lowest unit (R94). Those a link has held came in the order in which they were sent (25 R411). -/
def State.nextReq (s : State) (line : Nat) : Option Request :=
  match (s.homeLine line).queue.filter fun r => r.trip != .held && s.gateOpen line r && !s.writingBack r.unit line with
  | [] => none
  | r :: rs =>
    if r.trip = .late then some r
    else some ((rs.filter fun x => x.trip == .direct && x.arrived == r.arrived).foldl (fun b x =>
      if [sharerBit x.unit, x.unit] < [sharerBit b.unit, b.unit] then x else b) r)

/-- A request granted without a copy in the requester's L1 (09 R186): its access is made as the data passes, and the L2 line
is kept or not as its hint says. -/
def State.grantThrough (s : State) (line : Nat) (r : Request) : State :=
  let h := s.homeLine line
  let s := s.setHome line (HomeLine.rest { h with active := none, acks := [], held := h.held || decide (r.hint = 1) })
  match (if r.tid = 0 then none else s.waitingAt (r.tid - 1) line) with
  | some a => (s.settleAccess (r.tid - 1) a).l2Room line
  | none => s.l2Room line

/-- Whose writes a request is for. -/
def Request.writer (r : Request) : Writer := if r.tid = 0 then .other else .thread (r.tid - 1)

/-- Whether the owner a home records still has the line, or the grant that makes it the owner is on its way: a request of that
unit that waited meanwhile does not take the ownership back (R93, Table 5.5). -/
def State.ownsStill (s : State) (unit line : Nat) : Bool :=
  s.l1St unit line != .i || s.msgs.any fun m => m.line == line && m.unit == unit && (m.kind matches .grant _)

/-- The grant of an admitted request: E when no other cache holds the line, in this package or another, S, or M (R93), with
which the copies of other packages are invalidated (R97); `shared` when a write-back buffer answered a read-shared forward
(Table 5.6). Upgrades that waited behind a grant of ownership become read-exclusives (R95). -/
def State.grant (s : State) (line : Nat) (r : Request) (shared : Bool) : State :=
  let h := s.homeLine line
  let done := { h with active := none, acks := [], held := true }
  let msg := fun (st : Moesi) => (⟨line, r.unit, .grant st, r.tid, 0⟩ : Msg)
  if r.hint ≠ 0 then s.grantThrough line r
  else match r.kind with
  | .readShared =>
    if !shared ∧ s.otherHolders line r.unit = [] ∧ h.sharers.toNat / 2 ^ 32 = 0 ∧ h.peers = [] ∧ !h.allPeers then
      ((s.setHome line { done with state := .ow, sharers := sharerMask r.unit, owner := r.unit + 1 }).send (msg .e)).l2Room line
    else
      let owner := if h.owner = r.unit + 1 ∧ !s.ownsStill r.unit line then 0 else h.owner
      ((s.setHome line { done with
        state := if owner = 0 then .sh else .ow, owner := owner, sharers := h.sharers ||| sharerMask r.unit }).send
          (msg .s)).l2Room line
  | _ =>
    (((s.setHome line { done with
      state := .ow, sharers := sharerMask r.unit, owner := r.unit + 1
      queue := h.queue.map fun q =>
        if q.kind = .upgrade ∧ q.unit ≠ r.unit then { q with kind := .readExclusive } else q }).send (msg .m)).invalidatePeers
          line r.writer).l2Room line

/-- What a home does with a request it admits, the line's record being `h` without it (Table 5.5). An upgrade whose sender's
bit is clear is served as a read-exclusive (R95): its grant carries the data. -/
def State.serve (s : State) (line : Nat) (h : HomeLine) (r : Request) : State :=
  let s := s.setHome line h
  let active := { h with active := some r }
  let elsewhere := h.owner ≠ 0 ∧ h.owner ≠ r.unit + 1
  match r.kind with
  | .readShared =>
    if elsewhere then
      (s.setHome line { active with state := .fwd }).send ⟨line, h.owner - 1, .forward false, 0, 0⟩
    else if !h.held then s.setHome line { active with state := .fetch }
    else s.grant line r false
  | _ =>
    let others := (s.otherHolders line r.unit).filter fun u => u + 1 != h.owner
    let inval := fun (s : State) => others.foldl (fun s u => s.send ⟨line, u, .invalidate, 0, 0⟩) s
    let h' := { active with acks := others, sharers := h.sharers &&& ~~~(1#40 <<< 38) }
    if elsewhere then
      inval ((s.setHome line { h' with state := .fwd }).send ⟨line, h.owner - 1, .forward true, 0, 0⟩)
    else if others ≠ [] then inval (s.setHome line { h' with state := .inv })
    else if !h.held then s.setHome line { h' with state := .fetch }
    else (s.setHome line h').grant line r false

/-- Admits the next request of a line when it is of the kind asked for. One to a frozen page is answered with a redirect
(R100); one to a watched line is performed at the home, which caches it nowhere (21 R373). -/
def State.takeIn (s : State) (line : Nat) (kind : ReqKind) (body : HomeLine → Request → State → State) : Option State :=
  let h := s.homeLine line
  match s.nextReq line with
  | none => none
  | some r =>
    if h.active.isSome || r.kind != kind || s.tenqHolds line then none
    else
      let h := { h with queue := h.queue.erase r }
      let l : Loc := ⟨.hbm, line * 128⟩
      if r.tid = 0 then
        some (if s.isFrozen l then s.setHome line h else body h r s)
      else match s.waitingAt (r.tid - 1) line with
        | none => some (s.setHome line h)
        | some a =>
          let t := s.thread (r.tid - 1)
          if s.isFrozen l then
            some ((s.setHome line h).setThread (r.tid - 1) { t with wait := some (.redirected a) })
          else if s.watchedVa (waveOf t.gid) a.va then
            let s := s.setHome line h
            if s.lineMsgs line || s.memHeld line || s.copyHeld 1000 line then none
            else (s.admitThread (r.tid - 1) a.loc).map fun s => s.settleAccess (r.tid - 1) { a with hint := 2 }
          else some (body h r s)

/-- HOME_ADMIT_READ_SHARED. -/
def onHomeAdmitReadShared (line : Nat) (s : State) : Option State :=
  s.takeIn line .readShared fun h r s => s.serve line h r
/-- HOME_ADMIT_READ_SHARED: it happens, or nothing does. -/
def execHomeAdmitReadShared (line : Nat) (s : State) : Out := happens (onHomeAdmitReadShared line) s
/-- HOME_ADMIT_READ_EXCLUSIVE. -/
def onHomeAdmitReadExclusive (line : Nat) (s : State) : Option State :=
  s.takeIn line .readExclusive fun h r s => s.serve line h r
/-- HOME_ADMIT_READ_EXCLUSIVE: it happens, or nothing does. -/
def execHomeAdmitReadExclusive (line : Nat) (s : State) : Out := happens (onHomeAdmitReadExclusive line) s
/-- HOME_ADMIT_UPGRADE. -/
def onHomeAdmitUpgrade (line : Nat) (s : State) : Option State :=
  s.takeIn line .upgrade fun h r s => s.serve line h r
/-- HOME_ADMIT_UPGRADE: it happens, or nothing does. -/
def execHomeAdmitUpgrade (line : Nat) (s : State) : Out := happens (onHomeAdmitUpgrade line) s

/-- HOME_ATOMIC_PERFORM: every copy is recalled or invalidated, one whose grant is still on its way too, and the atomic, CAS
or TENQ is performed at its home in one step (R99). -/
def onHomeAtomicPerform (line : Nat) (s : State) : Option State :=
  if s.lineMsgs line || s.memHeld line || s.copyHeld 1000 line then none
  else s.takeIn line .atomic fun h r s =>
    let s := s.setHome line h
    match s.waitingAt (r.tid - 1) line with
    | some a => s.settleAccess (r.tid - 1) a
    | none => s
/-- HOME_ATOMIC_PERFORM: it happens, or nothing does. -/
def execHomeAtomicPerform (line : Nat) (s : State) : Out := happens (onHomeAtomicPerform line) s

/-! ## The order gate's time-out (21 R375) -/

/-- Whether a requester, by its fields in a log chunk, has a request for a watched line of a slice on its way: one that waits at a
home, a read or write made in one step that waits before a line, a fetch, a command of a copy engine, or the close of an
epoch. -/
def State.asks (s : State) (slice code : Nat) : Bool :=
  let here := fun (l : Loc) => l.space == .hbm && homeSlice l.addr == slice
  let thread := fun (tid : Nat) => requesterCode (unitOf tid) (slotOf tid) == code
  let wait := fun (w : Option Wait) (wave : Nat) => match w with
    | some (.line l va _) => here l && s.watchedVa wave va
    | _ => false
  s.home.any (fun p => homeSlice (p.1 * 128) == slice && p.2.queue.any fun r => r.tid != 0 && thread (r.tid - 1))
    || s.threads.any (fun p => p.2.live && thread p.1 && wait p.2.wait (waveOf p.2.gid))
    || s.tiles.any (fun p => requesterCode p.1 0 == code &&
      ((p.2.engines.any fun g => g.2.strand.any fun st => wait st.wait (waveOf (s.tileWho p.1).gid))
        || (s.engine p.1 9).started.any fun c => !(imgOpc c.image == 6) && !c.finished && c.phase == 0 && c.wait.isNone &&
          (s.nextVa p.1 c fun need a => match s.resolve (s.tileWho p.1) need (a % 2 ^ 64) c.eb with
            | .at l => here l && s.watchedVa (waveOf (s.tileWho p.1).gid) (a % 2 ^ 64)
            | _ => false).isSome))
    || s.waves.any fun w => w.2.ask.any fun a => a.gate && thread a.tid && s.watchedVa w.1 a.va

/-- Whether a gate has held a request since a cycle for 2^20 hub cycles (of 2.4 GHz against 1.9 GHz) while the logged requester
sent nothing: none of its requests has been admitted since, and none is on its way to the slice. -/
def State.gateLate (s : State) (asid slice since : Nat) : Bool :=
  decide ((s.cycle - max since ((s.records.get asid).sentAt.get slice)) * 24 ≥ 2 ^ 20 * 19) && !s.gateBlind asid slice
    && !((s.gateNext asid slice).any fun n => s.asks slice n.1)

/-- Whether a thread waits at a closed gate before a line that it reads or writes in one step. -/
def State.gateHeldAt (s : State) (line tid : Nat) : Bool :=
  match (s.thread tid).wait with
  | some (.line l va _) =>
    (s.thread tid).live && l.space == .hbm && lineOf l.addr == line && s.watchedVa (waveOf (s.thread tid).gid) va
      && (s.admitThread tid l).isNone && s.gateLate (s.asidOf tid) (homeSlice (line * 128)) ((s.thread tid).waited - 1)
  | _ => false

/-- A strand of a tile that goes on, whose fetch waits at a closed gate before a line: engine. -/
def State.gateStrand (s : State) (tile line : Nat) : Option Nat :=
  if (s.tile tile).stopped then none
  else (List.range 10).find? fun e => match (s.engine tile e).strand with
    | some st => match st.wait with
      | some (.line l va _) =>
        l.space == .hbm && lineOf l.addr == line && s.watchedVa (waveOf (s.tileWho tile).gid) va
          && (s.admitPlain (s.tileWho tile) 0 va l).isNone
          && s.gateLate (s.tileWho tile).asid (homeSlice (line * 128)) st.waited
      | _ => false
    | none => false

/-- The wave whose epoch's close stands too long at the closed gate before a line: a buffered store or atomic of it. -/
def State.gateClose (s : State) (line : Nat) : Option (Nat × CloseAsk) :=
  s.waves.findSome? fun p => p.2.ask.bind fun a =>
    if a.gate && p.2.closeWait == 0 && a.block == (⟨.hbm, line * 128⟩ : Loc).key / 128 && s.gateLate p.2.asid (homeSlice (line * 128)) a.since then
      some (p.1, a) else none

/-- A write that a close gives up with a fault (21 R366, R375, 25 R424): the close goes on without it. -/
def State.loseAsk (s : State) (k : Nat) (a : CloseAsk) (cause val : Nat) : State :=
  let w := s.wave k
  s.setWave k { w with ask := none, lost := w.lost ++ [⟨a.tid, a.va / 128, cause, val⟩] }

/-- REPLAY_GATE_TIMEOUT: a request its gate has held too long is withdrawn, and its thread, command or strand raises
REPLAY_DIVERGENCE with the slice number (21 R375); a buffered write of an epoch's close raises it as the close ends. -/
def onReplayGateTimeout (line : Nat) (s : State) : Option State :=
  let h := s.homeLine line
  let slice := homeSlice (line * 128)
  let raise := fun (s : State) (tid : Nat) => s.trap tid causeReplay (s.thread tid).pc (BitVec.ofNat 64 slice)
  match h.queue.find? fun r => r.trip != .held && !s.gateOpen line r && s.gateLate (s.asidOf (r.tid - 1)) slice r.arrived with
  | some r => some (raise (s.setHome line { h with queue := h.queue.erase r }) (r.tid - 1))
  | none => match s.tids.find? (s.gateHeldAt line) with
    | some tid => some (raise s tid)
    | none => match s.tiles.findSome? fun p => (s.gateStrand p.1 line).map fun e => (p.1, e) with
      | some (tile, e) =>
        some (s.raiseEngine tile e (s.engine tile e).seq.toNat causeReplay slice)
      | none =>
        match s.tiles.findSome? fun p => (s.gateCopy p.1 line).bind fun c =>
            if s.gateLate (s.tileWho p.1).asid slice c.waited && !p.2.stopped then some (p.1, c) else none with
        | some (tile, c) => some (s.failCommand tile 9 c causeReplay slice)
        | none => match s.gateClose line with
          | some (k, a) => some (s.loseAsk k a causeReplay slice)
          | none => none
/-- REPLAY_GATE_TIMEOUT: it happens, or nothing does. -/
def execReplayGateTimeout (line : Nat) (s : State) : Out := happens (onReplayGateTimeout line) s

/-! ## At the home -/

/-- HOME_FETCH_DATA_ARRIVE: the awaited data arrives, over a link that does not hold, and the request is granted. -/
def onHomeFetchDataArrive (line : Nat) (s : State) : Option State :=
  let h := s.homeLine line
  match h.active with
  | some r => if h.state = .fetch ∧ !s.memHeld line then some (s.grant line r false) else none
  | none => none
/-- HOME_FETCH_DATA_ARRIVE: it happens, or nothing does. -/
def execHomeFetchDataArrive (line : Nat) (s : State) : Out := happens (onHomeFetchDataArrive line) s

/-- HOME_INVALIDATION_ACK: the last acknowledgement lets the request be granted. -/
def onHomeInvalidationAck (line unit : Nat) (s : State) : Option State :=
  match s.takeMsg line unit false (· == .invAck) with
  | none => none
  | some (_, s) =>
    let s := s.clearSharer unit line
    let h := s.homeLine line
    let h := { h with acks := h.acks.filter (· != unit) }
    let s := s.setHome line h
    match h.active with
    | some r => some (if h.acks = [] ∧ h.state = .inv then s.grant line r false else s)
    | none => some s
/-- HOME_INVALIDATION_ACK: it happens, or nothing does. -/
def execHomeInvalidationAck (line unit : Nat) (s : State) : Out := happens (onHomeInvalidationAck line unit) s

/-- HOME_FORWARD_RESPONSE: the owner's answer; the request is granted, or awaits the remaining acknowledgements. Data of a
write-back buffer that a reader shares makes the L2 line dirty, and the home goes to SH (Table 5.6). -/
def onHomeForwardResponse (line : Nat) (s : State) : Option State :=
  let up := fun (k : MsgKind) => match k with
    | .fwdResponse _ _ _ => true
    | _ => false
  match s.msgs.find? fun m => m.line == line && up m.kind with
  | none => none
  | some m =>
    match s.takeMsg line m.unit false up with
    | some (⟨_, unit, .fwdResponse excl left buffer, _, _⟩, s) =>
      let s := if left = .i then s.clearSharer unit line else s
      let h := s.homeLine line
      let h := { h with
        owner := if h.owner = unit + 1 ∧ left ≠ .o then 0 else h.owner, dirty := h.dirty || (buffer && !excl) }
      let s := s.setHome line h
      match h.active with
      | some r =>
        if h.acks = [] then some (s.grant line r (buffer && !excl)) else some (s.setHome line { h with state := .inv })
      | none => some s
    | _ => none
/-- HOME_FORWARD_RESPONSE: it happens, or nothing does. -/
def execHomeForwardResponse (line : Nat) (s : State) : Out := happens (onHomeForwardResponse line) s

/-- HOME_WRITEBACK_ARRIVE: accepted in every state. The owner's data goes to the L2 line unless ownership is being handed on
with it (Table 5.6); either way it is acknowledged. -/
def onHomeWritebackArrive (line unit : Nat) (s : State) : Option State :=
  match s.takeMsg line unit false (· == .writeback) with
  | none => none
  | some (_, s) =>
    let h := s.homeLine line
    let kept := h.state = .fwd ∧ h.owner = unit + 1
    let excl := match h.active with
      | some r => r.kind != .readShared
      | none => false
    let s :=
      if kept then s.setHome line { h with dirty := h.dirty || !excl }
      else if h.owner = unit + 1 then
        let s := s.clearSharer unit line
        let h := s.homeLine line
        let h := { h with owner := 0, dirty := true }
        s.setHome line (if h.active.isSome then h else h.rest)
      else s
    some (s.send ⟨line, unit, .wbAck, 0, 0⟩)
/-- HOME_WRITEBACK_ARRIVE: it happens, or nothing does. -/
def execHomeWritebackArrive (line unit : Nat) (s : State) : Out := happens (onHomeWritebackArrive line unit) s

/-! ## At an L1 -/

/-- L1_INVALIDATION_RECEIVE: the copy is dropped and the home told; an outstanding upgrade goes on waiting (R95). -/
def onL1InvalidationReceive (line unit : Nat) (s : State) : Option State :=
  match s.takeMsg line unit true (· == .invalidate) with
  | none => none
  | some (_, s) => some ((s.leaveL1 unit line).send ⟨line, unit, .invAck, 0, 0⟩)
/-- L1_INVALIDATION_RECEIVE: it happens, or nothing does. -/
def execL1InvalidationReceive (line unit : Nat) (s : State) : Out := happens (onL1InvalidationReceive line unit) s

/-- The state an owner keeps a line in when it answers a forward (R93, Table 5.6). -/
def keptAfter (excl : Bool) (st : Moesi) : Moesi :=
  if excl then .i else match st with
    | .m | .o => .o
    | .e | .s => .s
    | .i => .i

/-- L1_FORWARD_RECEIVE: the owner answers with the line's data, from its write-back buffer if the line is there (R96). -/
def onL1ForwardReceive (line unit : Nat) (s : State) : Option State :=
  let fwd := fun (k : MsgKind) => match k with
    | .forward _ => true
    | _ => false
  match s.takeMsg line unit true fwd with
  | some (⟨_, _, .forward excl, _, _⟩, s) =>
    let st := s.l1St unit line
    let left := keptAfter excl st
    let buffer := st == .i && (s.l1.get (l1Key unit line)).wb
    let s := if left = .i then s.leaveL1 unit line else s.setL1 unit line left
    some (s.send ⟨line, unit, .fwdResponse excl left buffer, 0, 0⟩)
  | _ => none
/-- L1_FORWARD_RECEIVE: it happens, or nothing does. -/
def execL1ForwardReceive (line unit : Nat) (s : State) : Out := happens (onL1ForwardReceive line unit) s

/-- L1_GRANT_RECEIVE: the line is held in the state granted, and the access that waited for it is performed. -/
def onL1GrantReceive (line unit : Nat) (s : State) : Option State :=
  let isGrant := fun (k : MsgKind) => match k with
    | .grant _ => true
    | _ => false
  match s.takeMsg line unit true isGrant with
  | some (⟨_, _, .grant st, tid, _⟩, s) =>
    let s := if st = .m ∨ s.l1St unit line = .i then (s.setL1 unit line st).evictFor unit line else s
    if tid = 0 then some s
    else match s.waitingAt (tid - 1) line with
      | some a => some (s.settleAccess (tid - 1) a)
      | none => some s
  | _ => none
/-- L1_GRANT_RECEIVE: it happens, or nothing does. -/
def execL1GrantReceive (line unit : Nat) (s : State) : Out := happens (onL1GrantReceive line unit) s

/-- L1_WRITEBACK_ACK: the write-back buffer is free. -/
def onL1WritebackAck (line unit : Nat) (s : State) : Option State :=
  match s.takeMsg line unit true (· == .wbAck) with
  | none => none
  | some (_, s) => some { s with l1 := s.l1.upd (l1Key unit line) fun x => { x with wb := false } }
/-- L1_WRITEBACK_ACK: it happens, or nothing does. -/
def execL1WritebackAck (line unit : Nat) (s : State) : Out := happens (onL1WritebackAck line unit) s

/-! ## Accesses that travel -/

/-- Whether an access of the same gang, made by a lower home lane, still has to be performed first, redirected or not: it parked
in the same cycle on the same unit, before this one, and its place lies in the same line (09 R161). -/
def State.gangEarlier (s : State) (tid : Nat) (a : Access) : Bool :=
  let t := s.thread tid
  s.threads.any fun p => p.1 != tid && p.2.live && unitOf p.1 == unitOf tid && p.2.parkedIn == t.parkedIn
    && decide (p.2.parkedAt < t.parkedAt) && (match p.2.wait with
      | some (.access b) | some (.redirected b) => b.loc.space == a.loc.space && lineOf b.loc.addr == lineOf a.loc.addr
      | _ => false)

/-- The access a thread waits for, when it leads to a space of one kind and no earlier one of its gang comes first. -/
def State.travelling (s : State) (tid : Nat) (to_ : Space → Bool) : Option Access :=
  match (s.thread tid).wait with
  | some (.access a) => if (s.thread tid).live && to_ a.loc.space && !s.gangEarlier tid a then some a else none
  | _ => none

/-- REMOTE_SCRATCHPAD_ACCESS: performed at the target tile, or ACCESS_FAULT when its group has gone (01 R40), or when the
scratchpad of the group there now ends before the last byte (R19). -/
def onRemoteScratchpadAccess (tid : Nat) (s : State) : Option State :=
  let sp := fun (x : Space) => match x with
    | .sp t => t != unitOf tid
    | _ => false
  match s.travelling tid sp with
  | none => none
  | some a =>
    let tile := match a.loc.space with
      | .sp t => t
      | _ => 0
    if s.linkHeld (unitOf tid) || s.linkHeld tile then none
    else if s.tileOpen (s.who tid) tile && decide (a.loc.addr + a.size ≤ Config.scratchSize (s.tile tile).sram) then some (s.settleAccess tid a)
    else some (s.trap tid causeAccess (s.thread tid).pc (BitVec.ofNat 64 a.va))
/-- REMOTE_SCRATCHPAD_ACCESS: it happens, or nothing does. -/
def execRemoteScratchpadAccess (tid : Nat) (s : State) : Out := happens (onRemoteScratchpadAccess tid) s

/-- HOST_TRANSACTION_COMPLETE: the companion processor has performed the access, and its response returns. -/
def onHostTransactionComplete (tid : Nat) (s : State) : Option State :=
  match s.travelling tid (· == .host) with
  | none => none
  | some a => if s.linkHeld (unitOf tid) then none else some (s.settleAccess tid a)
/-- HOST_TRANSACTION_COMPLETE: it happens, or nothing does. -/
def execHostTransactionComplete (tid : Nat) (s : State) : Out := happens (onHostTransactionComplete tid) s

/-- REDIRECTED_ATOMIC_RESEND: a redirected access is made again once the translation it used is gone, or its page is no
longer frozen (R100, 23 R407). An access to another package is redirected by the home there. -/
def onRedirectedAtomicResend (tid : Nat) (s : State) : Option State :=
  let t := s.thread tid
  let who := s.who tid
  let same := fun (a : Access) => match s.tlbLookup who.unit who.asid a.va with
    | some (level, e) => leafPlace s level e a.va == .at a.loc
    | none => false
  let again : Option State := some (s.setThread tid { t with wait := none, since := s.cycle })
  match t.wait with
  | some (.redirected a) =>
    if t.live && !(same a && s.isFrozen a.loc) && !s.gangEarlier tid a then again else none
  | some (.access a) => match a.loc.space with
    | .peer _ => if t.live && !same a && !s.gangEarlier tid a then again else none
    | _ => none
  | _ => none
/-- REDIRECTED_ATOMIC_RESEND: it happens, or nothing does. -/
def execRedirectedAtomicResend (tid : Nat) (s : State) : Out := happens (onRedirectedAtomicResend tid) s

/-- FENCE_COMPLETE: what a fence waits for is performed, and its thread executes it to its end (09 R188, R207). -/
def onFenceComplete (tid : Nat) (s : State) : Option State :=
  let t := s.thread tid
  let met := match t.wait with
    | some .fence => !s.owes tid
    | some .fencePort => t.portsDone
    | _ => false
  if t.live && met then some (s.setThread tid { t with wait := none, since := s.cycle }) else none
/-- FENCE_COMPLETE: it happens, or nothing does. -/
def execFenceComplete (tid : Nat) (s : State) : Out := happens (onFenceComplete tid) s

/-! ## Other packages (R97, 25 R424) -/

/-- The thread of this package that waits for an access to a line of another, read or not: the first that parked (09 R161). -/
def State.peerWaiter (s : State) (pkg line : Nat) (read : Bool) : Option Nat :=
  leastBy (fun a b => decide ((s.thread a).parkedAt < (s.thread b).parkedAt)) (s.tids.filter fun m =>
    match (s.thread m).wait with
    | some (.access a) => (s.thread m).live && a.loc.space == .peer pkg && lineOf a.loc.addr == line &&
        read == (match a.op with | .load _ => true | _ => false) && !s.linkHeld (unitOf m)
    | _ => false)

/-- Whether a read made in one step waits for a line of another package to come. -/
def Wait.wants (w : Option Wait) (pkg line : Nat) : Bool :=
  match w with
  | some (.line l _ _) => l.space == .peer pkg && lineOf l.addr == line
  | _ => false

/-- Whether a fetch or a record read of some thread or strand here, a read of a copy engine, or a read of the pool waits for a
line of another package. -/
def State.lineWanted (s : State) (pkg line : Nat) : Bool :=
  (s.threads.any fun p => p.2.live && Wait.wants p.2.wait pkg line && !s.linkHeld (unitOf p.1)) || s.poolWants pkg line
    || s.tiles.any fun p => !s.linkHeld p.1 && ((s.copyAwaits p.1 pkg line false).isSome || p.2.engines.any fun g =>
      match g.2.strand with
      | some st => Wait.wants st.wait pkg line
      | none => false)

/-- The wave whose epoch's close waits for another package to answer its write to a line there. -/
def State.closeWaiter (s : State) (pkg line : Nat) : Option Nat :=
  (s.waves.find? fun p => p.2.closeWait == 0 && p.2.ask.any fun a => !a.gate && a.block == (⟨.peer pkg, line * 128⟩ : Loc).key / 128).map (·.1)

/-- The companion processor as maker of accesses. -/
def companion : Who := ⟨198, 0, 0, true, .host⟩

/-- The block of another package's memory that the ring store of an enqueue from the host goes to, if it goes there. -/
def State.hostBlock (s : State) (desc : Nat) : Option Nat :=
  let d : Loc := ⟨.hbm, desc⟩
  let va := (s.numAt (d.plus 16) 8 + s.numAt (d.plus 8) 8 % s.numAt (d.plus 24) 4 * 8) % 2 ^ 64
  match s.resolve companion needW va 8 with
  | .at l => if l.space.foreign then some (l.key / 128) else none
  | _ => none

/-- Who waits for another package to answer a write to a line there that is made in one step: a thread's ring store or checkpoint,
a command of a copy engine, a cut record; with the block. -/
def State.farWriter (s : State) (pkg line : Nat) : Option PeerAnswer :=
  let block := (⟨.peer pkg, line * 128⟩ : Loc).key / 128
  let fresh := fun (w : Writer) => if s.answers.contains ⟨w, block⟩ then none else some (⟨w, block⟩ : PeerAnswer)
  let thread := s.threads.findSome? fun p => match p.2.wait with
    | some (.line l _ true) =>
      if p.2.live && l.space == .peer pkg && lineOf l.addr == line && !s.linkHeld (unitOf p.1) then fresh (.thread p.1) else none
    | _ => none
  let tile := fun (t : Nat) => if s.linkHeld t then none else match s.copyAwaits t pkg line true with
    | some c => fresh (.command t 9 c.seq.toNat)
    | none => if (s.tile t).cutSince ≠ 0 ∧ s.cutBlock t = some block then fresh (.cut t) else none
  thread.or ((s.tiles.findSome? fun p => tile p.1).or
    (if s.hostPark.any fun w => s.hostBlock w.desc = some block then fresh .host else none))

/-- A command whose access another package has answered has waited for it no longer. -/
def State.noteAnswer (s : State) (a : PeerAnswer) : State :=
  let s := { s with answers := s.answers ++ [a] }
  match a.writer with
  | .command t e seq => match (s.engine t e).command seq with
    | some c => s.setCommand t e { c with waited := s.cycle }
    | none => s
  | _ => s

/-- The COLL of a tile that waits for the ranks of a package. -/
def State.collAwaits (s : State) (tile pkg : Nat) : Option Command :=
  (s.foreignColl tile).bind fun c => if (s.ranksAwaited tile c).contains pkg && !s.linkHeld tile then some c else none

/-- An access here to a line of another package is performed there, if the fabric domain registers its number (25 R425): a
thread's; for a fetch, a record or a copy engine's read the line comes to this package's L2; a write made in one step, or
one of an epoch's close, has its answer; and where nothing reads the line, the package's ranks have contributed to a COLL
that waits for them (the form of that input is the model's own; log entry 95). -/
def State.peerPerform (s : State) (pkg line : Nat) (read : Bool) : Option State :=
  if !s.domain.contains pkg then none
  else match s.peerWaiter pkg line read with
  | none =>
    if read then
      if s.lineWanted pkg line then some (s.takePeer ⟨.peer pkg, line * 128⟩)
      else s.tiles.findSome? fun p => (s.collAwaits p.1 pkg).map fun c =>
        s.noteAnswer ⟨.command p.1 9 c.seq.toNat, ranksBlock pkg⟩
    else match s.farWriter pkg line with
      | some a => some (s.noteAnswer a)
      | none => (s.closeWaiter pkg line).map fun k =>
        let w := s.wave k
        s.setWave k { w with ask := none, answered := w.answered ++ (w.ask.map (·.block)).toList }
  | some m => match (s.thread m).wait with
    | some (.access a) => some (s.settleAccess m a)
    | _ => none

/-- Whether a home here can serve an access from outside to one of its lines now. -/
def State.outsideOk (s : State) (line : Nat) : Bool :=
  decide (line * 128 < Config.hbmBytes) && !s.blocked fabric ⟨.hbm, line * 128⟩

/-- Whether a home here answers a request from outside with a redirect: its page is frozen. Nothing is performed, and whoever sent
it sends it again, as another input, once the new translation is visible there (R100, 23 R407). -/
def State.redirects (s : State) (line : Nat) : Bool := s.isFrozen ⟨.hbm, line * 128⟩

/-- PEER_READ_AT_TARGET: another package's home serves our read, or our home serves another package and lists it, the fifth
reader making it the all-packages mark; a watched line is admitted as the fabric's request, and no cache keeps it (21
R373). -/
def onPeerReadAtTarget (src dst line : Nat) (s : State) : Option State :=
  if src = s.pkg ∧ dst ≠ s.pkg then s.peerPerform dst line true
  else if dst ≠ s.pkg ∨ src = s.pkg ∨ !s.feature 5 ∨ !s.domain.contains s.pkg then none
  else if s.redirects line then some s
  else if !s.outsideOk line then none
  else (s.admitAgent fabric ⟨.hbm, line * 128⟩).map fun s =>
    if s.watchers line ≠ [] then s.cohRead fabric line 2
    else
      let s := s.cohRead fabric line 1
      let h := s.homeLine line
      let many := !h.peers.contains src && decide (h.peers.length ≥ 4)
      s.setHome line { h with
        peers := if many ∨ h.allPeers then [] else if h.peers.contains src then h.peers else h.peers ++ [src]
        allPeers := h.allPeers || many }
/-- PEER_READ_AT_TARGET: it happens, or nothing does. -/
def execPeerReadAtTarget (src dst line : Nat) (s : State) : Out := happens (onPeerReadAtTarget src dst line) s

/-- An operation of another package on a line of ours, as the data of PEER_WRITE_AT_TARGET give it: at 128 the operation (0 to
11 an ATOM's code, 12 CAS), at 129 the size, at 130 the offset, from 136 the operand and from 144 the expected value,
little-endian (the form of the input is the model's own; DESIGN CHOICE, log entry 95). -/
structure PeerAtomic where
  op : Nat
  size : Nat
  offset : Nat
  value : Nat
  expected : Nat

/-- The operation that data name, if it is well formed. -/
def peerAtomic (data : List (Nat × Byte)) : Option PeerAtomic :=
  let at_ := fun (i : Nat) => ((data.find? (·.1 == i)).map (·.2.toNat)).getD 0
  let num := fun (i : Nat) => leNat ((List.range 8).map fun j => BitVec.ofNat 8 (at_ (i + j)))
  let a : PeerAtomic := ⟨at_ 128, at_ 129, at_ 130, num 136, num 144⟩
  if data.any (·.1 == 128) ∧ a.op ≤ 12 ∧ (a.size = 4 ∨ a.size = 8) ∧ a.offset % a.size = 0 ∧ a.offset + a.size ≤ 128
      ∧ (a.op = 11 → a.size = 4) then some a else none

/-- What an operation leaves where `m` stood; none where it writes nothing. -/
def PeerAtomic.result (a : PeerAtomic) (m : Nat) : Option Nat :=
  if a.op = 12 then (if m = a.expected % 2 ^ (8 * a.size) then some a.value else none) else some (atomNew a.op a.size m a.value)

/-- Another package as maker of accesses at our homes: sharer bit 39. -/
def outsider : Who := ⟨fabric, 0, 0, true, .other⟩

/-- Our home performs another package's atomic in one step: every copy is recalled, the packages' that it lists too, whether it
writes or not (R97, R99). A poisoned line is left as it is. -/
def State.atomicFromOutside (s : State) (line : Nat) (a : PeerAtomic) : State :=
  let l : Loc := ⟨.hbm, line * 128 + a.offset⟩
  if s.poisoned l then s
  else
    let hint := s.agentHint l
    let s := s.recallFor outsider l hint
    match a.result (s.numAt l a.size) with
    | some v => s.performWrite outsider.atHome l (leBytes a.size v) hint
    | none => s

/-- PEER_WRITE_AT_TARGET: another package's home performs our store or atomic, or applies what a third package or its own
writes; or our home applies another package's bytes, or performs its atomic, and sends the invalidations. -/
def onPeerWriteAtTarget (src dst line : Nat) (data : List (Nat × Byte)) (s : State) : Option State :=
  if src = s.pkg ∧ dst ≠ s.pkg then s.peerPerform dst line false
  else if dst ≠ s.pkg ∧ dst < 4096 ∧ line < 2 ^ 45 ∧ !data.any (fun d => decide (d.1 ≥ 128)) then
    some (data.foldl (fun s d =>
      let l : Loc := ⟨.peer dst, line * 128 + d.1⟩
      (s.setBytes l [d.2]).trigger l 1) s)
  else if dst ≠ s.pkg ∨ src = s.pkg ∨ !s.feature 5 ∨ !s.domain.contains s.pkg then none
  else if s.redirects line then some s
  else if !s.outsideOk line ∨ ((peerAtomic data).isNone ∧ data.any fun d => decide (d.1 ≥ 128)) then none
  else (s.admitAgent fabric ⟨.hbm, line * 128⟩).map fun s => match peerAtomic data with
    | some a => s.atomicFromOutside line a
    | none => data.foldl (fun s d =>
        s.performWrite outsider ⟨.hbm, line * 128 + d.1⟩ [d.2] (s.agentHint ⟨.hbm, line * 128⟩)) s
/-- PEER_WRITE_AT_TARGET: it happens, or nothing does. -/
def execPeerWriteAtTarget (src dst line : Nat) (data : List (Nat × Byte)) (s : State) : Out := happens (onPeerWriteAtTarget src dst line data) s

/-- PEER_INVALIDATE_RECEIVE: our L2 drops its copy of a line of another package, if it still has one (it may have dropped it
itself, the home listing us none the less: R97); another package has dropped its copy of ours; or the copies of a line of
package `dst` that our store invalidated are gone. `line` names the package whose line it is above bit 45. -/
def onPeerInvalidateReceive (dst line : Nat) (s : State) : Option State :=
  if dst = s.pkg then some (s.dropPeer line)
  else (s.peerInv.find? fun v => v.pkg == dst && v.line == line).map fun v => { s with peerInv := s.peerInv.erase v }
/-- PEER_INVALIDATE_RECEIVE: it happens, or nothing does. -/
def execPeerInvalidateReceive (dst line : Nat) (s : State) : Out := happens (onPeerInvalidateReceive dst line) s

/-- The virtual address of the access to another package a thread waits for; of a record it reads, the record's (11 R241). -/
def State.peerAccess (s : State) (tid : Nat) : Option Nat :=
  let t := s.thread tid
  match t.wait with
  | some (.access a) => if t.live && a.loc.space.foreign then some a.va else none
  | some (.line l va _) => if t.live && l.space.foreign then some (t.faultVal va) else none
  | _ => none

/-- The virtual address of a strand's fetch from another package that has come for 2 ms to nothing. -/
def State.strandSilent (s : State) (tile e : Nat) : Option Nat :=
  (s.engine tile e).strand.bind fun st => match st.wait with
    | some (.line l va _) =>
      if l.space.foreign && decide (st.waited + Config.peerTimeout ≤ s.cycle) && !(s.tile tile).stopped then some va else none
    | _ => none

/-- The close of an epoch in which a write of a thread has waited 2 ms for another package. -/
def State.closeSilent (s : State) (tid : Nat) : Option (Nat × CloseAsk) :=
  s.waves.findSome? fun p => p.2.ask.bind fun a =>
    if !a.gate && p.2.closeWait == 0 && a.tid == tid && decide (a.since + Config.peerTimeout ≤ s.cycle) then some (p.1, a) else none

/-- PEER_TIMEOUT: the target has answered nothing for 2 ms; a thread's access or fetch ends with ACCESS_FAULT and writes no
register, a command of a copy engine ends at its cursor, a strand's fetch stops its tile, a cut record's write ends as a
double trap (23 R389), a buffered write of a thread is given up by its epoch's close, and a record of the pool is refused. -/
def onPeerTimeout (a : Agent) (s : State) : Option State :=
  match a with
  | .hub => s.poolSilent
  | .engine tile e =>
    if e = 0 then s.cutSilent tile
    else match (if e = 9 then s.peerSilent tile else none) with
    | some s => some s
    | none => (s.strandSilent tile e).map fun va => s.raiseEngine tile e (s.engine tile e).seq.toNat causeAccess va
  | .thread tid => match s.closeSilent tid with
    | some (k, x) => some (s.loseAsk k x causeAccess x.va)
    | none => match s.peerAccess tid with
      | none => none
      | some va =>
        if s.cycle + 1 < (s.thread tid).waited + Config.peerTimeout then none
        else some ((s.trap tid causeAccess (s.thread tid).pc (BitVec.ofNat 64 va)).dropAnswers (.thread tid))
/-- PEER_TIMEOUT: it happens, or nothing does. -/
def execPeerTimeout (a : Agent) (s : State) : Out := happens (onPeerTimeout a) s

/-! ## The companion processor (R112, 19 R345) -/

/-- COMPANION_ACCESS: a read recalls a dirty copy and is recorded under bit 38; a write takes the line from every device
cache. Addresses from 2^52 on stand for the companion's own accesses to host memory. One of another size, misaligned or
past the device memory is no transaction of the link, and leaves nothing; one to a frozen page is redirected (R100). -/
def onCompanionAccess (write : Bool) (pa size value : Nat) (s : State) : Option State :=
  if !([1, 2, 4, 8].contains size) || pa % size != 0 then some s
  else if 2 ^ 52 ≤ pa ∧ pa < 2 ^ 53 then
    some (if write then s.setBytes ⟨.host, pa - 2 ^ 52⟩ (leBytes size value) else s)
  else if pa ≥ Config.hbmBytes then some s
  else
  let l : Loc := ⟨.hbm, pa⟩
  let line := lineOf pa
  if !s.host.ready then none
  else if s.redirects line then some s
  else if !s.outsideOk line then none
  else (s.admitAgent companion.unit l).map fun s =>
    let hint := s.agentHint l
    let s := if write then s.performWrite companion l (leBytes size value) hint else s.prepareRead companion l hint
    let h := s.homeLine line
    s.setHome line (HomeLine.rest { h with sharers := h.sharers ||| (1#40 <<< 38) })
/-- COMPANION_ACCESS: it happens, or nothing does. -/
def execCompanionAccess (write : Bool) (pa size value : Nat) (s : State) : Out :=
  happens (onCompanionAccess write pa size value) s

/-- The ring store of an enqueue from the host meets no leaf: an absent page is reported as of an access of no wave, and the home
holds the descriptor's line until the driver answers, the enqueue staying among the inputs (R345, 23 R405); a malformed entry is reported (23 R401). Either way nothing else changes; a poisoned table leaves it undone. -/
def State.parkHost (s : State) (desc node va : Nat) : State :=
  match s.walk 0 va with
  | .absent level =>
    let (s, tag) := s.pageReport 0 va level 2 0 0
    { s with hostPark := some ⟨desc, node, tag + 1, false⟩ }
  | .malformed => s.report (mkReport 2 0 2 0 0 va 0 0 0)
  | _ => s

/-- HOST_ENQUEUE: the home performs the link's enqueue transaction exactly as a TENQ, its ring store translated under the
driver's own address space. One that is malformed or meets a fault changes nothing; one whose page was refused ends; to a
frozen page it is redirected; one whose ring store goes to another package waits for it, holding the descriptor's line. -/
def onHostEnqueue (desc node : Nat) (s : State) : Option State :=
  let l : Loc := ⟨.hbm, desc⟩
  if s.hostPark.any (·.parked ≠ 0) then none
  else
  let refused := s.hostPark.any (·.refused)
  let parked := s.hostPark.isSome
  let s := { s with hostPark := none }
  if refused ∨ desc % 128 ≠ 0 ∨ node % 128 ≠ 0 ∨ node ≥ 2 ^ 57 ∨ desc ≥ Config.hbmBytes then some s
  else if !s.host.ready then none
  else if s.redirects (lineOf desc) then some s
  else if !s.outsideOk (lineOf desc) then none
  else if s.poisoned l then some s
  else
    (s.admitAgent companion.unit l).bind fun s =>
      let hint := s.agentHint l
      match (s.recallFor companion l hint).tenqAt companion l node hint with
      | .done _ s => some s
      | .held r _ => if r.space.foreign ∧ !parked then some { s with hostPark := some ⟨desc, node, 0, false⟩ } else none
      | .walk va => some ((s.recallFor companion l hint).parkHost desc node va)
      | .fault _ _ => some s
/-- HOST_ENQUEUE: it happens, or nothing does. -/
def execHostEnqueue (desc node : Nat) (s : State) : Out := happens (onHostEnqueue desc node) s

end Sys2Proof.Machine
end

