-- ==== Sys2Proof/Machine/Control.lean ====
section
/-! DEFINITION. Control flow: NOP, branches, calls, loops, TRAP, BRK, TRET, HALT, prefix words and encodings no row names
(07 R114-R133, 09 R179-R183, 23 R381-R387). -/

namespace Sys2Proof.Machine

/-- NOP (09 R181). -/
def execNop (g : Guard) : State → Out := coreInstr (.nop g) { guard := some g } fun c s => c.done s

/-- The target of an offset branch: the instruction's address plus four times the signed offset (07 R120). -/
def Cx.target (c : Cx) (off : BitVec 18) : Word := c.t.pc + (off.signExtend 64 <<< 2)

/-- BRA (R179). -/
def execBra (g : Guard) (off : BitVec 18) : State → Out :=
  coreInstr (.bra g off) { guard := some g, transfer := true } fun c s => c.jump (c.target off) s

/-- CALL: the return address goes to g14. -/
def execCall (g : Guard) (off : BitVec 18) : State → Out :=
  coreInstr (.call g off) { guard := some g, transfer := true, writes := [14#6] } fun c s =>
    c.jump (c.target off) (c.upd (·.wr 14#6 c.next) s)

/-- A jump to a register's value: MISALIGNED with the target when its low bits are set (07 R115). -/
def Cx.jumpTo (c : Cx) (t : Word) (link : Option (BitVec 6)) (s : State) : Out :=
  if t.toNat % 4 ≠ 0 then c.trap causeMisaligned t s
  else c.jump t (match link with | some d => c.upd (·.wr d c.next) s | none => s)

/-- CALLR. -/
def execCallr (g : Guard) (d a : BitVec 6) : State → Out :=
  coreInstr (.callr g d a) { guard := some g, transfer := true, reads := [a], writes := [d] } fun c s =>
    c.jumpTo (c.t.rd a) (some d) s
/-- JMPR. -/
def execJmpr (g : Guard) (a : BitVec 6) : State → Out :=
  coreInstr (.jmpr g a) { guard := some g, transfer := true, reads := [a] } fun c s => c.jumpTo (c.t.rd a) none s
/-- RET. -/
def execRet (g : Guard) (a : BitVec 6) : State → Out :=
  coreInstr (.ret g a) { guard := some g, transfer := true, reads := [a] } fun c s => c.jumpTo (c.t.rd a) none s

/-- LOOP (R180): a trip count of 0 skips past the LEND; otherwise an entry is pushed, the oldest of four falling out. -/
def execLoop (g : Guard) (a : BitVec 6) (imm : BitVec 32) : State → Out :=
  coreInstr (.loop g a imm) { guard := some g, transfer := true, reads := [a] } fun c s =>
    let e := c.t.pc + (imm.signExtend 64 <<< 2)
    if c.t.rd a = 0 then c.jump (e + 4) s
    else c.done (c.upd (fun t => { t with loops := (⟨c.next, e, c.t.rd a⟩ :: t.loops).take 4 }) s)

/-- The loop stack from the nearest entry whose LEND address is `pc`; none when there is no such entry. -/
def findLoop (pc : Word) : List LoopEntry → Option (LoopEntry × List LoopEntry)
  | [] => none
  | e :: l => if e.lend = pc then some (e, l) else findLoop pc l

/-- LEND (R180). -/
def execLend (g : Guard) : State → Out :=
  coreInstr (.lend g) { guard := some g, transfer := true } fun c s =>
    match findLoop c.t.pc c.t.loops with
    | none => c.trap causeIllegal (BitVec.ofNat 64 c.word) s
    | some (e, rest) =>
      if e.count - 1 ≠ 0 then
        c.jump e.body (c.upd (fun t => { t with loops := { e with count := e.count - 1 } :: rest }) s)
      else c.done (c.upd (fun t => { t with loops := rest }) s)

/-- TRAP: it completes, and c.tepc is the next instruction (R182). -/
def execTrap (g : Guard) (code : BitVec 6) : State → Out :=
  coreInstr (.trap g code) { guard := some g, transfer := true } fun c s =>
    let s := c.upd (fun t => { t with completed := t.completed + 1, since := s.cycle }) s
    .next (s.trap c.tid causeTrap c.next (code.setWidth 64))

/-- BRK: BREAKPOINT at itself (R182). -/
def execBrk (g : Guard) : State → Out :=
  coreInstr (.brk g) { guard := some g, transfer := true } fun c s => c.trap causeBreak 0 s

/-- TRET: back to c.tepc and the level before the trap; on a tile the engines restart from their cut (23 R382). -/
def execTret (g : Guard) : State → Out :=
  coreInstr (.tret g) { guard := some g, transfer := true, privileged := true } fun c s =>
    let s := c.upd (fun t => { t.leaveTrap with completed := t.completed + 1, since := s.cycle }) s
    .next (if isControl c.tid then
      s.setTile (tileOf c.tid) ((s.tile (tileOf c.tid)).restart s.cycle) else s)

/-- HALT: it completes and stops its unit, with a report (R183): the whole group of a proof thread, or the tile of a
control core with a cut record. -/
def execHalt (g : Guard) : State → Out :=
  coreInstr (.halt g) { guard := some g, transfer := true, privileged := true } fun c s =>
    .next ((s.complete c.tid c.next false).haltUnit c.tid 0 c.next.toNat)

/-- A prefix word: it waits for the word that follows it, the sequence being one instruction at the first prefix's PC
(07 R125). A third one raises ILLEGAL_PREFIX for the first word of the sequence that fails (R126). -/
def execPfx (kind : BitVec 3) (v : BitVec 27) (s : State) : Out :=
  match s.running with
  | none => .fault .wrongUnit
  | some tid =>
    let t := s.thread tid
    let w : Half := BitVec.ofNat 32 (2 * 2 ^ 30 + kind.toNat * 2 ^ 27 + v.toNat)
    if t.pfx.length < 2 then .next (s.setThread tid { t with pfx := t.pfx ++ [w] })
    else match pfxBad [] (t.pfx ++ [w]) with
      | some b => .next (s.trap tid causePrefix t.pc (b.setWidth 64))
      | none => .next (s.trap tid causePrefix t.pc (w.setWidth 64))

/-- A word no row names raises ILLEGAL_INSTRUCTION with the word, in a core stream or in a strand (07 R114, R122,
R134). -/
def execIllegalInstructionEncoding (w : Half) (s : State) : Out :=
  match s.cur with
  | .engine tile e =>
    if (s.engine tile e).strand.isSome then
      .next (s.raiseEngine tile e (s.engine tile e).seq.toNat causeIllegal w.toNat)
    else .fault .wrongUnit
  | _ =>
    match s.running with
    | none => .fault .wrongUnit
    | some tid => .next (s.trap tid causeIllegal (s.thread tid).pc (w.setWidth 64))

end Sys2Proof.Machine
end

