-- ==== Sys2Proof/Machine/Hoops.lean ====
section
/-! DEFINITION. Hoops (chapter 15): panels, shapes and the panel allocator, HALLOC, HFREE and HRSH, easel records with ERES,
EREL and ESET, and the operands of matrix commands. The commands themselves stand in Machine/Matrix.lean. -/

namespace Sys2Proof.Machine

/-! ## Panels and shapes (R286-R288) -/

/-- HR and HC of a shape code (Table 15.1). -/
def shapeDims (shape : Nat) : Nat × Nat :=
  match shape with
  | 0 => (96, 96) | 1 => (96, 192) | 2 => (192, 96) | 3 => (192, 192)
  | 4 => (384, 192) | 5 => (192, 384) | 6 => (384, 384) | _ => (576, 192)

/-- Positions of a shape. -/
def shapePositions (shape : Nat) : List Nat :=
  match shape with
  | 0 => [0, 1, 2, 3]
  | 1 | 2 => [0, 1]
  | _ => [0]

/-- Accumulator rows of a shape's region (Table 15.2). -/
def shapeRows (shape : Nat) : Nat := if shape ≤ 1 then 1365 else 2730

/-- Row of a panel in its die's grid of tiles. -/
def panelRow (tile : Nat) : Nat := tile % 12 / 4
/-- Column of a panel in its die's grid. -/
def panelCol (tile : Nat) : Nat := tile % 4

/-- The panels of a shape with its top-left one on `tile`; none where it does not fit on the die. -/
def shapePanels (shape tile : Nat) : Option (List Nat) :=
  let r := panelRow tile
  let c := panelCol tile
  match shape with
  | 4 => if r ≤ 1 then some [tile, tile + 4] else none
  | 5 => if c ≤ 2 then some [tile, tile + 1] else none
  | 6 => if r ≤ 1 ∧ c ≤ 2 then some [tile, tile + 1, tile + 4, tile + 5] else none
  | 7 => if r = 0 then some [tile, tile + 4, tile + 8] else none
  | _ => some [tile]

/-- The quarters a shape takes of each of its panels. -/
def shapeQuarters (shape pos : Nat) : List Nat :=
  match shape with
  | 0 => [pos]
  | 1 => [2 * pos, 2 * pos + 1]
  | 2 => [pos, pos + 2]
  | _ => [0, 1, 2, 3]

/-- The quarters of panels a hoop occupies: panel * 4 + quarter. -/
def hoopQuarters (shape pos tile : Nat) : List Nat :=
  ((shapePanels shape tile).getD []).flatMap fun p => (shapeQuarters shape pos).map fun q => p * 4 + q

/-- The panel, row and column of accumulator word (m, n) of a hoop whose top-left panel is `tile` (Table 15.2). -/
def accWord (shape pos tile m n : Nat) : Nat × Nat × Nat :=
  match shape with
  | 0 => (tile, m + 1365 * (pos / 2), n + 96 * (pos % 2))
  | 1 => (tile, m + 1365 * pos, n)
  | 2 => (tile, m, n + 96 * pos)
  | 3 => (tile, m, n)
  | 4 => (tile + 4, m, n)
  | 5 => (tile + n / 192, m, n % 192)
  | 6 => (tile + 4 + n / 192, m, n % 192)
  | _ => (tile + 8, m, n)

/-- The (m, n) a hoop gives a word of a panel; none for a word outside its region. -/
def accIndex (shape pos tile panel row col : Nat) : Option (Nat × Nat) :=
  match shape with
  | 0 => if panel = tile ∧ row / 1365 = pos / 2 ∧ col / 96 = pos % 2 then some (row % 1365, col % 96) else none
  | 1 => if panel = tile ∧ row / 1365 = pos then some (row % 1365, col) else none
  | 2 => if panel = tile ∧ col / 96 = pos then some (row, col % 96) else none
  | 3 => if panel = tile then some (row, col) else none
  | 4 => if panel = tile + 4 then some (row, col) else none
  | 5 => if panel = tile ∨ panel = tile + 1 then some (row, (panel - tile) * 192 + col) else none
  | 6 => if panel = tile + 4 ∨ panel = tile + 5 then some (row, (panel - tile - 4) * 192 + col) else none
  | _ => if panel = tile + 8 then some (row, col) else none

/-- Reads an accumulator word by its place. -/
def State.accAt (s : State) (w : Nat × Nat × Nat) : Half := (s.tile w.1).acc.get (w.2.1 * 192 + w.2.2)

/-- Writes an accumulator word by its place. -/
def State.setAcc (s : State) (w : Nat × Nat × Nat) (v : Half) : State :=
  let t := s.tile w.1
  s.setTile w.1 { t with acc := t.acc.set (w.2.1 * 192 + w.2.2) v }

/-! ## Hoop identifiers (R289, R290) -/

/-- A hoop named by its tile and queue, with its shape and position. -/
structure HoopAt where
  tile : Nat
  queue : Nat
  shape : Nat
  pos : Nat
deriving DecidableEq, Repr

/-- The identifier of a hoop. -/
def Hoop.ident (h : Hoop) (q : Nat) : Nat := 2 ^ 15 + h.gen.toNat * 2 ^ 7 + q * 2 ^ 5 + h.pos * 2 ^ 3 + h.shape

/-- A tile's hoop on a queue. -/
def State.hoop (s : State) (tile q : Nat) : Hoop := (s.tile tile).hoops.get q
/-- Replaces it. -/
def State.setHoop (s : State) (tile q : Nat) (h : Hoop) : State :=
  let t := s.tile tile
  s.setTile tile { t with hoops := t.hoops.set q h }

/-- The queue of a tile on which an identifier is current. -/
def State.currentQueue (s : State) (tile id : Nat) : Option Nat :=
  (List.range 4).find? fun q => (s.hoop tile q).present && (s.hoop tile q).ident q == id

/-- Every hoop present in the package. -/
def State.allHoops (s : State) : List HoopAt :=
  s.tiles.flatMap fun p => (p.2.hoops.filter (·.2.present)).map fun h => ⟨p.1, h.1, h.2.shape, h.2.pos⟩

/-! ## The allocator (R293, R294) -/

/-- Tiles of a wave. -/
def State.waveTiles (s : State) (w : Nat) : List Nat :=
  (s.groups.filter fun g => waveOf g.1 == w && g.2.placed && decide (g.2.unit < 96)).map (·.2.unit)

/-- The quarters in no hoop of a list must cover those a hoop needs, on panels of the wave's tiles. -/
def fits (tiles : List Nat) (hoops : List HoopAt) (shape pos tile : Nat) : Bool :=
  match shapePanels shape tile with
  | none => false
  | some ps =>
    ps.all tiles.contains && (hoopQuarters shape pos tile).all fun q =>
      hoops.all fun h => !(hoopQuarters h.shape h.pos h.tile).contains q

/-- Where a request word is placed: the lowest queue without a hoop and the first position that fits. -/
def placeHoop (tiles : List Nat) (hoops : List HoopAt) (tile req : Nat) : Option HoopAt :=
  let shape := req % 8
  let poss := if bitOf req 3 then [bitsOf req 4 2] else shapePositions shape
  match (List.range 4).find? (fun q => !(hoops.any fun h => h.tile == tile && h.queue == q)) with
  | none => none
  | some q => match poss.find? (fun p => fits tiles hoops shape p tile) with
    | none => none
    | some p => some ⟨tile, q, shape, p⟩

/-- A request word that breaks R292. -/
def badRequest (req : Nat) : Bool :=
  decide (req ≥ 64) || (if bitOf req 3 then !(shapePositions (req % 8)).contains (bitsOf req 4 2) else bitsOf req 4 2 != 0)

/-- Sets the words of new hoops' regions to +0, but those that an old hoop gave the same (m, n) (R293, R298). -/
def State.clearRegions (s : State) (fresh old : List HoopAt) : State :=
  let index := fun (h : HoopAt) (panel k : Nat) => accIndex h.shape h.pos h.tile panel (k / 192) (k % 192)
  let keeps := fun (panel k : Nat) =>
    match fresh.findSome? (fun h => index h panel k) with
    | none => true
    | some mn => old.any fun h => index h panel k == some mn
  { s with tiles := s.tiles.map fun p => (p.1, { p.2 with acc := p.2.acc.filter fun w => keeps p.1 w.1 }) }

/-- Installs a hoop with its queue's generation and no weights. -/
def State.installHoop (s : State) (h : HoopAt) : State :=
  s.setHoop h.tile h.queue
    { s.hoop h.tile h.queue with
      present := true, shape := h.shape, pos := h.pos, loaded := false, wfmt := 0, wblk := 0, wk := 0, wn := 0
      weights := [], scales := [] }

/-- Removes a hoop and advances its queue's generation; the easel records bound to the queue are freed (R296). -/
def State.releaseHoop (s : State) (tile q : Nat) : State :=
  let h := s.hoop tile q
  let s := s.setHoop tile q { (default : Hoop) with gen := h.gen + 1 }
  let t := s.tile tile
  s.setTile tile { t with easel := t.easel.filter fun r => !(r.2.getLsbD 15 && bitsOf r.2.toNat 16 2 == q) }

/-- A hoop with nothing left to do on its queue (R296). -/
def State.drained (s : State) (tile q : Nat) : Bool :=
  let g := s.engine tile (q + 1)
  g.strand.isNone && g.issued.isEmpty && g.started.isEmpty

/-- Allocates by a request on behalf of a wave, as HALLOC; the identifier, or none. -/
def State.allocHoop (s : State) (wave tile req : Nat) : Option (Nat × State) :=
  match placeHoop (s.waveTiles wave) s.allHoops tile req with
  | none => none
  | some h =>
    let s := (s.clearRegions [h] []).installHoop h
    some ((s.hoop tile h.queue).ident h.queue, s)

/-- HALLOC (R292, R293). -/
def execHalloc (g : Guard) (p : BitVec 3) (d a : BitVec 6) : State → Out :=
  coreInstr (.halloc g p d a) { guard := some g, kind := .control, reads := [a], writes := [d] } fun c s =>
    let req := (c.t.rd a).toNat
    if badRequest req then c.trap causeIllegal (c.t.rd a) s
    else match s.allocHoop (waveOf c.t.gid) (tileOf c.tid) req with
      | some (id, s) => c.done (c.upd (fun t => (t.wr d (BitVec.ofNat 64 id)).setPred p true) s)
      | none => c.done (c.upd (fun t => (t.wr d 0).setPred p false) s)

/-- HFREE (R296). -/
def execHfree (g : Guard) (a : BitVec 6) : State → Out :=
  coreInstr (.hfree g a) { guard := some g, kind := .control, reads := [a], noHandler := true } fun c s =>
    let tile := tileOf c.tid
    match s.currentQueue tile (c.t.rd a).toNat with
    | none => c.trap causeHoop (c.t.rd a) s
    | some q => if s.drained tile q then c.done (s.releaseHoop tile q) else c.park .hoops s

/-- The 16-bit slots of a register, lowest first. -/
def slots16 (v : Word) : List Nat := (List.range 4).map fun i => bitsOf v.toNat (16 * i) 16

/-- The first identifier of HRSH's old set that is not current or repeats an earlier one. -/
def badOld (s : State) (tile : Nat) : List Nat → List Nat → Option Nat
  | _, [] => none
  | seen, x :: xs =>
    if x = 0 then badOld s tile seen xs
    else if (s.currentQueue tile x).isNone || seen.contains x then some x
    else badOld s tile (x :: seen) xs

/-- Places HRSH's requests in ascending slot, each seeing those before it; the hoops by slot, or none. -/
def placeAll (tiles : List Nat) (tile : Nat) : List HoopAt → List Nat → Option (List (Option HoopAt))
  | _, [] => some []
  | hoops, x :: xs =>
    if x < 2 ^ 15 then (placeAll tiles tile hoops xs).map (none :: ·)
    else match placeHoop tiles hoops tile (x - 2 ^ 15) with
      | none => none
      | some h => (placeAll tiles tile (h :: hoops) xs).map (some h :: ·)

/-- HRSH once its old set is drained (R297, R298). -/
def Cx.reshape (c : Cx) (d : BitVec 6) (olds reqs : List Nat) (s : State) : Out :=
  let tile := tileOf c.tid
  let oldQs := olds.filterMap (s.currentQueue tile)
  let old := oldQs.map fun q => (⟨tile, q, (s.hoop tile q).shape, (s.hoop tile q).pos⟩ : HoopAt)
  match placeAll (s.waveTiles (waveOf c.t.gid)) tile (s.allHoops.filter fun h => !old.contains h) reqs with
  | none => c.write d 0 s
  | some placed =>
    let new := placed.filterMap id
    let s := oldQs.foldl (fun s q => s.releaseHoop tile q) s
    let s := new.foldl State.installHoop (s.clearRegions new old)
    let ids := placed.map fun h => match h with
      | some h => (s.hoop tile h.queue).ident h.queue
      | none => 0
    c.write d (BitVec.ofNat 64 (ids.foldr (fun x r => x + 2 ^ 16 * r) 0)) s

/-- HRSH. -/
def execHrsh (g : Guard) (d a b : BitVec 6) : State → Out :=
  coreInstr (.hrsh g d a b) { guard := some g, kind := .control, reads := [a, b], writes := [d], noHandler := true } fun c s =>
    let tile := tileOf c.tid
    let olds := (slots16 (c.t.rd a)).filter (· != 0)
    let reqs := slots16 (c.t.rd b)
    match badOld s tile [] olds with
    | some x => c.trap causeHoop (BitVec.ofNat 64 x) s
    | none =>
      if reqs.any fun x => decide (x ≥ 2 ^ 15) && badRequest (x - 2 ^ 15) then c.trap causeIllegal (c.t.rd b) s
      else if (olds.filterMap (s.currentQueue tile)).all (s.drained tile) then c.reshape d olds reqs s
      else c.park .hoops s

/-! ## Easel records (R299-R302, Table 15.7) -/

/-- BASE of a record, in units of 256 bytes. -/
def recBase (r : BitVec 64) : Nat := bitsOf r.toNat 51 13
/-- LEN; zero in a free record. -/
def recLen (r : BitVec 64) : Nat := bitsOf r.toNat 38 13
/-- SOFS. -/
def recSofs (r : BitVec 64) : Nat := bitsOf r.toNat 25 13
/-- FMT. -/
def recFmt (r : BitVec 64) : Nat := bitsOf r.toNat 21 4
/-- BLK. -/
def recBlk (r : BitVec 64) : Nat := bitsOf r.toNat 18 3
/-- RB, the row stride in 16-byte units. -/
def recRb (r : BitVec 64) : Nat := bitsOf r.toNat 1 14

/-- Bits [37:0] that ERES and ESET refuse: set bits above or bit 0, a FMT that names no format (03 R48), a refused BLK, RB 0,
SOFS at or beyond the length. All have the operand gb in c.tval, a FMT that names no format too (neither R300 nor R48 names its
value; DESIGN CHOICE, log entry 116). -/
def badRecord (v len : Nat) : Bool :=
  decide (v ≥ 2 ^ 38) || bitOf v 0 || decide (bitsOf v 21 4 ≥ 14) || decide (bitsOf v 18 3 ≥ 6) || bitsOf v 1 14 == 0 || decide (bitsOf v 25 13 ≥ len)

/-- Whether units [base, base + len) meet no record's range. -/
def rangeFree (rs : SMap (BitVec 64)) (base len : Nat) : Bool :=
  decide (base + len ≤ 6144) && rs.all fun r => decide (base + len ≤ recBase r.2) || decide (recBase r.2 + recLen r.2 ≤ base)

/-- The lowest base at which a range is free: it can only begin at 0 or where a record ends. -/
def lowestBase (rs : SMap (BitVec 64)) (len : Nat) : Option Nat :=
  leastNat ((0 :: rs.map fun r => recBase r.2 + recLen r.2).filter fun b => rangeFree rs b len)
where
  /-- the least of a list -/
  leastNat : List Nat → Option Nat
    | [] => none
    | x :: xs => match leastNat xs with
      | none => some x
      | some y => some (min x y)

/-- EASEL of a tile's footprint, in bytes. -/
def State.easelFootprint (s : State) (tid : Nat) : Nat := bitsOf (s.waveOfThread tid).node.mem.toNat 0 21

/-- ERES (R300). gb's bits above 37 and bit 0 are judged first, then ga, then BLK, RB, SOFS and FMT: R300 orders none, and a length
of 0 must be ga's fault though no SOFS is below it (DESIGN CHOICE, log entry 42). -/
def execEres (g : Guard) (d a b : BitVec 6) : State → Out :=
  coreInstr (.eres g d a b) { guard := some g, kind := .control, reads := [a, b], writes := [d] } fun c s =>
    let tile := tileOf c.tid
    let bytes := (c.t.rd a).toNat
    let len := (bytes + 255) / 256
    if bytes = 0 ∨ bytes > Config.easelSize then
      if (c.t.rd b).toNat ≥ 2 ^ 38 ∨ bitOf (c.t.rd b).toNat 0 then c.trap causeIllegal (c.t.rd b) s
      else c.trap causeIllegal (c.t.rd a) s
    else if badRecord (c.t.rd b).toNat len then c.trap causeIllegal (c.t.rd b) s
    else
      let rs := (s.tile tile).easel
      let used := (rs.map fun r => recLen r.2).sum
      match (List.range 64).find? (fun i => recLen (rs.get i) == 0), lowestBase rs len with
      | some i, some base =>
        if used + len > (s.easelFootprint c.tid + 255) / 256 then c.write d 0 s
        else
          let r : BitVec 64 := BitVec.ofNat 64 (base * 2 ^ 51 + len * 2 ^ 38 + (c.t.rd b).toNat)
          c.write d (BitVec.ofNat 64 (i + 1)) (s.setTile tile { s.tile tile with easel := rs.set i r })
      | _, _ => c.write d 0 s

/-- The record a handle names, when it is in range and not free. -/
def State.easelRecord (s : State) (tile handle : Nat) : Option (BitVec 64) :=
  let r := (s.tile tile).easel.get (handle - 1)
  if 1 ≤ handle ∧ handle ≤ 64 ∧ recLen r ≠ 0 then some r else none

/-- Whether a hoop command names a record in one of its operand words. -/
def Command.namesRecord (c : Command) (i : Nat) : Bool :=
  imgClass c.image == 1 &&
    ((c.fld 89 2 == 2 && c.fld 250 6 == i) || (c.fld 87 2 == 2 && c.fld 218 6 == i) || (c.fld 83 1 == 1 && c.fld 186 6 == i))

/-- The issued hoop commands of a tile that name a record. -/
def State.recordUsers (s : State) (tile i : Nat) : List Nat :=
  [1, 2, 3, 4].flatMap fun e =>
    (((s.engine tile e).issued ++ (s.engine tile e).started).filter (·.namesRecord i)).map (commandId e)

/-- Whether a command of a tile is still with its engine. -/
def State.commandLive (s : State) (tile id : Nat) : Bool := ((s.engine tile (id / 2 ^ 32)).command (id % 2 ^ 32)).isSome

/-- EREL (R301): waits for the commands that named the record when it began; a later one meets a free record. -/
def execErel (g : Guard) (a : BitVec 6) : State → Out :=
  coreInstr (.erel g a) { guard := some g, kind := .control, reads := [a], noHandler := true } fun c s =>
    let tile := tileOf c.tid
    let h := (c.t.rd a).toNat
    match s.easelRecord tile h with
    | none => c.trap causeEasel (c.t.rd a) s
    | some _ =>
      let users := match c.t.erel with
        | some (_, l) => l
        | none => s.recordUsers tile (h - 1)
      if users.any (s.commandLive tile) then
        c.park .erel (c.upd (fun t => { t with erel := some (h - 1, users) }) s)
      else c.done (s.setTile tile { s.tile tile with easel := (s.tile tile).easel.set (h - 1) 0 })

/-- ESET (R302). -/
def execEset (g : Guard) (a b : BitVec 6) : State → Out :=
  coreInstr (.eset g a b) { guard := some g, kind := .control, reads := [a, b] } fun c s =>
    let tile := tileOf c.tid
    let h := (c.t.rd a).toNat
    match s.easelRecord tile h with
    | none => c.trap causeEasel (c.t.rd a) s
    | some r =>
      if badRecord (c.t.rd b).toNat (recLen r) then c.trap causeIllegal (c.t.rd b) s
      else
        let v := BitVec.ofNat 64 (r.toNat / 2 ^ 38 * 2 ^ 38 + (c.t.rd b).toNat)
        c.done (s.setTile tile { s.tile tile with easel := (s.tile tile).easel.set (h - 1) v })

end Sys2Proof.Machine
end

