-- ==== Sys2Proof/Machine/Schedule.lean ====
section
/-! DEFINITION. The life of a wave from its first instruction to its end (chapter 19, 21 R363-R369, 01 R38-R41): WDONE,
SSYNC, GOVRD, YIELD, DFLUSH and EXIT with the events that complete them, the close of a deterministic epoch, the frame
governor, and the end of groups and waves. -/

namespace Sys2Proof.Machine

/-! ## Commands and groups outstanding -/

/-- Commands of a tile's engines that have a sequence number and are not complete. -/
def State.outstanding (s : State) (tile : Nat) : List Nat :=
  (List.range 10).flatMap fun e =>
    let g := s.engine tile e
    (g.started ++ g.issued).map (commandId e)

/-- Whether one of a list of commands of a thread's tile is still outstanding. -/
def State.stillOut (s : State) (tid : Nat) (cmds : List Nat) : Bool :=
  isControl tid && cmds.any (s.outstanding (tileOf tid)).contains

/-- The commands an SSYNC or WDONE of a thread waits for. -/
def State.commandsOf (s : State) (tid : Nat) : List Nat := if isControl tid then s.outstanding (tileOf tid) else []

/-- Keys of a wave's groups. -/
def State.gids (s : State) (k : Nat) : List Nat := (List.range (s.wave k).groups).map (k * 1024 + ·)

/-- Groups of a wave that have not ended. -/
def State.openGroups (s : State) (k : Nat) : List Nat := (s.gids k).filter fun g => !(s.group g).ended

/-- Live threads of a wave. -/
def State.waveThreads (s : State) (k : Nat) : List Nat :=
  (s.threads.filter fun p => p.2.live && waveOf p.2.gid == k).map (·.1)

/-- Whether a wave is deterministic. -/
def State.waveDet (s : State) (k : Nat) : Bool := (s.wave k).node.ctl.getLsbD 23

/-! ## Becoming done (R351) -/

/-- A wave some of whose threads have completed a WDONE is done once each of its groups is done or has ended; its successors
leave Pending. -/
def State.checkDone (s : State) (k : Nat) : State :=
  let w := s.wave k
  if !w.done && w.wdone && (s.gids k).all (fun g => (s.group g).done || (s.group g).ended)
  then (s.setWave k { w with done := true }).releasePending
  else s

/-- A group is done once each of its live threads has completed WDONE. -/
def State.checkGroupDone (s : State) (gid : Nat) : State :=
  let ms := s.members gid
  if !(s.group gid).done && !ms.isEmpty && ms.all (fun m => (s.thread m).wdone) then
    (s.setGroup gid { s.group gid with done := true }).checkDone (waveOf gid)
  else s

/-- A thread's WDONE takes effect. -/
def State.finishWdone (s : State) (tid : Nat) : State :=
  let gid := (s.thread tid).gid
  let s := s.setThread tid { s.thread tid with wdone := true }
  (s.setWave (waveOf gid) { s.wave (waveOf gid) with wdone := true }).checkGroupDone gid

/-- A waiting WDONE is met. -/
def State.passWdone (s : State) (tid : Nat) : State :=
  if s.recorded tid then s.passWait tid else (s.finishWdone tid).passWait tid

/-- WDONE. A second one in a thread does nothing. -/
def execWdone (g : Guard) : State → Out :=
  coreInstr (.wdone g) { guard := some g, noHandler := true } fun c s =>
    if c.t.granted then c.checkpoint (fun s => c.done (s.finishWdone c.tid)) s
    else if c.t.wdone then c.done s
    else
      let cmds := s.commandsOf c.tid
      if s.det c.tid then (if isControl c.tid then c.park (.wdone cmds) s else c.gather (.wdone cmds) s)
      else if cmds = [] ∧ !s.owes c.tid then c.checkpoint (fun s => c.done (s.finishWdone c.tid)) s
      else c.park (.wdone cmds) s

/-- Whether a thread waits at WDONE with nothing left to wait for but, in deterministic mode, its flush point. -/
def State.wdoneMet (s : State) (tid : Nat) : Bool :=
  let t := s.thread tid
  match t.wait with
  | some (.wdone cmds) => !t.granted && !s.stillOut tid cmds && !s.owes tid
  | _ => false

/-- WDONE_COMPLETE: waits of a group's WDONEs end; a print group of deterministic mode reaches its flush point. -/
def onWdoneComplete (gid : Nat) (s : State) : Option State :=
  let ready := (s.members gid).filter s.wdoneMet
  let g := s.group gid
  if ready = [] then none
  else if s.waveDet (waveOf gid) then
    if g.unit < 96 ∧ g.flushes ≤ g.epoch then some (s.reachFlush gid) else none
  else some (ready.foldl State.passWdone s)
/-- WDONE_COMPLETE: it happens, or nothing does. -/
def execWdoneComplete (gid : Nat) (s : State) : Out := happens (onWdoneComplete gid) s

/-! ## Supersteps (R353) -/

/-- A thread's SSYNC takes effect. -/
def State.finishSsync (s : State) (tid : Nat) : State :=
  s.setThread tid { s.thread tid with ssyncs := (s.thread tid).ssyncs + 1 }

/-- A waiting SSYNC is met. -/
def State.passSsync (s : State) (tid : Nat) : State :=
  if s.recorded tid then s.passWait tid else (s.finishSsync tid).passWait tid

/-- SSYNC. -/
def execSsync (g : Guard) : State → Out :=
  coreInstr (.ssync g) { guard := some g, kind := .control, noHandler := true } fun c s =>
    if c.t.granted then c.checkpoint (fun s => c.done (s.finishSsync c.tid)) s
    else c.park (.ssync (s.commandsOf c.tid)) s

/-- Conditions 1 and 2 of R353 in a group, whose control core waits at SSYNC. -/
def State.ssyncMet (s : State) (gid : Nat) : Bool :=
  let tid := controlTid (s.group gid).unit
  let t := s.thread tid
  match t.wait with
  | some (.ssync cmds) => t.live && t.gid == gid && !t.granted && !s.stillOut tid cmds && !s.owes tid
  | _ => false

/-- Every group of a wave is at its SSYNC with its conditions, or has ended: all complete together. -/
def State.trySsync (s : State) (k : Nat) : Option State :=
  let gs := s.openGroups k
  let arrived := fun (g : Nat) => !s.waveDet k || (s.thread (controlTid (s.group g).unit)).arrived == 1
  if !gs.isEmpty && gs.all (fun g => s.ssyncMet g && arrived g) then
    let s := gs.foldl (fun s g => s.passSsync (controlTid (s.group g).unit)) s
    some (s.setWave k { s.wave k with ssyncs := (s.wave k).ssyncs + 1 })
  else none

/-- SSYNC_COMPLETE; in deterministic mode the groups whose conditions hold first reach their flush point. -/
def onSsyncComplete (k : Nat) (s : State) : Option State :=
  match s.trySsync k with
  | some s => some s
  | none =>
    let fresh := (s.openGroups k).filter fun g =>
      s.waveDet k && s.ssyncMet g && (s.thread (controlTid (s.group g).unit)).arrived == 0
        && decide ((s.group g).flushes ≤ (s.group g).epoch)
    if fresh = [] then none else some (fresh.foldl State.reachFlush s)
/-- SSYNC_COMPLETE: it happens, or nothing does. -/
def execSsyncComplete (k : Nat) (s : State) : Out := happens (onSsyncComplete k) s

/-! ## DFLUSH (21 R365) -/

/-- DFLUSH: a checkpoint in every mode; in deterministic mode it waits for the close of its epoch. -/
def execDflush (g : Guard) : State → Out :=
  coreInstr (.dflush g) { guard := some g } fun c s =>
    if !s.det c.tid ∨ c.t.granted then c.checkpoint (fun s => c.done s) s
    else if isControl c.tid then
      match c.park .dflush s with
      | .next s => .next (s.reachFlush c.t.gid)
      | o => o
    else c.gather .dflush s

/-! ## The frame governor (R356, R357, R360) -/

/-- Clears mask bits while the remaining steps do not fit (the loop of R357): the mask and the final count of enabled
steps above k. -/
def dropSteps (k : Nat) (t margin r : Int) (dropm : Word) : Nat → Word → Word × Nat
  | 0, mask => (mask, ((List.range 64).filter fun j => decide (j > k) && mask.getLsbD j).length)
  | fuel + 1, mask =>
    let n := ((List.range 64).filter fun j => decide (j > k) && mask.getLsbD j).length
    let cand := (List.range 64).filter fun j => decide (j > k) && mask.getLsbD j && dropm.getLsbD j
    match cand.getLast? with
    | some j => if (n : Int) * t + margin > r then dropSteps k t margin r dropm fuel (mask &&& ~~~(1#64 <<< j)) else (mask, n)
    | none => (mask, n)

/-- The rule applied when step k of a frame is reported at cycle `now`. -/
def Frame.report (f : Frame) (k now : Nat) : Frame :=
  let d := if f.reported then now - f.lastAt else if f.clocked then now - f.clock else 0
  let t := if f.reported then max d f.lastD else d
  let r : Int := (f.entry.deadline.toNat : Int) - now - f.od
  let margin : Int := f.entry.margin.toNat
  let (mask, n) := dropSteps k t margin r (if f.entry.fix then 0 else f.entry.dropm) 64 f.mask
  { f with
    mask := mask, clocked := true, clock := if f.clocked then f.clock else now
    reported := true, lastAt := now, lastD := d, steps := f.steps ||| (1#64 <<< k)
    critical := f.critical || decide ((n : Int) * t + margin > r) }

/-- A frame's step clock starts with the first GOVRD that completes. -/
def Frame.start (f : Frame) (now : Nat) : Frame := if f.clocked then f else { f with clocked := true, clock := now }

/-- Gives every Ready and Pending wave of a critical frame level 7 (R360). -/
def State.spreadCritical (s : State) : State :=
  { s with waves := s.waves.map fun w =>
      (w.1, if w.2.unplaced && s.frameCritical w.2.node.frame then { w.2 with critical := true } else w.2) }

/-- GOVRD. -/
def execGovrd (g : Guard) (d : BitVec 6) : State → Out :=
  coreInstr (.govrd g d) { guard := some g, reads := [d], writes := [d] } fun c s =>
    let v := c.t.rd d
    let ones : Word := BitVec.allOnes 64
    match s.frameOf (s.waveOfThread c.tid) with
    | none =>
      if v ≠ ones ∧ v.toNat ≥ 64 then c.trap causeIllegal v s
      else c.release true (fun s => c.done (c.upd (fun t => { t.wr d ones with govmask := ones }) s)) s
    | some (_, f) =>
      if v ≠ ones ∧ v.toNat ≥ f.entry.nstep.toNat then c.trap causeIllegal v s
      else
        let gr := s.group c.t.gid
        let gr := if v = ones then { gr with asked := max gr.asked (c.t.queries + 1) }
          else { gr with steps := gr.steps ||| (1#64 <<< v.toNat) }
        c.park (.govrd v d.toNat) (s.setGroup c.t.gid gr)

/-- The step, and for a query its number, of the GOVRD a thread waits at. -/
def Thread.govrdAt (t : Thread) : Option (Word × Nat) :=
  match t.wait with
  | some (.govrd v _) => some (v, if v = BitVec.allOnes 64 then t.queries else 0)
  | _ => none

/-- Whether a thread's waiting GOVRD has every group of its wave: all have issued it or have ended, and every thread that
waits at it has its earlier accesses performed. -/
def State.govrdMet (s : State) (tid : Nat) : Bool :=
  let t := s.thread tid
  match t.wait with
  | some (.govrd v _) =>
    ((s.waveThreads (waveOf t.gid)).all fun m => (s.thread m).govrdAt != t.govrdAt || !s.owes m)
      && (s.openGroups (waveOf t.gid)).all fun g =>
        if v = BitVec.allOnes 64 then decide ((s.group g).asked ≥ t.queries + 1) else (s.group g).steps.getLsbD v.toNat
  | _ => false

/-- Completes a thread's GOVRD with a mask. -/
def State.passGovrd (mask : Word) (s : State) (tid : Nat) : State :=
  let t := s.thread tid
  match t.wait with
  | some (.govrd v d) =>
    let q := if v = BitVec.allOnes 64 then t.queries + 1 else t.queries
    (s.setThread tid { t.wr (BitVec.ofNat 6 d) mask with govmask := mask, queries := q }).wake tid
  | _ => s

/-- GOVRD_COMPLETE: the first step or query of a wave that has gathered every group completes in all threads that wait
at it, after the governor's rule for a report not yet made by another wave of the frame. -/
def onGovrdComplete (k : Nat) (s : State) : Option State :=
  match (s.waveThreads k).find? s.govrdMet with
  | none => none
  | some m =>
    let step := match (s.thread m).wait with
      | some (.govrd v _) => v
      | _ => 0
    let same := fun (x : Nat) => s.govrdMet x && (s.thread x).govrdAt == (s.thread m).govrdAt
    let all := (s.waveThreads k).filter same
    match s.frameOf (s.wave k) with
    | none => some (all.foldl (State.passGovrd (BitVec.allOnes 64)) s)
    | some (i, f) =>
      let f := if step = BitVec.allOnes 64 then f.start s.cycle
        else if f.steps.getLsbD step.toNat then f else f.report step.toNat s.cycle
      let s := ({ s with frames := s.frames.set i f }).spreadCritical
      some (all.foldl (State.passGovrd f.mask) s)
/-- GOVRD_COMPLETE: it happens, or nothing does. -/
def execGovrdComplete (k : Nat) (s : State) : Out := happens (onGovrdComplete k) s

/-! ## EXIT and the end of groups (01 R39, 09 R181) -/

/-- Whether every engine of a tile is idle with its queue empty. -/
def State.tileIdle (s : State) (tile : Nat) : Bool :=
  (List.range 10).all fun e =>
    let g := s.engine tile e
    g.strand.isNone && g.issued.isEmpty && g.started.isEmpty && g.portq.isEmpty

/-- A thread ends: its blocks return, its results are discarded; the last one of a deterministic group reaches the
group's flush point, and others may be released. -/
def State.endThread (s : State) (tid : Nat) : State :=
  let t := s.thread tid
  let s := s.setThread tid { t.settle with
    live := false, ports := [], held := 0, reserve := 0, mon := default, completed := t.completed + 1 }
  let s := s.setGroup t.gid { s.group t.gid with test := true }
  let s := if s.members t.gid = [] then (if s.waveDet (waveOf t.gid) then s.reachFlush t.gid else s)
           else (s.checkGroupDone t.gid).settleGroup t.gid
  if isControl tid then s else s.regrant (tid / 1024)

/-- EXIT. -/
def execExit (g : Guard) : State → Out :=
  coreInstr (.exit g) { guard := some g, transfer := true, noHandler := true } fun c s =>
    if !c.t.portsDone ∨ (isControl c.tid ∧ !s.tileIdle (tileOf c.tid)) then c.park .exit s
    else c.checkpoint (fun s => .next (s.endThread c.tid)) s

/-- GROUP_END: leftover tokens and hoops are freed with the group's slots; the last group takes the wave to Retiring. -/
def onGroupEnd (gid : Nat) (s : State) : Option State :=
  let g := s.group gid
  let k := waveOf gid
  if !g.started || g.ended || !(s.members gid).isEmpty || (s.wave k).state != .running then none
  else
    let s := s.setGroup gid { g with ended := true, patterns := [] }
    let s := if g.unit < 96 then
        let t := s.tile g.unit
        let s := s.setTile g.unit { t with tokens := [], tokenFrom := [] }
        (List.range 4).foldl (fun s q => if (s.hoop g.unit q).present then s.releaseHoop g.unit q else s) s
      else s.regrant (g.unit - 96)
    let s := s.checkDone k
    some (if (s.openGroups k).isEmpty then s.setWave k { s.wave k with state := .retiring } else s)
/-- GROUP_END: it happens, or nothing does. -/
def execGroupEnd (gid : Nat) (s : State) : Out := happens (onGroupEnd gid) s

/-! ## The close of an epoch (21 R364-R369) -/

/-- How the application of an epoch's writes ends: applied, with the first fault of each thread; or waiting on a page, for an
entry or a plain store of a thread; or for another package or an order gate; or held at a home. -/
inductive Closing where
  | ok (s : State) (faults : List (Nat × Nat × Nat))
  | page (va level unit tid : Nat) (entry : Option Nat)
  | wait (a : CloseAsk)
  | held

/-- Where a buffered write goes now: where its address leads by the translation of the unit, or of the tables when the unit
holds none any more (R100: after a page has moved, its new place). -/
def State.placeNow (s : State) (unit asid va : Nat) : HubPlace :=
  let leaf := fun (level : Nat) (e : Word) => match leafPlace s level e va with
    | .at m => HubPlace.at m
    | .fault c => .fault c
    | .walk => .fault causeAccess
  match s.tlbLookup unit asid va with
  | some (level, e) => leaf level e
  | none => match s.walk asid va with
    | .leaf level e => leaf level e
    | .absent level => .absent level
    | .malformed => .malformed
    | .poison => .fault causePoison

/-- The writer of a byte with the largest thread index. -/
def lastWriter : List DetByte → Option DetByte
  | [] => none
  | b :: bs => match lastWriter bs with
    | some c => if c.thread ≥ b.thread then some c else some b
    | none => some b

/-- Pass 1: the epoch's bytes by their places now, each with its group: a later group outranks an earlier one. -/
def State.epochBytes (s : State) (k : Nat) : SMap (Option (Nat × DetByte)) :=
  (s.gids k).foldl (fun m g =>
    (s.storesNow g).foldl (fun m p => match lastWriter p.2 with
      | some b => SMap.set m p.1 (some (g, b))
      | none => m) m) []

/-- The number of a group's thread by its index. -/
def Group.tid (g : Group) (i : Nat) : Nat := if g.unit < 96 then controlTid g.unit else (g.unit - 96) * 1024 + g.base + i

/-- The first fault of each thread in a close (21 R366). -/
def addFault (faults : List (Nat × Nat × Nat)) (tid cause va : Nat) : List (Nat × Nat × Nat) :=
  if faults.any (·.1 == tid) then faults else faults ++ [(tid, cause, va)]

/-- What a close has given up of a thread's writes to the line of an address: the cause and the value. -/
def State.closeLost (s : State) (k tid va : Nat) : Option (Nat × Nat) :=
  ((s.wave k).lost.find? fun x => x.tid == tid && x.line == va / 128).map fun x => (x.cause, x.val)

/-- Whether one write of a close may be made at a place now: a package it leads to has answered, the home can serve it, and a
watched line's order gate lets it through (`watched`). -/
def State.closeAt (s : State) (k tid va : Nat) (l : Loc) (watched : Bool) : Closing :=
  let stand := fun (gate : Bool) => Closing.wait ⟨tid, va, l.key / 128, gate, s.cycle⟩
  if l.space.foreign then if (s.wave k).answered.contains (l.key / 128) then .ok s [] else stand false
  else if s.blocked 1000 l then .held
  else if !watched then .ok s []
  else match s.admitWatched k (unitOf tid) (slotOf tid) l with
    | some s => .ok s []
    | none => if s.gateBlind (s.wave k).asid (homeSlice l.addr) then .held else stand true

/-- The report of a malformed entry that a write of a close met (23 R401). -/
def State.closeReport (s : State) (k unit acc va : Nat) : State :=
  s.report (mkReport 2 (s.wave k).asid acc 0 0 va k (unitWord unit) 0)

/-- Where the hint of a write made for a wave at its home lets the line stay: a watched line stays nowhere (21 R373). -/
def State.closeHint (s : State) (k va : Nat) : Nat := if s.watchedVa k va then 2 else 1

/-- What applying the bytes of an epoch goes by: the wave, the line, group and writer admitted last (bytes of one writer in one
watched line are one admission, 21 R373, R374), the threads' first faults, and the pages whose malformed entry is
reported. -/
structure ClosePass where
  wave : Nat
  last : Nat × Nat × Nat
  faults : List (Nat × Nat × Nat)
  bad : List Nat

/-- Applies the bytes of pass 1 at their homes. -/
def State.applyBytes (s : State) (c : ClosePass) : List (Nat × Option (Nat × DetByte)) → Closing
  | [] => .ok s c.faults
  | (_, none) :: rest => s.applyBytes c rest
  | (_, some (g, b)) :: rest =>
    let gr := s.group g
    let tid := gr.tid b.thread
    let failed := fun (cause val : Nat) => s.applyBytes { c with faults := addFault c.faults tid cause val } rest
    match s.closeLost c.wave tid b.va with
    | some (cause, val) => failed cause val
    | none => match s.placeNow gr.unit (s.wave c.wave).asid b.va with
      | .at l =>
        let mine := (lineOf l.key, g, b.thread)
        match s.closeAt c.wave tid b.va l (l.space == .hbm && s.watchedVa c.wave b.va && mine != c.last) with
        | .ok s _ =>
          let who : Who := ⟨1000, (s.wave c.wave).asid, g, false, .close c.wave⟩
          (((s.performWrite who l [b.value] (s.closeHint c.wave b.va)).markFor who l).peerSent who l).applyBytes
            { c with last := mine } rest
        | r => r
      | .absent level => .page b.va level gr.unit tid none
      | .malformed =>
        if c.bad.contains (b.va / 2 ^ 16) then failed causeAccess b.va
        else (s.closeReport c.wave gr.unit 1 b.va).applyBytes
          { c with faults := addFault c.faults tid causeAccess b.va, bad := b.va / 2 ^ 16 :: c.bad } rest
      | .fault cause => failed cause b.va

/-- Inserts an entry in ascending (group, thread, program order). -/
def insertAtom (e : AtomEntry) : List AtomEntry → List AtomEntry
  | [] => [e]
  | f :: fs => if [e.group, e.thread, e.order] < [f.group, f.thread, f.order] then e :: f :: fs else f :: insertAtom e fs

/-- The epoch's entries in the order of pass 2. -/
def State.epochAtoms (s : State) (k : Nat) : List AtomEntry :=
  ((s.gids k).flatMap fun g => (s.group g).atoms).foldl (fun l e => insertAtom e l) []

/-- An entry's register: it receives the value if it is still pending on this entry, and loses its mark. -/
def Thread.settleAtom (t : Thread) (e : AtomEntry) (v : Option Word) : Thread :=
  if e.acc.gd ≠ 0 ∧ t.pend.get e.acc.gd = e.num + 1 then
    match v with
    | some v => t.wr (BitVec.ofNat 6 e.acc.gd) v
    | none => { t with pend := t.pend.set e.acc.gd 0 }
  else t

/-- One entry performed, walks made at once. -/
def State.applyAtom (s : State) (e : AtomEntry) (l : Loc) : Nat → Performed
  | 0 => .fault causeAccess e.acc.va
  | n + 1 =>
    match s.perform e.tid { e.acc with loc := l, hint := 2 } with
    | .walk va =>
      let who := s.who e.tid
      match s.walk who.asid va with
      | .leaf level w => (s.tlbFill who.unit ⟨who.asid, va / levelSize level * levelSize level, level, w⟩).applyAtom e l n
      | .absent _ => .walk va
      | .malformed => .fault causeAccess va
      | .poison => .fault causePoison va
    | r => r

/-- Pass 2: the entries one after the other; a faulting one writes nothing. -/
def State.applyAtoms (s : State) (k : Nat) (faults : List (Nat × Nat × Nat)) : List AtomEntry → Closing
  | [] => .ok s faults
  | e :: es =>
    let unit := unitOf e.tid
    let asid := (s.wave k).asid
    let failed := fun (cause va : Nat) =>
      let s := match s.placeNow unit asid va with
        | .malformed => s.closeReport k unit 2 va
        | _ => s
      (s.setThread e.tid ((s.thread e.tid).settleAtom e none)).applyAtoms k (addFault faults e.tid cause va) es
    match (if e.refused then some (causePage, e.waitVa) else s.closeLost k e.tid e.acc.va) with
    | some (cause, val) => failed cause val
    | none => match s.placeNow unit asid e.acc.va with
      | .absent level => .page e.acc.va level unit e.tid (some e.num)
      | .malformed => failed causeAccess e.acc.va
      | .fault c => failed c e.acc.va
      | .at l => match s.closeAt k e.tid e.acc.va l (l.space == .hbm && s.watchedVa k e.acc.va) with
        | .ok t _ => match t.applyAtom e l 3 with
          | .ok s v => (s.setThread e.tid ((s.thread e.tid).settleAtom e v)).applyAtoms k faults es
          | .fault c va => failed c va
          | .held m _ => if m.space.foreign then .wait ⟨e.tid, e.acc.va, m.key / 128, false, s.cycle⟩ else .held
          | .walk va => match s.walk asid va with
            | .absent level => .page va level unit e.tid (some e.num)
            | _ => .held
        | r => r

/-- Both passes, made in one step (R364 to R369 do not say how they lie beside other waves' accesses; DESIGN CHOICE, log entry
96). -/
def State.applyEpoch (s : State) (k : Nat) : Closing :=
  match s.applyBytes ⟨k, (0, 0, 0), [], []⟩ (s.epochBytes k) with
  | .ok r faults => r.applyAtoms k faults (s.epochAtoms k)
  | r => r

/-- A thread waiting at its group's flush point goes on. -/
def State.passFlush (s : State) (tid : Nat) : State :=
  match (s.thread tid).wait with
  | some .join => s.passWait tid
  | some .dflush => s.passWait tid
  | some (.wdone _) => s.passWdone tid
  | some (.ssync _) => s.setThread tid { s.thread tid with arrived := 1 }
  | _ => s

/-- A group's buffers are empty, and it has passed one more flush point. -/
def State.passEpoch (s : State) (gid : Nat) : State :=
  let g := s.group gid
  let s := s.setGroup gid { g with stores := [], atoms := [], epoch := g.epoch + 1, flushes := g.epoch + 1 }
  if g.unit < 96 then s.setTile g.unit { s.tile g.unit with footprints := [] } else s

/-- Whether the next epoch of a wave can close: every group has reached its flush point or has ended, and there is
something to close. -/
def State.epochReady (s : State) (k : Nat) : Bool :=
  let w := s.wave k
  let reached := fun (g : Nat) => decide ((s.group g).flushes > (s.group g).epoch)
  s.waveDet k && w.closeWait == 0 && !w.closing && (w.state == .running || w.state == .retiring)
    && (s.gids k).all (fun g => reached g || (s.group g).ended)
    && (s.gids k).any (fun g => reached g || !(s.group g).stores.isEmpty || !(s.group g).atoms.isEmpty)

/-- A thread that traps at a waiting instruction has not executed it: a flush point it had reached, or a step or query it had
reported, is its group's no more, unless another thread of the group still waits there (09 R162, 19 R353, R356). -/
def State.withdrawArrival (s : State) (tid : Nat) : State :=
  let t := s.thread tid
  let g := s.group t.gid
  let others := ((s.members t.gid).filter (· != tid)).map s.thread
  match t.wait with
  | some .join | some .dflush | some (.wdone _) | some (.ssync _) => s.setGroup t.gid { g with flushes := g.epoch }
  | some (.govrd v _) =>
    if v = BitVec.allOnes 64 then
      s.setGroup t.gid { g with asked := others.foldl (fun n u =>
        max n (if u.govrdAt.any (·.1 == v) then u.queries + 1 else u.queries)) t.queries }
    else if others.any fun u => u.govrdAt.any (·.1 == v) then s
    else s.setGroup t.gid { g with steps := g.steps &&& ~~~(1#64 <<< v.toNat) }
  | _ => s

/-- The end of a close whose writes are performed: every group passes its flush point, and a thread waiting at one goes on or
raises the fault its entry brought. -/
def State.endClose (s : State) (k : Nat) : State :=
  let waiting := (s.gids k).filter fun g => decide ((s.group g).flushes > (s.group g).epoch)
  let s := (s.gids k).foldl State.passEpoch s
  let s := s.setWave k { s.wave k with
    epochs := (s.wave k).epochs + 1, closing := false, ask := none, answered := [], lost := [] }
  let go := fun (s : State) (m : Nat) =>
    let t := s.thread m
    match t.refusal with
    | some (cause, va) =>
      (if t.wait matches some (.ssync _) then s.passFlush m else s).trap m cause t.pc (BitVec.ofNat 64 va)
    | none => s.passFlush m
  let s := waiting.foldl (fun s g => (s.members g).foldl go s) s
  (s.trySsync k).getD s

/-- Whether writes of a wave's close, or of its threads before it, await PEER invalidations. -/
def State.closeOwes (s : State) (k : Nat) : Bool :=
  s.peerInv.any fun v => match v.writer with
    | .close w => w == k
    | .thread tid => waveOf (s.thread tid).gid == k
    | _ => false

/-- EPOCH_CLOSE: the epoch's writes are applied, and once they are performed, their PEER invalidations included (R111, 05
R104), the close ends. Where it stands at a page, a package or a gate first, it notes since when. -/
def onEpochClose (k : Nat) (s : State) : Option State :=
  if (s.wave k).closing then (if s.closeOwes k then none else some (s.endClose k))
  else if !s.epochReady k then none
  else match s.applyEpoch k with
    | .held => none
    | .wait a =>
      if (s.wave k).ask.any fun x => x.tid == a.tid && x.block == a.block && x.gate == a.gate then none
      else some (s.setWave k { s.wave k with ask := some a })
    | .page va level unit tid entry =>
      let (s, tag) := s.pageReport (s.wave k).asid va level (if entry.isSome then 2 else 1) k (unitWord unit)
      let s := (s.gids k).foldl (fun s g => s.setGroup g { s.group g with
        atoms := (s.group g).atoms.map fun e => if some e.num = entry then { e with wait := tag + 1, waitVa := va } else e }) s
      some (s.setWave k { s.wave k with
        closeWait := tag + 1, ask := if entry.isSome then none else some ⟨tid, va, 0, false, s.cycle⟩ })
    | .ok s faults =>
      let s := faults.foldl (fun s f => s.setThread f.1 { s.thread f.1 with refusal := some f.2 }) s
      let s := (s.gids k).foldl (fun s g => s.setGroup g { s.group g with stores := [], atoms := [] }) s
      some (if s.closeOwes k then s.setWave k { s.wave k with closing := true } else s.endClose k)
/-- EPOCH_CLOSE: it happens, or nothing does. -/
def execEpochClose (k : Nat) (s : State) : Out := happens (onEpochClose k) s

/-- The close of an epoch that waited on a report, when the driver answers it (21 R366): the write it stood at is made again, or
given up with PAGE_FAULT. -/
def State.answerClose (s : State) (tag : Nat) (refuse : Bool) : State :=
  (s.waves.filter fun w => w.2.closeWait == tag + 1).foldl (fun s w =>
    let given := if refuse then w.2.ask.toList.map fun a => (⟨a.tid, a.va / 128, causePage, a.va⟩ : CloseLost) else []
    let s := s.setWave w.1 { s.wave w.1 with closeWait := 0, ask := none, lost := w.2.lost ++ given }
    (s.gids w.1).foldl (fun s g => s.setGroup g { s.group g with
      atoms := (s.group g).atoms.map fun e =>
        if e.wait = tag + 1 then { e with wait := 0, refused := refuse } else e }) s) s

/-! ## Leaving units (01 R41) -/

/-- A unit's L1 is emptied: clean lines leave it, dirty ones go through its write-back buffer to their homes, where the buffer
keeps them until the homes answer (05 R96); its monitors on those lines are triggered (09 R194). -/
def State.dropL1 (s : State) (unit : Nat) : State :=
  (s.l1.filter fun p => p.1 / 2 ^ 45 == unit && p.2.st != .i).foldl (fun s p =>
    let line := p.1 % 2 ^ 45
    let s := s.leaveL1 unit line
    if p.2.st = .m ∨ p.2.st = .o then
      ({ s with l1 := s.l1.set p.1 ⟨.i, true⟩ }).send ⟨line, unit, .writeback, 0, 0⟩
    else s) s

/-- The frame of a wave is noted for the charge of this window, when a group of the wave has been on a die in overdraft or held
(19 R359). -/
def State.noteFrame (s : State) (k : Nat) : State :=
  let frame := (s.wave k).node.frame
  if (s.groups.any fun g => waveOf g.1 == k && g.2.placed && s.energy.hit.get (dieOf g.2.unit))
      && !s.energy.charged.contains frame then
    let e := s.energy
    { s with energy := { e with charged := frame :: e.charged } }
  else s

/-- A wave leaves its units: groups, threads, tiles and cores are free again; the progress token leaves with its group (01
R42), and what a wave that never started had on its tiles is no previous wave of theirs (01 R20). Increments still on
their way stay, and find no group (01 R40). -/
def State.vacate (s : State) (k : Nat) : State :=
  let gs := s.groups.filter fun g => waveOf g.1 == k
  let s := s.noteFrame k
  let s := { s with
    threads := s.threads.filter fun p => waveOf p.2.gid != k
    groups := s.groups.filter fun g => waveOf g.1 != k }
  gs.foldl (fun s g =>
    let u := g.2.unit
    if !g.2.placed then s
    else if u < 96 then
      let t := s.tile u
      s.setTile u { (default : Tile) with
        prevSram := if g.2.started then t.sram else t.prevSram
        prevAsid := if g.2.started then some (s.wave k).asid else t.prevAsid
        waits := t.waits, remoteq := t.remoteq, incs := t.incs }
    else
      let c := u - 96
      let used := s.groups.any fun x => x.2.unit == u && x.2.placed
      let token := (s.core c).token
      (s.setCore c { s.core c with
        sram := if used then (s.core c).sram else 0
        token := if token ≠ 0 ∧ waveOf (token - 1) = k then 0 else token }).regrant c) s

/-- Whether a writer is of a wave. -/
def State.writes (s : State) (k : Nat) : Writer → Bool
  | .other | .host => false
  | .cut tile => (s.tile tile).group != 0 && waveOf ((s.tile tile).group - 1) == k
  | .thread tid => waveOf (s.thread tid).gid == k
  | .command tile _ _ => (s.tile tile).group != 0 && waveOf ((s.tile tile).group - 1) == k
  | .close w => w == k

/-- Whether writes of a wave await PEER invalidations (05 R104). -/
def State.waveOwes (s : State) (k : Nat) : Bool := s.peerInv.any fun v => s.writes k v.writer

/-- WAVE_RETIRE: every group has ended, every buffered write is applied, every write performed and every command complete;
the footprint is released and successors leave Pending. -/
def onWaveRetire (k : Nat) (s : State) : Option State :=
  let w := s.wave k
  let quiet := fun (g : Nat) =>
    (s.group g).stores.isEmpty && (s.group g).atoms.isEmpty
      && (!decide ((s.group g).unit < 96) || (s.tileIdle (s.group g).unit
        && (s.tile (s.group g).unit).incs.all (s.incHeld (s.group g).unit)))
  if w.state != .retiring || w.closing || !(s.gids k).all quiet || s.waveOwes k then none
  else some ((s.vacate k).setWave k default).releasePending
/-- WAVE_RETIRE: it happens, or nothing does. -/
def execWaveRetire (k : Nat) (s : State) : Out := happens (onWaveRetire k) s

end Sys2Proof.Machine
end

