-- ==== Sys2Proof/Machine/Placement.lean ====
section
/-! DEFINITION. Dispatch and placement (19 R341, R348-R350), the start and the restore of groups (01 R20, R38; 23 R398),
and pre-emption: its requests, deadlines, the choice among drain, save and restart, and the save (23 R392-R397). -/

namespace Sys2Proof.Machine

/-! ## Order of dispatch (R348) -/

/-- Effective priority of a wave. -/
def State.effPrio (s : State) (w : Wave) : Nat :=
  if w.critical then 7 else min 6 (w.node.prio + (s.cycle - w.readySince) / Config.aging)

/-- The key of a wave: (−effective priority, FRAME, STAGE, wave number). -/
def State.dispatchKey (s : State) (k : Nat) : List Nat :=
  let w := s.wave k
  [7 - s.effPrio w, w.node.frame, w.node.stage, k]

/-- Inserts a set in ascending order of its key. -/
def insertSet (x : List Nat × List Nat) : List (List Nat × List Nat) → List (List Nat × List Nat)
  | [] => [x]
  | y :: ys => if x.1 < y.1 then x :: y :: ys else if x.2 = y.2 then y :: ys else y :: insertSet x ys

/-- Inserts a wave in ascending order of its key. -/
def State.insertWave (s : State) (k : Nat) : List Nat → List Nat
  | [] => [k]
  | j :: js => if s.dispatchKey k < s.dispatchKey j then k :: j :: js else j :: s.insertWave k js

/-- The ready sets, each in key order with the smallest key of its members, in the order the pool takes them. -/
def State.readySets (s : State) : List (List Nat × List Nat) :=
  (s.pool.filter fun k => (s.wave k).state == .ready && !(s.wave k).refused).foldl (fun l k =>
    let set := s.coSet k
    if set.all (fun j => (s.wave j).state == .ready) then
      let sorted := set.foldl (fun l j => s.insertWave j l) []
      insertSet (s.dispatchKey (sorted.headD k), sorted) l
    else l) []

/-! ## Conflicts of tile operands (R341) -/

/-- Two operands share a byte, and one of them is written. -/
def opConflict (a b : Word × Word) : Bool :=
  let lo := fun (o : Word × Word) => o.1.toNat
  let hi := fun (o : Word × Word) => o.1.toNat + bitsOf o.2.toNat 0 40
  (a.2.getLsbD 63 || b.2.getLsbD 63) && decide (lo a < hi b) && decide (lo b < hi a)

/-- A wave whose operands count against others: placed, running, pre-empted or retiring. -/
def Wave.holdsOps (w : Wave) : Bool :=
  w.state == .placed || w.state == .running || w.state == .preempted || w.state == .retiring

/-- Whether a wave of a ready set is held by a conflict. Ranges are compared by their virtual addresses, whatever address space
each wave has (R341 names none; DESIGN CHOICE, log entry 106). -/
def State.heldBack (s : State) (set : List Nat) (k : Nat) : Bool :=
  s.waves.any fun w => w.2.holdsOps && !set.contains w.1
    && (s.wave k).node.ops.any fun a => w.2.node.ops.any (opConflict a)

/-! ## Where a wave fits (R349) -/

/-- A unit the pool may place on: not fenced, its die not resetting and its link not failed (25 R412, R413, R418). -/
def State.usable (s : State) (unit : Nat) : Bool :=
  let fenced := if unit < 96 then s.host.tfence.getLsbD unit else s.host.cfence.getLsbD (unit - 96)
  !fenced && !(s.host.drstBusy && s.host.drstNow.toNat == dieOf unit) && !(s.links.get (dieOf unit - 1)).failed

/-- A print tile a wave can be placed on. -/
def State.tileFree (s : State) (t : Nat) : Bool := (s.tile t).group == 0 && s.usable t

/-- The tiles of an h × w rectangle with its origin at a tile, in logical order, when it lies on one die (R31). -/
def rectangleAt (h w origin : Nat) : Option (List Nat) :=
  if panelRow origin + h ≤ 3 ∧ panelCol origin + w ≤ 4 then
    some ((List.range h).flatMap fun i => (List.range w).map fun j => origin + 4 * i + j)
  else none

/-- The tile sets a print wave may take, in the order of choice. -/
def State.tileSets (s : State) (n : Node) : List (List Nat) :=
  if n.wholeDies then
    let dies := (List.range 8).filter fun d => (List.range 12).all fun i => s.tileFree (d * 12 + i)
    if dies.length < n.dies then [] else [(dies.take n.dies).flatMap fun d => (List.range 12).map fun i => d * 12 + i]
  else ((List.range 96).filterMap (rectangleAt n.height n.width)).filter fun ts => ts.all s.tileFree

/-- A tile at the start of a group (01 Table 1.9): only what it remembers of its previous wave is kept. -/
def Tile.fresh (t : Tile) (gid sram : Nat) : Tile :=
  { (default : Tile) with group := gid + 1, sram := sram, prevSram := t.prevSram, prevAsid := t.prevAsid, incs := t.incs }

/-- Assigns tiles to the groups of a wave, in logical order. -/
def State.takeTiles (s : State) (k : Nat) (tiles : List Nat) : State :=
  let w := s.wave k
  (tiles.zipIdx).foldl (fun s p =>
    let gid := k * 1024 + p.2
    let t := s.tile p.1
    match w.saved.find? (·.index == p.2) with
    | some g =>
      let s := s.setGroup gid { g.group with unit := p.1, placed := true, started := false, age := s.nextAge, patterns := [] }
      { s.setTile p.1 { g.tile with group := gid + 1, prevSram := t.prevSram, prevAsid := t.prevAsid, incs := t.incs } with
        nextAge := s.nextAge + 1 }
    | none =>
      let s := s.setGroup gid { (default : Group) with unit := p.1, placed := true, age := s.nextAge, threads := 1 }
      { s.setTile p.1 (t.fresh gid w.node.sram) with nextAge := s.nextAge + 1 }) s

/-- Allocates the footprint hoops of a wave: tiles in logical order, each list in order (15 R295). -/
def State.takeHoops (s : State) (k : Nat) (tiles : List Nat) : Option State :=
  (tiles.flatMap fun t => (s.wave k).node.hoops.map fun h => (t, h)).foldl (fun r p =>
    r.bind fun s => (s.allocHoop k p.1 p.2).map (·.2)) (some s)

/-- Places a print wave on the first tile set that fits. -/
def State.placeTiles (s : State) (k : Nat) : List (List Nat) → Option State
  | [] => none
  | ts :: rest =>
    let t := s.takeTiles k ts
    if (s.wave k).saved ≠ [] then some t
    else match t.takeHoops k ts with
      | some t => some t
      | none => s.placeTiles k rest

/-- Groups placed on a proof core. -/
def State.coreGroups (s : State) (core : Nat) : List (Nat × Group) :=
  s.groups.filter fun g => g.2.placed && g.2.unit == 96 + core

/-- The lowest run of free thread slots of a length, from a multiple of 32. -/
def State.slotBase (s : State) (core n : Nat) : Option Nat :=
  ((List.range 32).map (· * 32)).find? fun b =>
    decide (b + n ≤ Config.slots) &&
      (s.coreGroups core).all fun g => decide (b + n ≤ g.2.base) || decide (g.2.base + g.2.threads ≤ b)

/-- The lowest free offset of group memory for a size: a multiple of 128 where there is one, else where another group's range
ends (R22: the offset is chosen at placement; DESIGN CHOICE, log entry 47). -/
def State.memBase (s : State) (core sram n : Nat) : Option Nat :=
  let ends := (s.coreGroups core).map fun g => g.2.gmOff + g.2.gmSize
  let least := fun (l : List Nat) => leastBy (fun a b => decide (a < b)) (l.filter fun o =>
    decide (o + n ≤ Config.groupMemSize sram) &&
      (s.coreGroups core).all fun g => g.2.gmSize == 0 || decide (o + n ≤ g.2.gmOff) || decide (g.2.gmOff + g.2.gmSize ≤ o))
  match least (0 :: ends.map fun e => (e + 127) / 128 * 128) with
  | some o => some o
  | none => least ends

/-- A group that drains keeps its unit for itself (23 R395). -/
def State.coreDraining (s : State) (core : Nat) : Bool :=
  (s.coreGroups core).any fun g => (s.wave (waveOf g.1)).mode == .drain

/-- Assigns a proof group to a core if it fits there. `taken` counts the blocks that groups taken earlier in this decision will
ask for; a saved group's blocks are kept for it from here on (R229, R349). -/
def State.takeCore (s : State) (k i core taken : Nat) : Option State :=
  let w := s.wave k
  let n := w.node
  let saved := w.saved.find? (·.index == i)
  let blocks := match saved with
    | some g => g.blocks
    | none => n.threads * n.regb
  if !s.usable (96 + core) || s.coreDraining core || !((s.core core).sram == 0 || (s.core core).sram == n.sram)
      || decide (s.freeBlocks core < taken + blocks) then none
  else match s.slotBase core n.threads, s.memBase core n.sram n.groupBytes with
    | some b, some o =>
      let g := match saved with
        | some x => x.group
        | none => default
      let s := s.setGroup (k * 1024 + i) { g with
        unit := 96 + core, placed := true, started := false, age := s.nextAge, base := b, threads := n.threads
        gmOff := o, gmSize := n.groupBytes, patterns := [] }
      some { s.setCore core { s.core core with sram := n.sram } with nextAge := s.nextAge + 1 }
    | _, _ => none

/-- Places proof groups from index `i` on, each on its lowest core; `same` limits a group to the core it was saved on. -/
def State.placeGroups (s : State) (k : Nat) (same : Bool) (taken : SMap Nat) (i : Nat) : Nat → Option (State × SMap Nat)
  | 0 => some (s, taken)
  | n + 1 =>
    let w := s.wave k
    let saved := w.saved.find? (·.index == i)
    let cores := if same then (match saved with
      | some g => [g.unit - 96]
      | none => []) else List.range Config.cores
    match cores.findSome? fun c => (s.takeCore k i c (taken.get c)).map fun s => (c, s) with
    | none => none
    | some (c, t) =>
      let fresh := if saved.isSome then 0 else w.node.threads * w.node.regb
      t.placeGroups k same (taken.upd c (· + fresh)) (i + 1) n

/-- Assigns units to one wave (R349); a saved member of a set takes back the units it held (23 R398). -/
def State.placeWave (s : State) (k : Nat) (taken : SMap Nat) : Option (State × SMap Nat) :=
  let w := s.wave k
  let same := !w.saved.isEmpty && decide (w.set.length > 1)
  let placed :=
    if w.node.proof then s.placeGroups k same taken 0 w.groups
    else if same then
      let ts := w.saved.map (·.unit)
      if ts.all s.tileFree then some (s.takeTiles k ts, taken) else none
    else (s.placeTiles k (s.tileSets w.node)).map fun s => (s, taken)
  placed.map fun p =>
    (p.1.setWave k { w with
      state := .placed, prio := s.effPrio w, placedOnce := true, mark := w.placedOnce && w.mark, request := 0, mode := .none
      recMode := (s.records.get w.asid).block.mode }, p.2)

/-- Places a set, all of its members or none; the register blocks taken are counted over the whole decision. -/
def State.placeSet (s : State) (set : List Nat) : Option State :=
  (set.foldl (fun (r : Option (State × SMap Nat)) k => r.bind fun p =>
    (p.1.setWave k { p.1.wave k with set := if set.length > 1 then set else [] }).placeWave k p.2) (some (s, []))).map (·.1)

/-! ## Pre-emption by the pool (R350) -/

/-- The command processor under an address space, as maker of accesses (05 Table 5.4, bit 32). -/
def hubFor (asid : Nat) : Who := ⟨192, asid, 0, true, .other⟩

/-- The place of the SPOOL ring at which the next save buffer of an address space stands. -/
def State.spoolVa (s : State) (asid : Nat) : Nat :=
  (s.asidEntry asid).spool.toNat + 8 * (s.spoolTaken.get asid % Config.spoolEntries asid)

/-- The word of the SPOOL ring that names the next save buffer of an address space, read by the command processor and admitted as
its request where the line is watched (21 R374). The ring holds 8-byte virtual addresses, 0 for an empty place (DESIGN
CHOICE, log entry 46). -/
def State.spoolWord (s : State) (asid : Nat) : HubDone (State × Nat) :=
  let va := s.spoolVa asid
  match s.resolve (hubFor asid) needR va 8 with
  | .at l => match s.admitAgent (hubFor asid).unit l with
    | some s => s.hubLoad (hubFor asid) va 8
    | none => .held
  | _ => s.hubLoad (hubFor asid) va 8

/-- Whether a free save buffer of an address space stands next in its SPOOL ring, and its address. -/
def State.saveBuffer (s : State) (asid : Nat) : Option Nat :=
  match s.spoolWord asid with
  | .ok (_, a) => if a = 0 then none else some a
  | .held | .lost => none

/-- Whether that is still to be learnt: the word is held on its way. -/
def State.spoolHeld (s : State) (asid : Nat) : Bool := s.spoolWord asid matches .held

/-- A save buffer is taken: its place of the ring is empty. -/
def State.takeBuffer (s : State) (asid : Nat) : State :=
  let s := match s.spoolWord asid with
    | .ok (s, _) => s
    | .held | .lost => s
  let s := match s.hubStore (hubFor asid) (s.spoolVa asid) 8 0 with
    | .ok t => t
    | .held | .lost => s
  { s with spoolTaken := s.spoolTaken.upd asid (· + 1) }

/-- Bytes a wave's save needs (Table 23.7). -/
def State.saveSize (s : State) (k : Nat) : Nat :=
  let w := s.wave k
  4096 + ((s.gids k).map fun g =>
    let gr := s.group g
    let det := gr.atoms.length * 32 + bufferLines gr.stores * 144
    if w.node.proof then
      w.node.groupBytes + 7440 + det + ((s.members g).map fun m =>
        1024 + 64 * heldCount (s.thread m).held + 8 * ((s.thread m).ports.map fun p => p.2.length).sum).sum
    else 8192 + 5 * 3856 + 122880 + 512 + 7440 + 3792200 + Config.scratchSize w.node.sram + det).sum

/-- Whether a wave can be saved: a buffer is free and large enough. -/
def State.canSave (s : State) (k : Nat) : Bool :=
  (s.saveBuffer (s.wave k).asid).isSome && decide (s.saveSize k ≤ (s.asidEntry (s.wave k).asid).splen.toNat)

/-- Accesses of a wave that were sent and not yet performed (09 R162, R192). -/
def State.sent (s : State) (k : Nat) : List Nat :=
  (s.waveThreads k).filter fun m => match (s.thread m).wait with
    | some (.access _) => true
    | _ => false

/-- Whether a write of a wave is under way: a store or atomic sent, a buffered epoch being applied, an increment of one of its
commands to another wave's tile, or a copy command's chunk. -/
def State.writing (s : State) (k : Nat) : Bool :=
  let tiles := s.waveTiles k
  (s.wave k).closing || (s.sent k).any (fun m => match (s.thread m).wait with
      | some (.access a) => !(a.op matches .load _)
      | _ => false)
    || tiles.any s.incsOut

/-- How one wave would be pre-empted by R394, alone. -/
inductive PreemptChoice where
  | drain | flush | save
deriving DecidableEq, Repr

/-- Whether so much of a wave is over that it drains (R394). -/
def State.nearlyOver (s : State) (k : Nat) : Bool :=
  let over_ := ((s.gids k).filter fun g => (s.group g).ended || (s.group g).done).length
  decide (8 * over_ ≥ 7 * (s.wave k).groups)

/-- R394's choice. A write still under way counts as a side effect. -/
def State.preemptChoice (s : State) (k : Nat) : PreemptChoice :=
  let w := s.wave k
  if s.nearlyOver k then .drain
  else if w.node.ctl.getLsbD 22 && !w.mark && decide (s.cycle - w.ran ≤ (s.asidEntry w.asid).rlim.toNat)
      && !s.writing k then .flush
  else if s.canSave k then .save else .drain

/-- Members of a wave's co-placement set that a pre-emption takes with it, itself first (R392). -/
def State.setMates (s : State) (k : Nat) : List Nat :=
  (k :: (s.wave k).set.filter (· != k)).filter fun j => (s.wave j).state == .running || (s.wave j).state == .placed

/-- How each of some waves is pre-empted together: flush and restart only if every one would (R394). -/
def State.choices (s : State) (ks : List Nat) : List (Nat × PreemptChoice) :=
  let allFlush := ks.all fun j => s.preemptChoice j == .flush
  ks.map fun j =>
    let c := s.preemptChoice j
    (j, if c = .flush ∧ !allFlush then .save else c)

/-- What a victim with its set would leave behind: their units free and the buffers they need taken; none where one of them
would have to drain for want of a buffer. -/
def State.withoutVictim (s : State) (k : Nat) : Option State :=
  (s.choices (s.setMates k)).foldl (fun (r : Option State) x => r.bind fun s =>
    match x.2 with
    | .flush => some (s.vacate x.1)
    | .save => if s.canSave x.1 then some ((s.takeBuffer (s.wave x.1).asid).vacate x.1) else none
    | .drain => if s.nearlyOver x.1 then some (s.vacate x.1) else none) (some s)

/-- Waves the pool may pre-empt, least dispatched priority first, then highest wave number: none at level 7, and none already
asked or on its way out. -/
def State.victims (s : State) : List Nat :=
  let cand := s.pool.filter fun k =>
    let w := s.wave k
    (w.state == .running || w.state == .placed) && w.mode == .none && w.request == 0
      && (s.setMates k).all fun j => decide ((s.wave j).prio < 7)
  cand.foldl (fun l k => ins k l) []
where
  /-- Inserts by priority, higher wave numbers first. -/
  ins (k : Nat) : List Nat → List Nat
    | [] => [k]
    | j :: js =>
      if (s.wave k).prio < (s.wave j).prio ∨ ((s.wave k).prio = (s.wave j).prio ∧ k > j) then k :: j :: js else j :: ins k js

/-- The victims to ask for until a set fits, once each has left its units, with what is left when the set then stands on them;
none when nothing helps. -/
def State.chooseVictims (set : List Nat) : State → List Nat → Option (List Nat × State)
  | _, [] => none
  | free, v :: vs =>
    match (if (free.setMates v).isEmpty then none else free.withoutVictim v) with
    | none => State.chooseVictims set free vs
    | some free => match free.placeSet set with
      | some t => some ([v], t)
      | none => (State.chooseVictims set free vs).map fun r => (v :: r.1, r.2)

/-- Asks for the pre-emption of a wave (R350). -/
def State.askPreempt (s : State) (k : Nat) : State :=
  let w := s.wave k
  if w.request = 0 then s.setWave k { w with request := s.cycle + 1 } else s

/-- Waves already asked to leave their units, or on their way out. -/
def State.leaving (s : State) : List Nat :=
  (s.pool.filter fun k => ((s.wave k).request != 0 || (s.wave k).mode != .none) && (s.wave k).state != .ready).flatMap fun k =>
    k :: s.setMates k

/-- The victims to ask for on behalf of each set at level 7 that does not fit beside those before it, unless those already
leaving make room (R350); a set that nothing helps takes nothing from the others. -/
def State.victimsFor (s : State) (free : State) (asked : List Nat) : List (List Nat) → List Nat
  | [] => asked
  | x :: xs => match free.placeSet x with
    | some t => s.victimsFor t asked xs
    | none =>
      let gone := asked.flatMap fun v => v :: s.setMates v
      match State.chooseVictims x free (s.victims.filter (!gone.contains ·)) with
      | some (vs, t) => s.victimsFor t (asked ++ vs) xs
      | none => s.victimsFor free asked xs

/-- Asks for victims for the sets at level 7 that do not fit. -/
def State.askVictims (s : State) (sets : List (List Nat)) : Option State :=
  match s.victimsFor (s.leaving.dedup.foldl State.vacate s) [] (sets.filter fun x => x.any fun k => s.effPrio (s.wave k) == 7) with
  | [] => none
  | vs => some (vs.foldl State.askPreempt s)

/-- DISPATCH_DECISION: the first set in key order that is not held and fits is placed; and where a set at level 7 does not
fit, held or not, pre-emption is asked for (R350). -/
def onDispatchDecision (s : State) : Option State :=
  let held := fun (x : List Nat) => x.any (s.heldBack x)
  let all := s.readySets.map (·.2)
  let sets := all.filter (!held ·) ++ all.filter held
  match (all.filter (!held ·)).findSome? fun x => (s.placeSet x).map fun t => (x, t) with
  | some (x, t) => some ((t.askVictims (sets.filter (· != x))).getD t)
  | none => s.askVictims sets
/-- DISPATCH_DECISION: it happens, or nothing does. -/
def execDispatchDecision (s : State) : Out := happens onDispatchDecision s

/-! ## The start of groups (01 R20, R38; 23 R398) -/

/-- Byte keys of a tile's scratchpad: first, and one past the last. -/
def scratchKeys (t : Nat) : Nat × Nat := ((⟨.sp t, 0⟩ : Loc).key, (⟨.sp t, 0⟩ : Loc).key + 2 ^ 25)

/-- The L1 write-back and the zeroing of a tile before its group's first instruction (R20); zeroing clears poison
(25 R419). -/
def State.prepareTile (s : State) (tile asid : Nat) : State :=
  let t := s.tile tile
  let s := if t.prevAsid.isNone || t.prevSram != t.sram then s.dropL1 tile else s
  if t.prevAsid = some asid then s
  else
    let (lo, hi) := scratchKeys tile
    { s with mem := SMap.clearRange s.mem lo hi, poison := SMap.clearRange s.poison (lo / 128) (hi / 128) }

/-- A thread at the start of its group (Table 1.9, 23 R378, R379). -/
def State.freshThread (s : State) (w : Wave) (gid idx : Nat) (g15 : Nat) : Thread :=
  let e := s.asidEntry w.asid
  { (default : Thread) with
    live := true, gid := gid, idx := idx, pc := w.node.entry
    g := SMap.set (SMap.set [] 1 w.node.arg) 15 (BitVec.ofNat 64 g15)
    fmode := BitVec.ofNat 4 w.node.fmode, rkey := w.node.rkey, patbase := w.node.patbase
    tvec := BitVec.ofNat 64 (e.tvec.toNat * 4), tcut := e.cut.setWidth 64
    govmask := BitVec.allOnes 64, since := s.cycle }

/-- Re-arms a restored monitor: its block is read again, as MON read it, and a difference or an unreadable block triggers it (09
R195). -/
def State.rearm (s : State) (tid : Nat) (m : Monitor) : Monitor :=
  if !m.armed then m
  else
    match s.hubPlace (s.who tid) needR m.va 1 with
    | .at l => { m with loc := l, triggered := m.triggered || s.poisoned l || s.seenBytes tid l 128 != m.ref }
    | _ => { m with triggered := true }

/-- A thread in its save: what its wait has lasted until the wave stopped running is kept (23 R399). -/
def Thread.kept (t : Thread) (now : Nat) : Thread := t.pausing (if t.halted then t.haltedAt else now)

/-- A saved thread on its new unit: a waiting instruction executes again, its wait going on from what it has lasted (23 R399), one
that has been released keeps its release (11 R219), and the reserve block comes back as an ordinary one. -/
def Thread.restored (t : Thread) (now : Nat) : Thread :=
  { t.settle with reserve := 0, since := now, granted := t.granted, hadWaited := t.hadWaited, erel := t.erel }

/-- The state without the bytes of a range of keys. Poison stays (25 R419). -/
def State.clearKeys (s : State) (lo hi : Nat) : State := { s with mem := SMap.clearRange s.mem lo hi }

/-- Bytes of a saved unit, at their new keys, in place of what stood there, and the poison it was saved with. -/
def State.restoreBytes (s : State) (unit gmOff gmSize : Nat) (g : SaveGroup) : State :=
  let at_ := fun (l : Loc) => l.key
  let key := fun (o : Nat) =>
    if unit ≥ 96 then at_ ⟨.gm (unit - 96), gmOff + o⟩
    else if o < 2 ^ 25 then at_ ⟨.sp unit, o⟩ else at_ ⟨.easel unit, o - 2 ^ 25⟩
  let s := if unit ≥ 96 then s.clearKeys (key 0) (key 0 + gmSize)
    else (s.clearKeys (key 0) (key 0 + 2 ^ 25)).clearKeys (key (2 ^ 25)) (key (2 ^ 25) + 2 ^ 21)
  let s := { s with mem := g.bytes.foldl (fun (m : Memory) (b : Nat × Byte) => m.write (key b.1) b.2) s.mem }
  { s with poison := g.poison.foldl (fun m o => SMap.set m (key o / 128) true) s.poison }

/-- Installs saved pattern slots of a group one by one, as long as the store has an entry; with the slots that still wait for
one (17 R324, R334). -/
def State.restoreSlots (s : State) (gid : Nat) : SMap PatSlot → State × SMap PatSlot
  | [] => (s, [])
  | p :: ps =>
    if !p.2.valid then s.restoreSlots gid ps
    else match s.installPattern gid p.1 p.2.image with
      | some s => s.restoreSlots gid ps
      | none => (s, p :: ps)

/-- Installs what can be installed of the saved slots of a wave's placed groups; its save keeps the others. -/
def State.restorePatterns (s : State) (k : Nat) : State :=
  let (s, saved) := (s.wave k).saved.foldl (fun (p : State × List SaveGroup) sg =>
    let gid := k * 1024 + sg.index
    if !(p.1.group gid).placed then (p.1, p.2 ++ [sg])
    else
      let (s, left) := p.1.restoreSlots gid sg.group.patterns
      (s, p.2 ++ [{ sg with group := { sg.group with patterns := left } }])) (s, [])
  s.setWave k { s.wave k with saved := saved }

/-- Whether every saved slot of a wave's placed groups is installed. -/
def State.patternsBack (s : State) (k : Nat) : Bool :=
  (s.wave k).saved.all fun sg => !(s.group (k * 1024 + sg.index)).placed || sg.group.patterns.isEmpty

/-- Starts one group: fresh, or restored from its save with its pattern slots installed. A group whose die was reset since it
was placed does not start. -/
def State.startGroup (s : State) (k : Nat) (i : Nat) : State :=
  let w := s.wave k
  let gid := k * 1024 + i
  let g := s.group gid
  if !g.placed then s
  else
  let s := if g.unit < 96 then s.prepareTile g.unit w.asid else s
  match w.saved.find? (·.index == i) with
  | some sg =>
    let s := (s.restoreBytes g.unit g.gmOff g.gmSize sg).setGroup gid { g with
      started := true, atoms := g.atoms.map fun e => { e with tid := g.tid e.thread } }
    let s := sg.threads.foldl (fun s t => s.setThread (g.tid t.idx) (t.restored s.cycle)) s
    if g.unit < 96 ∧ !(s.thread (controlTid g.unit)).prv ∧ !(s.thread (controlTid g.unit)).halted then
      s.setTile g.unit ((s.tile g.unit).restart s.cycle)
    else s
  | none =>
    let s := s.setGroup gid { g with started := true }
    let n := w.node
    let sp := fun (idx : Nat) =>
      if n.proof then Config.ownAlias + n.gmem + (idx + 1) * n.stack else 0
    (List.range (if n.proof then n.threads else 1)).foldl (fun s idx =>
      s.setThread (g.tid idx) (s.freshThread w gid idx (sp idx))) s

/-- Re-arms the monitors of a wave's restored threads, once every group of it is restored (09 R195). -/
def State.rearmWave (s : State) (k : Nat) : State :=
  ((s.wave k).saved.flatMap fun sg => sg.threads.map fun t => (s.group (k * 1024 + sg.index)).tid t.idx).foldl (fun s m =>
    s.setThread m { s.thread m with mon := s.rearm m (s.thread m).mon }) s

/-- Halts a running wave on all its units, each with its report of cause 0 (25 R413). -/
def State.haltGroups (s : State) (k : Nat) : State :=
  (s.gids k).foldl (fun s g =>
    match s.members g with
    | [] => s
    | m :: _ => s.haltUnit m 0 (s.thread m).pc.toNat) s

/-- The start of a placed wave: its saved pattern slots are installed as the store has entries, and once every unit is ready
its groups begin or resume; a save buffer that is no longer needed is reported free (KIND 6). A wave that a die's reset found
only placed is halted as it starts. -/
def State.startWave (s : State) (k : Nat) : State :=
  let s := s.restorePatterns k
  let w := s.wave k
  if !s.patternsBack k then s
  else
    let s := ((List.range w.groups).foldl (fun s i => s.startGroup k i) s).rearmWave k
    let s := if w.buffer = 0 then s else s.report (mkReport 6 w.asid 0 0 0 w.buffer k 0 0)
    let s := s.setWave k { s.wave k with state := .running, ran := s.cycle, saved := [], buffer := 0, haltDue := false }
    if w.haltDue then s.haltGroups k else s

/-- GROUP_START: a placed wave starts, or a saved pattern slot of it is installed. -/
def onGroupStart (k : Nat) (s : State) : Option State :=
  if (s.wave k).state != .placed then none
  else
    let t := s.startWave k
    if (t.wave k).state == .placed && (t.wave k).saved == (s.wave k).saved then none else some t
/-- GROUP_START: it happens, or nothing does. -/
def execGroupStart (k : Nat) (s : State) : Out := happens (onGroupStart k) s

/-! ## Pre-emption (23 R392-R397) -/

/-- Accesses that other units have sent to a wave's tiles and that are not performed (R392). -/
def State.sentTo (s : State) (k : Nat) : List Nat :=
  let tiles := s.waveTiles k
  s.tids.filter fun m => (s.thread m).live && (match (s.thread m).wait with
    | some (.access a) => (match a.loc.space with
      | .sp t => tiles.contains t && unitOf m != t
      | _ => false)
    | _ => false)

/-- Whether the way of a remote access to its tile is open: no link on it holds (25 R411). -/
def State.wayOpen (s : State) (m : Nat) : Bool :=
  match (s.thread m).wait with
  | some (.access a) => (match a.loc.space with
    | .sp t => !s.linkHeld (unitOf m) && !s.linkHeld t
    | _ => true)
  | _ => true

/-- Everything already sent to a wave's tiles is applied: increments, and remote accesses of other units (R392). What a link
holds is applied as it comes. -/
def State.applySent (s : State) (k : Nat) : State :=
  let s := (s.waveTiles k).foldl State.semFlush s
  ((s.sentTo k).filter s.wayOpen).foldl (fun s m => match (s.thread m).wait with
    | some (.access a) => s.settleAccess m a
    | _ => s) s

/-- Whether the link of a unit's die has failed: what it holds never moves again (25 R412). -/
def State.linkFailed (s : State) (unit : Nat) : Bool := unit < 160 && (s.links.get (dieOf unit - 1)).failed

/-- Whether something already sent to a wave's tiles is still to be applied: increments, remote accesses of other units; not
what a failed link holds (DESIGN CHOICE, log entry 98). -/
def State.sentOpen (s : State) (k : Nat) : Bool :=
  let failed := fun (from_ : Agent) (t : Nat) => s.linkFailed t || (match from_ with
    | .engine u _ => s.linkFailed u
    | .thread tid => s.linkFailed (unitOf tid)
    | .hub => false)
  (s.waveTiles k).any (fun t => (s.tile t).incs.any fun i => !failed i.who t)
    || (s.sentTo k).any fun m => (match (s.thread m).wait with
      | some (.access a) => (match a.loc.space with
        | .sp t => !failed (.thread m) t
        | _ => false)
      | _ => false)

/-- A wave begins its save: it takes a buffer, and issues nothing more but what its threads have been released from or have
issued already. -/
def State.beginSave (s : State) (k : Nat) : State :=
  let w := s.wave k
  match s.saveBuffer w.asid with
  | none => s
  | some b =>
    (s.takeBuffer w.asid).setWave k { w with
      state := .preempted, mode := .save, buffer := b, request := 0, chosenAt := s.cycle, halting := false }

/-- Stops a tile whose wave's state is discarded: nothing of it goes on. -/
def State.freezeTile (s : State) (t : Nat) : State :=
  let x := s.tile t
  s.setTile t { x with stopped := true, stoppedAt := if x.stopped then x.stoppedAt else s.cycle, stops := [] }

/-- A wave stops for good and its state is to be discarded, once what was sent to its tiles is applied (R392, R397). -/
def State.flushWave (s : State) (k : Nat) : State :=
  let s := (s.waveTiles k).foldl State.freezeTile s
  s.setWave k { s.wave k with state := .preempted, mode := .flush, request := 0 }

/-- Whether the choice of R394 for some waves together cannot be made yet: one of them would be saved if a buffer is free, and the
SPOOL word that says so is held on its way. -/
def State.choiceHeld (s : State) (ks : List Nat) : Bool :=
  (s.choices ks).any fun x => x.2 != .flush && !s.nearlyOver x.1 && s.spoolHeld (s.wave x.1).asid

/-- The report of a malformed entry that a read of the SPOOL ring on behalf of a wave meets (23 R401). -/
def State.tellSpool (s : State) (k : Nat) (c : PreemptChoice) : State :=
  let w := s.wave k
  let va := s.spoolVa w.asid
  if c = .flush ∨ s.nearlyOver k ∨ s.walk w.asid va ≠ .malformed then s
  else s.report (mkReport 2 w.asid 0 0 0 va k 0 0)

/-- Pre-empts one wave in a way. -/
def State.preemptOne (s : State) (k : Nat) (c : PreemptChoice) : State :=
  let s := s.tellSpool k c
  let s := s.setWave k { s.wave k with yielded := false }
  match c with
  | .flush => s.flushWave k
  | .save => if s.canSave k then s.beginSave k
             else s.setWave k { s.wave k with mode := .drain, request := 0, chosenAt := s.cycle }
  | .drain => s.setWave k { s.wave k with mode := .drain, request := 0, chosenAt := s.cycle }

/-- A wave that is only placed starts, as Table 1.8 has it run before it can be pre-empted; one whose groups cannot start yet
is asked to leave as soon as they have. -/
def State.startNow (s : State) (k : Nat) : State :=
  if (s.wave k).state = .placed then
    let s := s.startWave k
    if (s.wave k).state = .placed then s.setWave k { s.wave k with request := 1 } else s
  else s

/-- A pre-emption takes effect on a wave and on every member of its set that is placed or running (R392, R394). -/
def State.preempt (s : State) (k : Nat) : State :=
  let mates := (s.setMates k).filter fun j => (s.wave j).mode == .none
  let s := mates.foldl State.startNow s
  let mates := mates.filter fun j => (s.wave j).state == .running
  let s := mates.foldl State.applySent s
  (s.choices mates).foldl (fun s x => s.preemptOne x.1 x.2) s

/-- YIELD: a requested pre-emption stops the wave here (19 R352), also while the choice of how is still to be made. -/
def execYield (g : Guard) : State → Out :=
  coreInstr (.yield g) { guard := some g, transfer := true } fun c s =>
    match c.done s with
    | .next s =>
      let k := waveOf c.t.gid
      .next (if (s.wave k).request = 0 then s
        else if s.choiceHeld (s.setMates k) then s.setWave k { s.wave k with yielded := true } else s.preempt k)
    | o => o

/-- PREEMPT_DEADLINE: 190,000 cycles after the request, or once the wave stands at a YIELD, when the choice can be made. -/
def onPreemptDeadline (k : Nat) (s : State) : Option State :=
  let w := s.wave k
  if w.request = 0 ∨ (s.cycle + 1 < w.request + Config.deadline100us ∧ !w.yielded) ∨ w.state != .running
      ∨ s.choiceHeld (s.setMates k) then
    none
  else some (s.preempt k)
/-- PREEMPT_DEADLINE: it happens, or nothing does. -/
def execPreemptDeadline (k : Nat) (s : State) : Out := happens (onPreemptDeadline k) s

/-- DRAIN_DEADLINE: 190,000 cycles into a drain the groups that remain are saved, once there is a buffer (R395). -/
def onDrainDeadline (k : Nat) (s : State) : Option State :=
  let w := s.wave k
  if w.mode ≠ .drain ∨ w.state ≠ .running ∨ s.cycle < w.chosenAt + Config.deadline100us ∨ !s.canSave k then none
  else some ((s.applySent k).beginSave k)
/-- DRAIN_DEADLINE: it happens, or nothing does. -/
def execDrainDeadline (k : Nat) (s : State) : Out := happens (onDrainDeadline k) s

/-- Bytes of memory a unit's save holds: the scratchpad and easel of a tile, or a group's group memory; and its poisoned
blocks. -/
def State.unitBytes (s : State) (g : Group) : List (Nat × Byte) × List Nat :=
  let part := fun (lo hi off : Nat) =>
    ((s.mem.filter fun c => decide (lo ≤ c.1) && decide (c.1 < hi)).map fun c => (c.1 - lo + off, c.2),
     (s.poison.filter fun b => decide (lo ≤ b.1 * 128) && decide (b.1 * 128 < hi)).map fun b => b.1 * 128 - lo + off)
  if g.unit < 96 then
    let (lo, hi) := scratchKeys g.unit
    let e := (⟨.easel g.unit, 0⟩ : Loc).key
    let a := part lo hi 0
    let b := part e (e + 2 ^ 21) (2 ^ 25)
    (a.1 ++ b.1, a.2 ++ b.2)
  else
    let lo := (⟨.gm (g.unit - 96), g.gmOff⟩ : Loc).key
    part lo (lo + g.gmSize) 0

/-- A command in a save: an access parked on a page or a walk, or held on its way, is withdrawn, and is made again (R405). -/
def Command.withdrawn (c : Command) : Command := { c.atCursor with wait := none, refusal := none }

/-- An engine in a save. -/
def Engine.withdrawn (g : Engine) : Engine :=
  { g with
    strand := g.strand.map fun st => { st with wait := none, refusal := none }
    issued := g.issued.map (·.withdrawn), started := g.started.map (·.withdrawn) }

/-- A group in a save: a flush point, a step or a query its threads wait at executes again (R162, 19 R356, 21 R365). -/
def Group.withdrawn (g : Group) (ts : List Thread) : Group :=
  { g with
    flushes := if ts.any (·.live) then g.epoch else g.flushes
    steps := ts.foldl (fun m t => match t.govrdAt with
      | some (v, _) => if v = BitVec.allOnes 64 then m else m &&& ~~~(1#64 <<< v.toNat)
      | none => m) g.steps
    asked := if ts.any (·.live) then ts.foldl (fun n t => max n t.queries) 0 else g.asked
    atoms := g.atoms.map fun e => { e with wait := 0 } }

/-- The save of one group; a tile's with its cut record, whatever c.tcut says (R389). -/
def State.saveGroup (s : State) (gid : Nat) : SaveGroup :=
  let g := s.group gid
  let (bytes, poison) := s.unitBytes g
  let ts := (s.threads.filter fun p => p.2.gid == gid).map (·.2)
  let tile := s.tile g.unit
  { index := gid % 1024, unit := g.unit, group := g.withdrawn ts, threads := ts.map (·.kept (s.wave (waveOf gid)).chosenAt)
    tile := if g.unit < 96 then { tile with
      engines := tile.engines.map fun p => (p.1, p.2.withdrawn), incs := [], waits := [], remoteq := [] } else default
    bytes := bytes, poison := poison
    cut := if g.unit < 96 then s.cutRecord g.unit 0 0 0 else [] }

/-- `n` bytes the spec leaves open. -/
def State.freeBytes (s : State) (n : Nat) : List Byte :=
  ((List.range ((n + 7) / 8)).flatMap fun i => leBytes 8 (Config.freeWord (s.free + i)).toNat).take n

/-- Lines of a range of device memory that are not at rest in memory alone: the home records them, or messages are under
way. -/
def State.linesIn (s : State) (l : Loc) (n : Nat) : List Nat :=
  match l.space with
  | .hbm => ((s.home.map (·.1) ++ s.msgs.map (·.line) ++ held s).filter fun x =>
      decide (lineOf l.addr ≤ x) && decide (x * 128 < l.addr + n)).dedup
  | _ => []
where
  /-- Lines homes hold for a TENQ. -/
  held (s : State) : List Nat := (s.threads.filter (·.2.holds != 0)).map fun p => p.2.holds - 1

/-- Whether a write of a range by a hub agent is held on its way. -/
def State.rangeHeld (s : State) (who : Who) (l : Loc) (n : Nat) : Bool :=
  s.isFrozen l || (match l.space with
    | .hbm => (s.linesIn l n).any fun x => s.blocked who.unit ⟨.hbm, x * 128⟩
    | _ => s.blocked who.unit l)

/-- A hub agent writes bytes the spec leaves open over a range within one page: copies of its lines are recalled, the lines
are under the writer's key slot, and monitors on the range are triggered. -/
def State.fillFree (s : State) (who : Who) (l : Loc) (n : Nat) : State :=
  let s := (s.rekey who.asid l).rekey who.asid (l.plus (n - 1))
  let s := (s.linesIn l n).foldl (fun s x => (s.cohWrite who.unit x 2).invalidatePeers x who.writer) s
  let lines := (l.addr + n - 1) / 128 + 1 - lineOf l.addr
  let s := match l.space with
    | .hbm => { s with
        lineSlot := s.lineSlot.splice (lineOf l.addr) (List.replicate lines (s.keySlotOf who.asid))
        lineKey := s.lineKey.splice (lineOf l.addr) (List.replicate lines (s.keyOf who.asid)) }
    | .peer p => (List.range lines).foldl (fun s i => s.dropPeer (peerKey p l.addr + i)) s
    | _ => s
  { s with mem := SMap.splice s.mem l.key (s.freeBytes n), free := s.free + (n + 7) / 8 }.trigger l n

/-- The admission of a range a hub agent writes, line by line, where record mode watches one (21 R374); a line whose gate does not
let it through is written all the same, for the gate knows no state of a save (DESIGN CHOICE, log entry 105). -/
def State.admitRange (s : State) (unit : Nat) (l : Loc) (n : Nat) : State :=
  if s.records.isEmpty then s
  else (List.range ((l.addr + n - 1) / 128 + 1 - lineOf l.addr)).foldl (fun s i =>
    (s.admitAgent unit ⟨l.space, (lineOf l.addr + i) * 128⟩).getD s) s

/-- The parts of a save buffer, page by page, each with its place; a part that cannot be written has none. -/
def State.imageParts (s : State) (asid va : Nat) : Nat → Nat → List (Loc × Nat)
  | 0, _ => []
  | pages + 1, left =>
    let n := min left (2 ^ 16 - va % 2 ^ 16)
    let rest := s.imageParts asid (va + n) pages (left - n)
    match s.hubPlace (hubFor asid) needW va 1 with
    | .at l => if n = 0 then rest else (l, n) :: rest
    | _ => rest

/-- The addresses of the parts of a save buffer that meet a malformed entry. -/
def State.imageBad (s : State) (asid va : Nat) : Nat → Nat → List Nat
  | 0, _ => []
  | pages + 1, left =>
    let n := min left (2 ^ 16 - va % 2 ^ 16)
    let rest := s.imageBad asid (va + n) pages (left - n)
    match s.hubPlace (hubFor asid) needW va 1 with
    | .malformed => if n = 0 then rest else va :: rest
    | _ => if va < Config.ownAlias ∧ n ≠ 0 ∧ s.walk asid va = .malformed then va :: rest else rest

/-- The parts a wave's save writes. -/
def State.savedParts (s : State) (k : Nat) : List (Loc × Nat) :=
  s.imageParts (s.wave k).asid (s.wave k).buffer (s.saveSize k / 2 ^ 16 + 2) (s.saveSize k)

/-- The save's bytes go to its buffer. Table 23.7 states their number and not what stands where, so each is a value left open
(DESIGN CHOICE, log entry 88); a part of the buffer that cannot be written keeps its bytes. -/
def State.writeImage (s : State) (asid : Nat) (parts : List (Loc × Nat)) : State :=
  parts.foldl (fun s p => (s.admitRange (hubFor asid).unit p.1 p.2).fillFree (hubFor asid) p.1 p.2) s

/-- Whether a port command that a test picks is still to complete on an engine of a tile. -/
def Tile.portsOf (t : Tile) (mine : PortSource → Bool) : Bool :=
  t.engines.any fun e => e.2.portq.any (fun p => mine p.src) || (e.2.started ++ e.2.issued).any fun c => c.port.any mine

/-- Whether a port command of a wave's threads is still to complete on some engine, or on one of a tile that another wave's save
holds (09 R207). -/
def State.portsOut (s : State) (k : Nat) : Bool :=
  let ms := s.waveThreads k
  let mine := fun (p : PortSource) => ms.any fun m => (s.thread m).pushed p.push
  s.tiles.any (fun t => t.2.portsOf mine) || s.waves.any fun w => w.1 != k && w.2.saved.any fun g => g.tile.portsOf mine

/-- Whether a thread of a wave has still to complete an instruction it was released from or has issued (09 R162, 11 R219,
R237, R241); one that waits for a page is withdrawn instead, and a halted one does not go on. -/
def State.unfinished (s : State) (k : Nat) : Bool :=
  (s.waveThreads k).any fun m =>
    let t := s.thread m
    (t.granted || t.issued) && !t.halted && !(t.wait.any fun w => match w with
      | .page _ _ => true
      | _ => false)

/-- The members of a wave's set that are being saved together, itself first. -/
def State.savers (s : State) (k : Nat) : List Nat :=
  (k :: (s.wave k).set.filter (· != k)).filter fun j => (s.wave j).mode == .save && (s.wave j).state == .preempted

/-- Whether a wave's tiles may be stopped for its save: its threads have completed what they were in, the port commands of every
member of its set are complete, however long that takes (R207), and a stop that had begun is over, its trap taken (R386). -/
def State.mayHalt (s : State) (k : Nat) : Bool :=
  !s.unfinished k && !(s.savers k).any s.portsOut && (s.waveTiles k).all fun t => (s.tile t).stops.isEmpty

/-- Units of a wave's placed groups. -/
def State.waveUnits (s : State) (k : Nat) : List Nat :=
  (((s.gids k).filter fun g => (s.group g).placed).map fun g => (s.group g).unit).dedup

/-- Whether an L1 of a wave's units still holds lines; and whether one of its write-back buffers does. -/
def State.l1Full (s : State) (k : Nat) : Bool × Bool :=
  let mine := s.l1.filter fun p => (s.waveUnits k).contains (p.1 / 2 ^ 45)
  (mine.any (·.2.st != .i), mine.any (·.2.wb))

/-- Whether everything a wave has begun is over and everything sent to it is applied, so that its state may be written: its
tiles have stopped, its accesses are performed, its PEER invalidations included (R162, R392, 05 R104). -/
def State.saveQuiet (s : State) (k : Nat) : Bool :=
  !(s.wave k).closing && (s.sent k).isEmpty && !s.waveOwes k && !s.unfinished k && !s.sentOpen k
    && (s.waveTiles k).all fun t => (s.tile t).stops.isEmpty && !s.incsOut t

/-- The end of a save: the state is written to the buffer, and the wave is Ready again (R396, R398). A close's wait for a page is
withdrawn with it, and made again. -/
def State.finishSave (s : State) (k : Nat) : State :=
  let w := s.wave k
  let groups := ((s.gids k).filter fun g => (s.group g).placed).map s.saveGroup
  let s := (s.imageBad w.asid w.buffer (s.saveSize k / 2 ^ 16 + 2) (s.saveSize k)).foldl (fun s va =>
    s.report (mkReport 2 w.asid 1 0 0 va k 0 0)) s
  let s := s.writeImage w.asid (s.savedParts k)
  let s := (s.report (mkReport 5 w.asid 0 0 0 w.buffer k 0 0)).vacate k
  (s.setWave k { s.wave k with
    mode := .none, saved := groups, halting := false, closeWait := 0, ask := none, answered := [], lost := [] }).enterReady k

/-- The end of a flush: the state is discarded, and the wave is Ready again (R397). -/
def State.finishFlush (s : State) (k : Nat) : State :=
  let s := s.vacate k
  (s.setWave k { s.wave k with
    mode := .none, done := false, wdone := false, closing := false, closeWait := 0, ask := none, answered := []
    lost := [] }).enterReady k

/-- SAVE_COMPLETE: the next part of a save or flush that can be done. A save stops the wave's tiles once its port commands are
complete, then, when all is over, empties its L1s (R396), and when their write-backs have arrived writes its state. A flush
ends once what was sent to its tiles is applied (R392). -/
def onSaveComplete (k : Nat) (s : State) : Option State :=
  let w := s.wave k
  if w.state ≠ .preempted then none
  else match w.mode with
    | .none | .drain => none
    | .flush => if s.sentOpen k then none else some (s.finishFlush k)
    | .save =>
      if !w.halting then
        if !s.mayHalt k then none
        else
          let s := (s.waveTiles k).foldl (fun s t => s.stopTile t .save) s
          some (s.setWave k { s.wave k with halting := true })
      else if !s.saveQuiet k then none
      else match s.l1Full k with
        | (true, _) => some ((s.waveUnits k).foldl State.dropL1 s)
        | (_, true) => none
        | _ => if (s.savedParts k).any fun p => s.rangeHeld (hubFor w.asid) p.1 p.2 then none
               else some (s.finishSave k)
/-- SAVE_COMPLETE: it happens, or nothing does. -/
def execSaveComplete (k : Nat) (s : State) : Out := happens (onSaveComplete k) s

end Sys2Proof.Machine
end

