-- ==== Sys2Proof/Machine/Matrix.lean ====
section
/-! DEFINITION. The matrix commands of the hoop queues (15 R303-R313, 03 R66-R73): the three stages of checks at issue, the
checks at the start, and WLD, MMA, MMW, ACRD and ACZ, one weight position or one row a piece of work. -/

namespace Sys2Proof.Machine

/-! ## Template fields (Table 15.8) -/

/-- AW. -/
def Command.aw (c : Command) : Nat := c.fld 224 32
/-- BW. -/
def Command.bw (c : Command) : Nat := c.fld 192 32
/-- DW. -/
def Command.dw (c : Command) : Nat := c.fld 160 32
/-- KEXT. -/
def Command.kext (c : Command) : Nat := c.fld 144 16
/-- MROWS. -/
def Command.mrows (c : Command) : Nat := c.fld 128 16
/-- HID. -/
def Command.hid (c : Command) : Nat := c.fld 112 16
/-- N. -/
def Command.ncols (c : Command) : Nat := c.fld 103 9 + 1
/-- AROW. -/
def Command.arow (c : Command) : Nat := c.fld 91 12
/-- AK. -/
def Command.ak (c : Command) : Nat := c.fld 89 2
/-- BK. -/
def Command.bk (c : Command) : Nat := c.fld 87 2
/-- TA. -/
def Command.ta (c : Command) : Bool := c.fld 86 1 == 1
/-- TB. -/
def Command.tb (c : Command) : Bool := c.fld 85 1 == 1
/-- OVW. -/
def Command.ovw (c : Command) : Bool := c.fld 84 1 == 1
/-- CAP. -/
def Command.cap (c : Command) : Bool := c.fld 83 1 == 1
/-- CLR. -/
def Command.clr (c : Command) : Bool := c.fld 82 1 == 1
/-- RM of a hoop template. -/
def Command.hrm (c : Command) : Nat := c.fld 79 3
/-- SAT of a hoop template. -/
def Command.hsat (c : Command) : Nat := c.fld 77 2
/-- AMX. -/
def Command.amx (c : Command) : Bool := c.fld 76 1 == 1
/-- BMX. -/
def Command.bmx (c : Command) : Bool := c.fld 75 1 == 1
/-- PBL. -/
def Command.pbl (c : Command) : Nat := c.fld 73 2
/-- IACC. -/
def Command.iacc (c : Command) : Bool := c.fld 72 1 == 1

/-- Layout of a scratchpad operand word. -/
def Command.hlay (c : Command) (w : Nat) : Layout := c.lay (w / 2 ^ 28 % 16)
/-- Start of a scratchpad operand. -/
def Command.hstart (c : Command) (w : Nat) : Nat := (c.hlay w).base + w % 2 ^ 28

/-! ## Formats and pairs (Table 15.11) -/

/-- The rate p of a pair, none where the table does not list it. Picot-8 is never MX. -/
def pairRate (a : Nat) (amx : Bool) (b : Nat) (bmx : Bool) : Option Nat :=
  let fp8 := fun f => f == 3 || f == 4
  if b = 13 then
    if bmx then none
    else if a = 2 ∧ !amx then some 1
    else if amx ∧ fp8 a then some 2
    else if amx ∧ a = 5 then some 4
    else none
  else if (a = 1 ∨ a = 2) ∧ a = b ∧ !amx ∧ !bmx then some 1
  else if fp8 a ∧ fp8 b then some 2
  else if a = 7 ∧ b = 7 ∧ amx = bmx then some 2
  else if a = 5 ∧ b = 5 ∧ amx ∧ bmx then some 4
  else none

/-- The rate an A format fixes (R306); none for a format that the table does not list. -/
def aRate (a : Nat) : Option Nat :=
  if a = 5 then some 4 else if a = 1 ∨ a = 2 then some 1 else if a = 3 ∨ a = 4 ∨ a = 7 then some 2 else none
/-- The largest rate a weight format allows (R308). -/
def maxRate (b : Nat) : Option Nat := if b = 13 then some 4 else aRate b
/-- Whether an extent lies within the pass capacity of a rate (R307). -/
def inPass (hr : Nat) (p : Option Nat) (kext : Nat) : Bool := p.all fun p => decide (kext ≤ hr * p)

/-- An A format with its AMX flag that some pair lists. -/
def aFmtOk (f : Nat) (amx : Bool) : Bool :=
  if amx then [3, 4, 5, 7].contains f else [1, 2, 3, 4, 7].contains f
/-- A B format with its BMX flag that some pair lists. -/
def bFmtOk (f : Nat) (bmx : Bool) : Bool :=
  if bmx then [3, 4, 5, 7].contains f else [1, 2, 3, 4, 7, 13].contains f

/-! ## The checks at issue (R306) -/

/-- Why a hoop command is refused at issue. -/
inductive HoopRefusal where
  | illegal
  | hoop (hid : Nat)
deriving DecidableEq, Repr

/-- Rows and columns of the window's outputs, from WIN and the image's layout: the numbers of R311. -/
structure Window where
  kh : Nat
  kw : Nat
  s : Nat
  dil : Nat
  pad : Nat
  ph : Nat
  pw : Nat
  y0 : Nat
  y1 : Int
  x0 : Nat
  x1 : Int
  oh : Nat
  ow : Nat
deriving Repr

/-- The window of an MMW. -/
def Command.window (c : Command) : Window :=
  let w := c.dw
  let l := c.hlay c.aw
  let kh := bitsOf w 13 3 + 1
  let kw := bitsOf w 10 3 + 1
  let s := bitsOf w 9 1 + 1
  let dil := 2 ^ bitsOf w 7 2
  let ph := (kh - 1) * dil / 2
  let pw := (kw - 1) * dil / 2
  let y0 := if bitOf w 4 then 0 else ph
  let y1 : Int := if bitOf w 3 then (l.z : Nat) else (l.z : Int) - ph
  let x0 := if bitOf w 2 then 0 else pw
  let x1 : Int := if bitOf w 1 then (l.y : Nat) else (l.y : Int) - pw
  ⟨kh, kw, s, dil, bitsOf w 5 2, ph, pw, y0, y1, x0, x1, ((y1 - y0).toNat + s - 1) / s, ((x1 - x0).toNat + s - 1) / s⟩

/-- Whether MMW's window word and extents are accepted. -/
def windowOk (c : Command) : Bool :=
  let w := c.dw
  let v := c.window
  let l := c.hlay c.aw
  decide (w < 2 ^ 16) && decide (c.bw < 2 ^ 24) && !bitOf w 0 && decide (v.kh ≤ 7) && decide (v.kw ≤ 7)
    && bitsOf w 7 2 != 3 && v.pad != 3 && c.kext == v.kh * v.kw * l.x
    && decide ((v.y0 : Int) < v.y1) && decide ((v.x0 : Int) < v.x1) && decide (c.bw + c.mrows ≤ v.oh * v.ow)
    && !(v.pad == 2 && (decide (v.ph ≥ l.z) || decide (v.pw ≥ l.y)))

/-- A scratchpad A operand's own checks. -/
def spAOk (c : Command) : Bool :=
  let l := c.hlay c.aw
  decide (l.bpm < 7) && aFmtOk l.fmt c.amx && !(c.ta && c.amx) && decide ((if c.ta then c.mrows else c.kext) ≤ l.x)
    && (!c.amx || l.x % 32 == 0)

/-- Block length of a Picot-8 operand by PBL. -/
def Command.pblock (c : Command) : Nat := 8 * 2 ^ c.pbl

/-- A scratchpad B operand's own checks. -/
def spBOk (c : Command) : Bool :=
  let l := c.hlay c.bw
  let scaled := c.bmx || l.fmt == 13
  decide (l.bpm < 7) && bFmtOk l.fmt c.bmx && !(c.tb && scaled) && decide ((if c.tb then c.ncols else c.kext) ≤ l.x)
    && (!scaled || l.x % (if l.fmt = 13 then c.pblock else 32) == 0)

/-- An easel operand word's reserved bits. -/
def easelWordOk (w : Nat) : Bool := bitsOf w 16 10 == 0

/-- A's format as far as the template fixes it: an easel operand's stands in its record, read at the start. -/
def Command.afmt (c : Command) : Option Nat := if c.ak = 1 then some (c.hlay c.aw).fmt else none
/-- B's format as far as the template fixes it. -/
def Command.bfmt (c : Command) : Option Nat := if c.bk = 1 then some (c.hlay c.bw).fmt else none

/-- The format in the record an easel operand word names; none in a free one. -/
def State.easelFmt (s : State) (tile w : Nat) : Option Nat :=
  let r := (s.tile tile).easel.get (bitsOf w 26 6)
  if recLen r = 0 then none else some (recFmt r)

/-- A's format as it stands at issue: its layout's, or its easel record's. -/
def State.afmtAt (s : State) (tile : Nat) (c : Command) : Option Nat := if c.ak = 2 then s.easelFmt tile c.aw else c.afmt

/-- B's format as it stands at issue. -/
def State.bfmtAt (s : State) (tile : Nat) (c : Command) : Option Nat := if c.bk = 2 then s.easelFmt tile c.bw else c.bfmt

/-- Formats ACRD writes (R312). -/
def acrdFmts : List Nat := [0, 1, 2, 3, 4, 7, 8, 9, 11, 12]

/-- Stage 1: what needs no hoop; `a` and `b` are the operands' formats, an easel operand's that of its record. KEXT 0, outside
Table 15.8's range, is refused for the commands that use it (the table names no fate; DESIGN CHOICE, log entry 113). -/
def hoopStage1 (a b : Option Nat) (c : Command) : Bool :=
  let zero := fun (l : List Nat) => l.all (· == 0)
  let flag := fun (b : Bool) => if b then 1 else 0
  c.fld 64 8 == 0 && !(c.ta && a == some 13) && !(c.tb && b == some 13) &&
  match imgOpc c.image with
  | 0x01 =>
    c.ak == 0 && (c.bk == 1 || c.bk == 2) && c.kext != 0
      && zero [c.aw, c.dw, c.mrows, c.arow, flag c.ta, flag c.ovw, flag c.cap, flag c.clr, c.hrm, c.hsat, flag c.amx, flag c.iacc]
      && (if c.bk = 1 then spBOk c else easelWordOk c.bw && !(c.tb && c.bmx))
  | 0x02 =>
    (c.ak == 1 || c.ak == 2) && decide (c.bk < 3) && c.kext != 0 && zero [flag c.clr, c.hrm, c.hsat]
      && (c.cap || c.dw == 0) && (!c.cap || (c.ak == 1 && !c.ta && easelWordOk c.dw))
      && (if c.ak = 1 then spAOk c else easelWordOk c.aw && !(c.ta && c.amx))
      && (match c.bk with
        | 0 => c.bw == 0
        | 1 => spBOk c
        | _ => easelWordOk c.bw && !(c.tb && c.bmx))
      && (match a with
        | some a => c.iacc == (a == 7 && !c.amx)
        | none => !(c.iacc && c.amx))
      && (match c.afmt, c.bfmt with
        | some a, some b => (pairRate a c.amx b c.bmx).isSome
        | _, _ => true)
  | 0x03 =>
    c.ak == 1 && c.bk == 0 && c.kext != 0
      && zero [flag c.ta, flag c.tb, flag c.cap, flag c.clr, c.hrm, c.hsat, flag c.amx, flag c.bmx, c.pbl]
      && decide ((c.hlay c.aw).bpm < 7) && aFmtOk (c.hlay c.aw).fmt false
      && c.iacc == ((c.hlay c.aw).fmt == 7) && windowOk c
  | 0x04 =>
    let l := c.hlay c.dw
    c.ak == 0 && c.bk == 0 && decide (c.hrm ≤ 4)
      && zero [c.aw, c.bw, c.kext, flag c.ta, flag c.tb, flag c.ovw, flag c.cap, flag c.amx, flag c.bmx, c.pbl]
      && decide (l.bpm < 7) && acrdFmts.contains l.fmt && decide (c.ncols ≤ l.x)
      && !(c.hsat == 3 && (intOf l.fmt).isSome)
  | 0x05 =>
    c.ak == 0 && c.bk == 0
      && zero [c.aw, c.bw, c.dw, c.kext, flag c.ta, flag c.tb, flag c.ovw, flag c.cap, flag c.clr, c.hrm, c.hsat, flag c.amx,
               flag c.bmx, c.pbl]
  | _ => false

/-- Stage 3: what needs the hoop's shape; `a` and `b` are the operands' formats. -/
def hoopStage3 (h : Hoop) (a b : Option Nat) (c : Command) : Bool :=
  let (hr, hc) := shapeDims h.shape
  decide (c.ncols ≤ hc) && decide (c.arow + c.mrows ≤ shapeRows h.shape) &&
  match imgOpc c.image with
  | 0x01 => inPass hr (b.bind maxRate) c.kext
  | 0x02 => c.bk != 0 || inPass hr (a.bind aRate) c.kext
  | 0x03 => inPass hr (a.bind aRate) c.kext
  | _ => true

/-- The first refusal of a hoop command at issue on queue q, if any. An easel operand's format is its record's at the issue;
a record changed before the start, or one whose format no pair lists, is met by R303 (DEDUCED, log entry 39). -/
def hoopCheck (s : State) (tile e : Nat) (c : Command) : Option HoopRefusal :=
  let h := s.hoop tile (e - 1)
  if !hoopStage1 (s.afmtAt tile c) (s.bfmtAt tile c) c then some .illegal
  else if !h.present || h.ident (e - 1) != c.hid then some (.hoop c.hid)
  else if !hoopStage3 h (s.afmtAt tile c) (s.bfmtAt tile c) c then some .illegal
  else none

/-! ## Easel operands (R303) -/

/-- An easel operand: its record number, the record read at the start, its first row. -/
structure EaselOp where
  num : Nat
  r : BitVec 64
  row0 : Nat
deriving Repr

/-- Bytes of `k` elements of a format from the start of a row. -/
def rowBytes (fmt k : Nat) : Nat := if fmt = 13 then (k + 7) / 8 * 2 else (k * fmtBits fmt + 7) / 8
/-- Block length of a record's scales. -/
def EaselOp.blen (o : EaselOp) : Nat := match recBlk o.r with | 1 => 32 | 2 => 8 | 3 => 16 | 4 => 32 | _ => 64
/-- Bytes of a scale. -/
def EaselOp.sb (o : EaselOp) : Nat := if recBlk o.r = 1 then 1 else 2
/-- SRB: bytes of a row's scales. -/
def EaselOp.srb (o : EaselOp) : Nat :=
  let row := recRb o.r * 16
  let kr := if recFmt o.r = 13 then row * 4 else row * 8 / fmtBits (recFmt o.r)
  (((kr + o.blen - 1) / o.blen) * o.sb + 15) / 16 * 16
/-- Easel address of element k of operand row m: of its byte, or of the index that holds it. -/
def EaselOp.elem (o : EaselOp) (m k : Nat) : Nat :=
  recBase o.r * 256 + (o.row0 + m) * recRb o.r * 16
    + (if recFmt o.r = 13 then k / 8 * 2 else k * fmtBits (recFmt o.r) / 8)
/-- Easel address of scale b of operand row m. -/
def EaselOp.scale (o : EaselOp) (m b : Nat) : Nat :=
  recBase o.r * 256 + recSofs o.r * 256 + (o.row0 + m) * o.srb + b * o.sb

/-- The operand of an easel word at the start of a command of queue q: R303's checks for `rows` rows of `k` elements;
`ok` judges FMT and BLK. -/
def State.easelOperand (s : State) (tile q w rows k : Nat) (ok : Nat → Nat → Bool) : Eng EaselOp :=
  let n := bitsOf w 26 6
  let r := (s.tile tile).easel.get n
  let o : EaselOp := ⟨n, r, w % 2 ^ 16⟩
  let last := (o.row0 + rows - 1) * recRb r * 16 + rowBytes (recFmt r) k
  let lastScale := recSofs r * 256 + (o.row0 + rows - 1) * o.srb + ((k + o.blen - 1) / o.blen) * o.sb
  if recLen r = 0 ∨ (r.getLsbD 15 ∧ bitsOf r.toNat 16 2 ≠ q) ∨ !ok (recFmt r) (recBlk r) then .fault causeEasel n
  else if rows = 0 ∨ k = 0 then .ok o
  else if recBlk r ≠ 0 ∧ (last > recSofs r * 256 ∨ lastScale > recLen r * 256) then .fault causeEasel n
  else if last > recLen r * 256 then .fault causeEasel n
  else .ok o

/-- The easel operand of a started command, by its key: 0 A, 1 B, 2 capture. -/
def Command.easelOp (c : Command) (key w : Nat) : EaselOp := ⟨bitsOf w 26 6, c.easels.get key, w % 2 ^ 16⟩

/-- Reads an easel element's bits. -/
def State.easelElem (s : State) (tile : Nat) (o : EaselOp) (m k : Nat) : Nat :=
  let bits := fmtBits (recFmt o.r)
  if bits = 4 then
    let v := s.numAt ⟨.easel tile, o.elem m k⟩ 1
    if k % 2 = 0 then v % 16 else v / 16
  else s.numAt ⟨.easel tile, o.elem m k⟩ (bits / 8)

/-- Reads an easel scale. -/
def State.easelScale (s : State) (tile : Nat) (o : EaselOp) (m b : Nat) : Nat :=
  s.numAt ⟨.easel tile, o.scale m b⟩ o.sb

/-! ## The start of a command (R303, R309, R310) -/

/-- The hoop a command of engine e runs on. -/
def State.hoopOf (s : State) (tile e : Nat) : Hoop := s.hoop tile (e - 1)

/-- Whether a record's FMT and BLK suit an easel A: scales as AMX says, a format some pair lists, IACC as it fixes, an extent
that fits one pass where it must, and where B's format is known, one that pairs. -/
def easelAOk (h : Hoop) (c : Command) (f blk : Nat) : Bool :=
  aFmtOk f c.amx && (c.bk != 0 || inPass (shapeDims h.shape).1 (aRate f) c.kext) && blk == (if c.amx then 1 else 0) && c.iacc == (f == 7 && !c.amx)
    && (match c.bfmt with | some b => (pairRate f c.amx b c.bmx).isSome | none => true)

/-- Whether a record's FMT and BLK suit an easel B beside A's format `a` (none for WLD, whose extent must then fit). -/
def easelBOk (h : Hoop) (c : Command) (a : Option Nat) (f blk : Nat) : Bool :=
  bFmtOk f c.bmx && (if f = 13 then decide (2 ≤ blk) && decide (blk ≤ 5) else blk == (if c.bmx then 1 else 0))
    && !(c.tb && f == 13)
    && (match a with
      | some a => (pairRate a c.amx f c.bmx).isSome
      | none => inPass (shapeDims h.shape).1 (maxRate f) c.kext)

/-- A's format of a started command. -/
def Command.afmtNow (c : Command) : Nat := match c.afmt with | some f => f | none => recFmt (c.easels.get 0)
/-- B's format. -/
def Command.bfmtNow (c : Command) : Nat := match c.bfmt with | some f => f | none => recFmt (c.easels.get 1)
/-- B's scale kind: 0 none, 1 MX, 2-5 Picot-8 with blocks of 8 to 64. -/
def Command.bblk (c : Command) : Nat :=
  if c.bk = 2 then recBlk (c.easels.get 1) else if c.bmx then 1 else if c.bfmtNow = 13 then c.pbl + 2 else 0

/-- Whether a record is free for a command: the control core is at an EREL of it that began before the command was issued
(R301). -/
def State.recordGone (s : State) (tile n id : Nat) : Bool :=
  match (s.thread (controlTid tile)).erel with
  | some (m, users) => m == n && !users.contains id
  | none => false

/-- Reads an easel operand when it is used, and keeps its record. -/
def keepRecord (s : State) (tile e : Nat) (use : Bool) (key w rows k : Nat) (ok : Nat → Nat → Bool) (c : Command) :
    Eng Command :=
  if use && s.recordGone tile (bitsOf w 26 6) (commandId e c) then .fault causeEasel (bitsOf w 26 6)
  else if use then (s.easelOperand tile (e - 1) w rows k ok).andThen fun o => .ok { c with easels := c.easels.set key o.r }
  else .ok c

/-- The start of WLD: its easel operand, one row a column; the weight state is gone from now on. -/
def wldStart (s : State) (tile e : Nat) (c : Command) : Eng (State × Command) :=
  let h := s.hoopOf tile e
  (keepRecord s tile e (c.bk == 2) 1 c.bw c.ncols c.kext (easelBOk h c none) c).andThen fun c =>
    .ok (s.setHoop tile (e - 1) { h with loaded := false, weights := [], scales := [] }, c)

/-- The start of MMA and MMW: easel operands, then the weight state of a BK = 0 command. -/
def mmaStart (s : State) (tile e : Nat) (c : Command) : Eng (State × Command) :=
  let h := s.hoopOf tile e
  (keepRecord s tile e (c.ak == 2) 0 c.aw c.mrows c.kext (easelAOk h c) c).andThen fun c =>
  (keepRecord s tile e (c.bk == 2) 1 c.bw (if c.mrows = 0 then 0 else c.ncols) c.kext (easelBOk h c (some c.afmtNow)) c).andThen
    fun c =>
  (keepRecord s tile e c.cap 2 c.dw c.mrows c.kext
      (fun f blk => f == c.afmtNow && blk == (if c.amx then 1 else 0)) c).andThen fun c =>
    if c.bk = 0 ∧ (!h.loaded ∨ c.kext > h.wk ∨ c.ncols > h.wn
        ∨ (pairRate c.afmtNow c.amx h.wfmt (h.wblk == 1)).isNone) then .fault causeHoop c.hid
    else .ok (s, c)

/-! ## Weights (R308) -/

/-- Raw bits of B's weight (k, n): an element, or the Picot-8 index that holds it. TB transposes a scratchpad operand only:
an easel's row is column n (R305). -/
def State.weightRaw (s : State) (tile : Nat) (c : Command) (k n : Nat) : Eng Nat :=
  if c.bk = 2 then .ok (s.easelElem tile (c.easelOp 1 c.bw) n k)
  else
    let l := c.hlay c.bw
    let i := if c.tb then k * l.x + n else n * l.x + k
    if l.fmt = 13 then
      let ix := l.index i
      let a := l.place (c.hstart c.bw) 2 32 (ix.1 / 8 * 8, ix.2)
      (s.spAt tile a 2).andThen fun p => s.engRead p a 2
    else s.spElem tile l (c.hstart c.bw) (fmtBits l.fmt) i

/-- Raw scale of the block that holds weight (k, n). -/
def State.weightScale (s : State) (tile : Nat) (c : Command) (k n : Nat) : Eng Nat :=
  if c.bk = 2 then
    let o := c.easelOp 1 c.bw
    .ok (s.easelScale tile o n (k / o.blen))
  else
    let l := c.hlay c.bw
    if l.fmt = 13 then s.scaleAt tile l (c.hstart c.bw) 2 c.pblock 2 (n * l.x + k)
    else s.scaleAt tile l (c.hstart c.bw) (fmtBits l.fmt) 32 1 (n * l.x + k)

/-- Work done piece by piece in one step: the pieces that can be done, in order, and how many. The first that cannot ends it, and
is met again, with its cause, at the cursor it stands at (01 R19, Table 15.13). -/
def goodPieces (step : Nat → State → Eng State) : List Nat → State → State × Nat
  | [], s => (s, 0)
  | i :: is, s => match step i s with
    | .ok t => let p := goodPieces step is t; (p.1, p.2 + 1)
    | _ => (s, 0)

/-- The same, when the first piece can be done; else what stops it. -/
def workPieces (step : Nat → State → Eng State) : List Nat → State → Eng (State × Nat)
  | [], s => .ok (s, 0)
  | i :: is, s => (step i s).andThen fun t => let p := goodPieces step is t; .ok (p.1, p.2 + 1)

/-- Loads the scales of the `b`-th eight K positions from k0 on: one of each column, at b * 384 + n. -/
def loadScaleRow (tile e : Nat) (c : Command) (k0 b : Nat) (s : State) : Eng State :=
  (Eng.collect (fun n => s.weightScale tile c (k0 + 8 * b) n) (List.range c.ncols)).andThen fun vs =>
    let h := s.hoopOf tile e
    .ok (s.setHoop tile (e - 1) { h with scales := SMap.setMany h.scales (b * 384) vs })

/-- Eights of K positions that have scales of their own. -/
def Command.scaleRows (c : Command) (k : Nat) : Nat := if c.bblk = 0 then 0 else (k + 7) / 8

/-- Loads the weights of the `i`-th K position from k0 on into position `i` of the stationary store. -/
def loadWeightRow (tile e : Nat) (c : Command) (k0 i : Nat) (s : State) : Eng State :=
  (Eng.collect (fun n => s.weightRaw tile c (k0 + i) n) (List.range c.ncols)).andThen fun vs =>
    let h := s.hoopOf tile e
    .ok (s.setHoop tile (e - 1) { h with weights := SMap.setMany h.weights (i * 384) vs })

/-- The numbers from `lo` up to `hi`. -/
def rangeFrom (lo hi : Nat) : List Nat := (List.range (hi - lo)).map (lo + ·)

/-- Sets the weight state after a load of `k` positions. -/
def setWeightState (s : State) (tile e : Nat) (c : Command) (k : Nat) : State :=
  s.setHoop tile (e - 1)
    { s.hoopOf tile e with loaded := true, wfmt := c.bfmtNow, wblk := c.bblk, wk := k, wn := c.ncols }

/-- WLD: scales first, then the elements, each in one piece, so that no aligned 8-byte unit is read in parts (R285); one that
meets a fault has loaded everything below the K position of the failing byte. The cursor counts K positions in either
phase. -/
def wldWork (s : State) (tile e : Nat) (c : Command) : Eng State :=
  if c.cursor2 = 0 then
    (workPieces (loadScaleRow tile e c 0) (rangeFrom (c.cursor / 8) (c.scaleRows c.kext)) s).andThen fun p =>
      .ok (p.1.setCommand tile e (if c.cursor / 8 + p.2 ≥ c.scaleRows c.kext then { c with cursor := 0, cursor2 := 1 }
        else { c with cursor := c.cursor + 8 * p.2 }))
  else if c.cursor < c.kext then
    (workPieces (loadWeightRow tile e c 0) (rangeFrom c.cursor c.kext) s).andThen fun p =>
      .ok (p.1.setCommand tile e { c with cursor := c.cursor + p.2 })
  else .ok ((setWeightState s tile e c c.kext).setCommand tile e { c with finished := true })

/-! ## The summation (03 R66-R72) -/

/-- rne32 of an exact sum, as a value. -/
def sum32 (x y : FVal) : FVal := decodeF fp32 (rne32 (addV 0 x y).1)
/-- rne32 of an exact product, as a value. -/
def prod32 (x y : FVal) : FVal := decodeF fp32 (rne32 (mulV x y).1)
/-- +0. -/
def zeroV : FVal := .fin false 0 0

/-- R68's two half sums of sixteen products. -/
def groupHalves (p : List FVal) : FVal × FVal :=
  let half := fun (l : List FVal) => (pairUp sum32 (pairUp sum32 (pairUp sum32 l))).headD zeroV
  (half (p.take 8), half (p.drop 8))

/-- The scaled sum of a group: its products, A's scale byte when A is MX, B's scale kind with the raw scales of the
group's two halves, and whether the second half lies wholly beyond the extent (R69, R70). -/
def groupSum (p : List FVal) (ea : Option Nat) (wblk s0 s1 : Nat) (pad : Bool) : FVal :=
  let (h0, h1) := groupHalves p
  let byA := fun (v : FVal) => match ea with | some x => scaleE8 x v | none => v
  let round := fun (v : FVal) => decodeF fp32 (rne32 v)
  match wblk with
  | 0 => round (byA (sum32 h0 h1))
  | 1 => round (scaleE8 s0 (byA (sum32 h0 h1)))
  | 2 =>
    let a := prod32 h0 (decodeF bf16 s0)
    let b := if pad then zeroV else prod32 h1 (decodeF bf16 s1)
    round (byA (sum32 a b))
  | _ => round (byA (prod32 (sum32 h0 h1) (decodeF bf16 s0)))

/-- An element of A as it enters the hoop: its raw bits, or a padded product. -/
abbrev AElem := Option Nat

/-- The value of a resident weight; INT8 counts in 2^-6 here, since plain INT8 sums as integers. -/
def weightValue (h : Hoop) (k n : Nat) : FVal :=
  let x := h.weights.get (k * 384 + n)
  if h.wfmt = 13 then picotValue x (k % 8) else mxElem h.wfmt x

/-- One column's new accumulator for a row: `a` holds the row's elements from position k0, `ea` its scale bytes by
block of 32 from k0. -/
def columnSum (h : Hoop) (fmt : Nat) (iacc : Bool) (a : List AElem) (ea : List Nat) (n acc : Nat) : Nat :=
  if iacc then
    (a.zipIdx.foldl (fun (r : Int) x => match x.1 with
      | some v => r + sextNat 8 v * sextNat 8 (h.weights.get (x.2 * 384 + n))
      | none => r) (acc : Int)) |> wrapInt 32
  else
    let groups := (a.length + 15) / 16
    (List.range groups).foldl (fun acc g =>
      let ps := (List.range 16).map fun i =>
        match a[16 * g + i]? with
        | some (some v) => (mulV (mxElem fmt v) (weightValue h (16 * g + i) n)).1
        | _ => zeroV
      let s0 := h.scales.get (2 * g * 384 + n)
      let s1 := h.scales.get ((2 * g + 1) * 384 + n)
      let sum := groupSum ps ea[g / 2]? h.wblk s0 s1 (decide (16 * g + 8 ≥ a.length))
      rne32 (addV 0 (decodeF fp32 acc) sum).1) acc

/-! ## MMA and MMW (R309-R311) -/

/-- A's element (m, k) of an MMA. TA transposes a scratchpad operand only: an easel's row is operand row m (R305). -/
def State.aElem (s : State) (tile : Nat) (c : Command) (m k : Nat) : Eng Nat :=
  if c.ak = 2 then .ok (s.easelElem tile (c.easelOp 0 c.aw) m k)
  else
    let l := c.hlay c.aw
    s.spElem tile l (c.hstart c.aw) (fmtBits l.fmt) (if c.ta then k * l.x + m else m * l.x + k)

/-- A's scale byte of the block that holds (m, k). -/
def State.aScale (s : State) (tile : Nat) (c : Command) (m k : Nat) : Eng Nat :=
  if c.ak = 2 then .ok (s.easelScale tile (c.easelOp 0 c.aw) m (k / 32))
  else
    let l := c.hlay c.aw
    s.scaleAt tile l (c.hstart c.aw) (fmtBits l.fmt) 32 1 (m * l.x + k)

/-- A coordinate of a pixel outside the image, moved by PAD; none for a product of +0. -/
def padCoord (pad : Nat) (v : Int) (size : Nat) : Option Int :=
  if 0 ≤ v ∧ v < size then some v
  else match pad with
    | 0 => none
    | 1 => some (min (max v 0) ((size : Int) - 1))
    | _ => some (if v < 0 then -v else 2 * (size : Int) - 2 - v)

/-- Element k of row m of an MMW's window operand. A mirrored pixel that still lies outside the image has no value in the
manual: it is free. -/
def State.windowElem (s : State) (tile : Nat) (c : Command) (m k : Nat) : Eng AElem :=
  let v := c.window
  let l := c.hlay c.aw
  let q := c.bw + m
  let dy := k / l.x / v.kw
  let dx := k / l.x % v.kw
  let y : Int := (v.y0 + q / v.ow * v.s + dy * v.dil : Nat) - v.ph
  let x : Int := (v.x0 + q % v.ow * v.s + dx * v.dil : Nat) - v.pw
  let bits := fmtBits l.fmt
  match padCoord v.pad y l.z, padCoord v.pad x l.y with
  | some y, some x =>
    if 0 ≤ y ∧ y < l.z ∧ 0 ≤ x ∧ x < l.y then
      (s.spElem tile l (c.hstart c.aw) bits ((y.toNat * l.y + x.toNat) * l.x + k % l.x)).andThen fun e => .ok (some e)
    else .ok (some ((Config.freeWord (s.free + m * c.kext + k)).toNat % 2 ^ bits))
  | _, _ => .ok none

/-- A row's elements for K positions [k0, k1). -/
def State.aRow (s : State) (tile : Nat) (c : Command) (m k0 k1 : Nat) : Eng (List AElem) :=
  let ks := (List.range (k1 - k0)).map (k0 + ·)
  if imgOpc c.image = 3 then Eng.collect (s.windowElem tile c m) ks
  else Eng.collect (fun k => (s.aElem tile c m k).andThen fun v => .ok (some v)) ks

/-- A row's scale bytes for K positions [k0, k1), by blocks of 32. -/
def State.aScales (s : State) (tile : Nat) (c : Command) (m k0 k1 : Nat) : Eng (List Nat) :=
  if c.amx then Eng.collect (fun b => s.aScale tile c m (k0 + 32 * b)) (List.range ((k1 - k0 + 31) / 32)) else .ok []

/-- Writes a captured element into the easel. -/
def State.easelPut (s : State) (tile : Nat) (o : EaselOp) (m k v : Nat) : State :=
  let l : Loc := ⟨.easel tile, o.elem m k⟩
  let bits := fmtBits (recFmt o.r)
  if bits = 4 then
    let old := s.numAt l 1
    s.setNum l 1 (if k % 2 = 1 then old % 16 + v % 16 * 16 else old / 16 * 16 + v % 16)
  else s.setNum l (bits / 8) v

/-- Captures a row's elements and scales (R310). -/
def captureRow (s : State) (tile : Nat) (c : Command) (m k0 : Nat) (a : List AElem) (ea : List Nat) : State :=
  if !c.cap then s
  else
    let o := c.easelOp 2 c.dw
    let s := a.zipIdx.foldl (fun s x => s.easelPut tile o m (k0 + x.2) (x.1.getD 0)) s
    ea.zipIdx.foldl (fun s x => s.setNum ⟨.easel tile, o.scale m (k0 / 32 + x.2)⟩ 1 x.1) s

/-- One row of a pass: every column's accumulator, and the capture. -/
def mmaRow (tile e : Nat) (c : Command) (k0 k1 : Nat) (fresh : Bool) (m : Nat) (s : State) : Eng State :=
  (s.aRow tile c m k0 k1).andThen fun a => (s.aScales tile c m k0 k1).andThen fun ea =>
    let h := s.hoopOf tile e
    let s := captureRow s tile c m k0 a ea
    .ok ((List.range c.ncols).foldl (fun s n =>
      let w := accWord h.shape h.pos tile (c.arow + m) n
      let acc := if fresh then 0 else (s.accAt w).toNat
      s.setAcc w (BitVec.ofNat 32 (columnSum h c.afmtNow c.iacc a ea n acc))) s)

/-- The rows of the next piece: one, or all that are left of a transposed A, whose rows share aligned 8-byte units (R285). -/
def Command.nextRows (c : Command) : List Nat :=
  if c.ta ∧ c.ak = 1 then (List.range (c.mrows - c.cursor)).map (c.cursor + ·) else [c.cursor]

/-- The pass capacity of an MMA that loads its weights. -/
def passSize (s : State) (tile e : Nat) (c : Command) : Nat :=
  (shapeDims (s.hoopOf tile e).shape).1 * (pairRate c.afmtNow c.amx c.bfmtNow c.bmx).getD 1

/-- One piece of MMA's or MMW's work: the old weights given up, a pass's weights, or a row. `cursor2` is twice the pass, plus one
when its weights are in place. -/
def mmaWork (s : State) (tile e : Nat) (c : Command) : Eng State :=
  let p := passSize s tile e c
  let j := c.cursor2 / 2
  let k0 := if c.bk = 0 then 0 else j * p
  let k1 := if c.bk = 0 then c.kext else min ((j + 1) * p) c.kext
  if c.mrows = 0 ∨ k0 ≥ c.kext then
    let s := if imgOpc c.image = 3 then { s with free := s.free + c.mrows * c.kext } else s
    .ok (s.setCommand tile e { c with finished := true })
  else if c.bk ≠ 0 ∧ c.cursor2 % 2 = 0 ∧ (s.hoopOf tile e).loaded then
    .ok (s.setHoop tile (e - 1) { s.hoopOf tile e with loaded := false, weights := [], scales := [] })
  else if c.bk ≠ 0 ∧ c.cursor2 % 2 = 0 then
    let scales := rangeFrom 0 (c.scaleRows (k1 - k0))
    let elems := rangeFrom 0 (k1 - k0)
    (scales.foldl (fun r b => r.andThen (loadScaleRow tile e c k0 b)) (Eng.ok s)).andThen fun s =>
      (elems.foldl (fun r i => r.andThen (loadWeightRow tile e c k0 i)) (Eng.ok s)).andThen fun s =>
        .ok ((setWeightState s tile e c (k1 - k0)).setCommand tile e { c with cursor2 := c.cursor2 + 1 })
  else if c.cursor < c.mrows then
    (workPieces (mmaRow tile e c k0 k1 (c.ovw && j == 0)) c.nextRows s).andThen fun p =>
      .ok (p.1.setCommand tile e { c with cursor := c.cursor + p.2 })
  else if c.bk ≠ 0 ∧ k1 < c.kext then .ok (s.setCommand tile e { c with cursor := 0, cursor2 := 2 * (j + 1) })
  else
    let s := if imgOpc c.image = 3 then { s with free := s.free + c.mrows * c.kext } else s
    .ok (s.setCommand tile e { c with finished := true })

/-! ## ACRD and ACZ (R312) -/

/-- An accumulator word converted for its destination, then saturated. -/
def acrdValue (c : Command) (fmt v : Nat) : Nat := convertSat (if c.iacc then 9 else 0) fmt c.hrm c.hsat v

/-- One row of ACRD. -/
def acrdWork (s : State) (tile e : Nat) (c : Command) : Eng State :=
  if c.cursor ≥ c.mrows then .ok (s.setCommand tile e { c with finished := true })
  else
    let h := s.hoopOf tile e
    let l := c.hlay c.dw
    let ws := (List.range c.ncols).map fun n => accWord h.shape h.pos tile (c.arow + c.cursor) n
    let cells := ws.zipIdx.map fun p =>
      (l.cell (c.hstart c.dw) (fmtBits l.fmt) (c.cursor * l.x + p.2), acrdValue c l.fmt (s.accAt p.1).toNat)
    (s.spPutAll tile cells).andThen fun s =>
      let s := if c.clr then ws.foldl (fun s w => s.setAcc w 0) s else s
      .ok (s.setCommand tile e { c with cursor := c.cursor + 1 })

/-- One row of ACZ. -/
def aczWork (s : State) (tile e : Nat) (c : Command) : Eng State :=
  if c.cursor ≥ c.mrows then .ok (s.setCommand tile e { c with finished := true })
  else
    let h := s.hoopOf tile e
    let s := (List.range c.ncols).foldl (fun s n => s.setAcc (accWord h.shape h.pos tile (c.arow + c.cursor) n) 0) s
    .ok (s.setCommand tile e { c with cursor := c.cursor + 1 })

/-! ## Footprints (21 R371) -/

/-- Addresses of a scratchpad operand of `rows` rows of `k` elements, with its scales. -/
def hoopCells (c : Command) (w rows k blk sb : Nat) : List (Nat × Nat) :=
  let l := c.hlay w
  let bits := if l.fmt = 13 then 2 else fmtBits l.fmt
  let elems := (List.range rows).flatMap fun r => (List.range k).map fun i =>
    (l.elem (c.hstart w) bits 32 (r * l.x + i), (bits + 7) / 8)
  let scales := if blk = 0 then [] else (List.range rows).flatMap fun r =>
    (List.range ((k + blk - 1) / blk)).map fun b => (l.scale (c.hstart w) bits (r * l.x + b * blk) (b * sb), sb)
  elems ++ scales

/-- The bytes an easel operand of `rows` rows of `k` elements takes, lowest and one past the highest, past every scratchpad
offset. -/
def EaselOp.span (o : EaselOp) (rows k : Nat) : Nat × Nat :=
  let last := rows - 1
  let elems := o.elem last 0 + rowBytes (recFmt o.r) k
  let scales := if recBlk o.r = 0 then 0 else o.scale last ((k + o.blen - 1) / o.blen)
  (2 ^ 32 + o.elem 0 0, 2 ^ 32 + max elems scales)

/-- The footprints of a hoop command: its scratchpad operands, and its easel operands (R316). -/
def hoopFoot (_ : State) (_ : Nat) (c : Command) : List (Nat × Nat × Bool) :=
  let add := fun (l : List (Nat × Nat)) (wr : Bool) =>
    if l.isEmpty then [] else [((footprintOf l).1, (footprintOf l).2, wr)]
  let a := if c.ak = 1 ∧ c.mrows ≠ 0 then
      (if imgOpc c.image = 3 then hoopCells c c.aw ((c.hlay c.aw).y * (c.hlay c.aw).z) (c.hlay c.aw).x 0 0
       else if c.ta then hoopCells c c.aw c.kext c.mrows 0 0
       else hoopCells c c.aw c.mrows c.kext (if c.amx then 32 else 0) 1) else []
  let b := if c.bk = 1 ∧ (imgOpc c.image = 1 ∨ c.mrows ≠ 0) then
      (if c.tb then hoopCells c c.bw c.kext c.ncols 0 0
       else hoopCells c c.bw c.ncols c.kext (if c.bmx then 32 else if (c.hlay c.bw).fmt = 13 then c.pblock else 0)
              (if c.bmx then 1 else 2)) else []
  let d := if imgOpc c.image = 4 then hoopCells c c.dw c.mrows c.ncols 0 0 else []
  let easel := fun (use : Bool) (key w rows k : Nat) (wr : Bool) =>
    if use && decide (rows ≠ 0) && decide (k ≠ 0) then
      let p := (c.easelOp key w).span rows k
      [(p.1, p.2, wr)]
    else []
  let op := imgOpc c.image
  add a false ++ add b false ++ add d true ++ easel (c.ak == 2) 0 c.aw c.mrows c.kext false
    ++ easel (c.bk == 2 && (op == 1 || decide (c.mrows ≠ 0))) 1 c.bw c.ncols c.kext false
    ++ easel c.cap 2 c.dw c.mrows c.kext true

/-! ## The opcodes -/

/-- WLD. -/
def opWld : EngOp := { cls := 1, opc := 0x01, start := wldStart, foot := hoopFoot, work := wldWork }
/-- WLD executed by its engine. -/
def execWld (s : State) : Out := opWld.exec s
/-- MMA. -/
def opMma : EngOp := { cls := 1, opc := 0x02, start := mmaStart, foot := hoopFoot, work := mmaWork }
/-- MMA executed by its engine. -/
def execMma (s : State) : Out := opMma.exec s
/-- MMW. -/
def opMmw : EngOp := { cls := 1, opc := 0x03, start := mmaStart, foot := hoopFoot, work := mmaWork }
/-- MMW executed by its engine. -/
def execMmw (s : State) : Out := opMmw.exec s
/-- ACRD. -/
def opAcrd : EngOp := { cls := 1, opc := 0x04, foot := hoopFoot, work := acrdWork }
/-- ACRD executed by its engine. -/
def execAcrd (s : State) : Out := opAcrd.exec s
/-- ACZ. -/
def opAcz : EngOp := { cls := 1, opc := 0x05, foot := hoopFoot, work := aczWork }
/-- ACZ executed by its engine. -/
def execAcz (s : State) : Out := opAcz.exec s

end Sys2Proof.Machine
end

