-- ==== Sys2Proof/Machine/Strands.lean ====
section
/-! DEFINITION. Strands and templates: layout registers (13 R266), FORK, RDV and TMLD (13 R245-R249), patch words with
their fields and loops (07 R142-R149, 13 R256-R258), issue with all its checks (07 R148), and port commands (13 R255). -/

namespace Sys2Proof.Machine

/-! ## Layout registers (R266) -/

/-- A layout-register instruction of the control core: `body` gets its tile. -/
def layoutForm (i : Instr) (g : Guard) (reads writes : List (BitVec 6)) (body : Cx → Nat → State → Out) : State → Out :=
  coreInstr i { guard := some g, kind := .control, reads := reads, writes := writes } fun c s => body c (tileOf c.tid) s

/-- Sets layout register l of a tile. -/
def State.setLayout (s : State) (tile : Nat) (l : BitVec 4) (v : BitVec 128) : State :=
  let t := s.tile tile
  s.setTile tile { t with layouts := t.layouts.set l.toNat v }

/-- Layout register l of a tile. -/
def State.layout (s : State) (tile : Nat) (l : BitVec 4) : BitVec 128 := (s.tile tile).layouts.get l.toNat

/-- LLD. -/
def execLld (g : Guard) (l : BitVec 4) (a b : BitVec 6) : State → Out :=
  layoutForm (.lld g l a b) g [a, b] [] fun c tile s => c.done (s.setLayout tile l (c.t.rd b ++ c.t.rd a))

/-- A bit field of a number replaced. -/
def putField (x lo w v : Nat) : Nat := x - bitsOf x lo w * 2 ^ lo + v * 2 ^ lo

/-- LSET. A field number no row of Table 13.7 has makes its word an illegal encoding (R266, 07 R123). -/
def execLset (g : Guard) (l : BitVec 4) (a f : BitVec 6) (s : State) : Out :=
  match layoutField f.toNat with
  | none => execIllegalInstructionEncoding (BitVec.ofNat 32 ((encode (.lset g l a f)).headD 0)) s
  | some (lo, w) => layoutForm (.lset g l a f) g [a] [] (fun c tile s =>
      if (c.t.rd a).toNat ≥ 2 ^ w then c.trap causeIllegal (c.t.rd a) s
      else c.done (s.setLayout tile l (BitVec.ofNat 128 (putField (s.layout tile l).toNat lo w (c.t.rd a).toNat)))) s

/-- LGET, with field numbers as LSET's. -/
def execLget (g : Guard) (d : BitVec 6) (l : BitVec 4) (f : BitVec 6) (s : State) : Out :=
  match layoutField f.toNat with
  | none => execIllegalInstructionEncoding (BitVec.ofNat 32 ((encode (.lget g d l f)).headD 0)) s
  | some (lo, w) => layoutForm (.lget g d l f) g [] [d] (fun c tile s =>
      c.write d (BitVec.ofNat 64 (bitsOf (s.layout tile l).toNat lo w)) s) s

/-- LMOV. -/
def execLmov (g : Guard) (l m : BitVec 4) : State → Out :=
  layoutForm (.lmov g l m) g [] [] fun c tile s => c.done (s.setLayout tile l (s.layout tile m))

/-! ## FORK, RDV, TMLD (R246-R249) -/

/-- FORK En, [ga]: a release, then the strand starts; it parks while the engine still runs one. -/
def execFork (g : Guard) (a : BitVec 6) (n : BitVec 4) : State → Out :=
  coreInstr (.fork g a n) { guard := some g, kind := .control, reads := [a], noHandler := true } fun c s =>
    let tile := tileOf c.tid
    let e := n.toNat
    if e = 0 ∨ e > 9 then c.trap causeIllegal (BitVec.ofNat 64 c.word) s
    else if (c.t.rd a).toNat % 4 ≠ 0 then c.trap causeMisaligned (c.t.rd a) s
    else if e ≤ 4 ∧ !(s.hoop tile (e - 1)).present then c.trap causeHoop 0 s
    else if (s.engine tile e).strand.isSome then c.park (.strand e) s
    else c.release true (fun s =>
      let eng := s.engine tile e
      let strand : Strand := { (default : Strand) with pc := c.t.rd a }
      c.done (s.setEngine tile e
        { eng with strand := some strand, after := (eng.after ++ (s.engine tile 0).after).dedup })) s

/-- FORK En: one token from E0, as a release. -/
def execForkToken (g : Guard) (n : BitVec 4) : State → Out :=
  coreInstr (.forkToken g n) { guard := some g, kind := .control, noHandler := true } fun c s =>
    let tile := tileOf c.tid
    let e := n.toNat
    if e = 0 ∨ e > 9 then c.trap causeIllegal (BitVec.ofNat 64 c.word) s
    else if (s.tile tile).tokenCount 0 e ≥ 15 then c.trap causeToken (BitVec.ofNat 64 e) s
    else c.release true (fun s =>
      c.done (s.setTile tile ((s.tile tile).pushToken 0 e (s.engine tile 0).after))) s

/-- RDV: a token from every engine of the mask, taken together. -/
def execRdv (g : Guard) (mask : BitVec 9) : State → Out :=
  coreInstr (.rdv g mask) { guard := some g, kind := .control, noHandler := true } fun c s =>
    let tile := tileOf c.tid
    let m := mask.toNat * 2
    if (s.tile tile).tokensReady m 0 then
      let (t, from_) := (s.tile tile).popTokens m 0
      let e0 := t.engine 0
      c.done (s.setTile tile (t.setEngine 0 { e0 with after := (e0.after ++ from_).dedup }))
    else c.park (.rdv m) s

/-- TMLD: waits for a running strand's SDONE, then reads the image, checked in the order of 09 R185. An engine number other than 1-9 makes its word an
illegal encoding. -/
def execTmld (g : Guard) (k a e : BitVec 6) (s : State) : Out :=
  let n := e.toNat
  if n = 0 ∨ n > 9 then execIllegalInstructionEncoding (BitVec.ofNat 32 ((encode (.tmld g k a e)).headD 0)) s
  else coreInstr (.tmld g k a e) { guard := some g, kind := .control, reads := [a], noHandler := true } (fun c s =>
    let tile := tileOf c.tid
    if (c.t.rd a).toNat < 2 ^ Config.vaBits ∧ (c.t.rd a).toNat % 32 ≠ 0 then c.trap causeMisaligned (c.t.rd a) s
    else if (s.engine tile n).strand.isSome then c.park (.strand n) s
    else c.readThen (c.t.rd a).toNat 32 (fun bs s =>
      let eng := s.engine tile n
      c.done (s.setEngine tile n
        { eng with templates := eng.templates.set k.toNat (BitVec.ofNat 256 (leNat bs)) })) s) s

/-! ## Fields of a template (R144, R145, Table 7.16) -/

/-- Position and width of a field selector in a template of a class; none where the class has no such field. -/
def patchField (cls fs : Nat) : Option (Nat × Nat) :=
  if fs < 16 then some (16 * fs, 16)
  else match fs with
    | 16 => some (54, 10)
    | 17 => some (44, 10)
    | 18 => some (38, 6)
    | 19 => some (12, 16)
    | 20 => some (28, 8)
    | 21 => some (36, 2)
    | 22 => some (0, 8)
    | 23 => if cls = 1 then some (128, 16) else if 2 ≤ cls ∧ cls ≤ 6 then some (96, 16) else none
    | 24 => if cls = 1 then some (144, 16) else if 2 ≤ cls ∧ cls ≤ 6 then some (112, 16) else none
    | 25 => if cls = 1 then some (160, 16) else if cls = 6 then some (70, 4)
            else if 2 ≤ cls ∧ cls ≤ 5 then some (64, 5) else none
    | _ => none

/-- A template with a field set; none where the field or the value is refused. -/
def amended (img : BitVec 256) (fs v : Nat) : Option (BitVec 256) :=
  match patchField (imgClass img) fs with
  | none => none
  | some (lo, w) => if v ≥ 2 ^ w then none else some (BitVec.ofNat 256 (putField img.toNat lo w v))

/-- A template with a signed value added to a field. -/
def added (img : BitVec 256) (fs : Nat) (v : BitVec 16) : Option (BitVec 256) :=
  match patchField (imgClass img) fs with
  | none => none
  | some (lo, w) =>
    some (BitVec.ofNat 256 (putField img.toNat lo w (wrapInt w ((bitsOf img.toNat lo w : Nat) + v.toInt))))

/-! ## Issue (R143, R148) -/

/-- The class of an engine. -/
def engineClass (e : Nat) : Nat := if e ≤ 4 then 1 else e - 3
/-- The highest opcode of a class (Table 7.18). -/
def lastOpcode (cls : Nat) : Nat := match cls with | 2 => 0x0D | 6 => 7 | _ => 5

/-- A refusal at issue: its cause, and its value where it is not the patch word. -/
abbrev IssueFault := Nat × Option Nat

/-- The checks of R148 that every class shares. -/
def frameOk (e : Nat) (img : BitVec 256) : Bool :=
  imgClass img == engineClass e && decide (1 ≤ imgOpc img) && decide (imgOpc img ≤ lastOpcode (imgClass img))
    && !bitOf (imgPop img) e && !bitOf (imgPush img) e

/-- The draw record of a command that reads one (13 R273). -/
def State.drawRecord (s : State) (tile : Nat) (c : Command) : Eng (BitVec 256) :=
  if readsDraw c then
    let a := (c.opLay (c.word 1)).elem (c.opStart (c.word 1)) 32 32 0
    if a % 32 ≠ 0 then .fault causeMisaligned a
    else (s.spAt tile a 32).andThen fun l => (s.engRead l a 32).andThen fun n => .ok (BitVec.ofNat 256 n)
  else .ok 0

/-- VXOP's checks of R330 steps 2 and 3: the slot's image, or the refusal. -/
def State.bindPattern (s : State) (tile : Nat) (c : Command) : Except IssueFault (List Byte) :=
  let slot := (s.group (s.tile tile).group.pred).patterns.get c.sub
  if !slot.valid then .error (causeMiss, some (0x500 + c.sub))
  else
    let n := patNsrc slot.image
    let w := patWidth slot.image
    let exact := (List.range 3).all fun i => (c.kinds.getD i 0 != 0) == decide (i < n)
    if exact ∧ fmtBits c.fmt = w ∧ fmtBits c.fmto = w then .ok slot.image else .error (causeIllegal, none)

/-- The checks of a command at issue, class by class: the command with what it binds at issue, or the first refusal. -/
def State.issueCheck (s : State) (tile e : Nat) (c : Command) : Except IssueFault Command :=
  if !frameOk e c.image then .error (causeIllegal, none)
  else match imgClass c.image with
    | 1 => match hoopCheck s tile e c with
      | none => .ok c
      | some .illegal => .error (causeIllegal, none)
      | some (.hoop id) => .error (causeHoop, some id)
    | 6 =>
      if !copyOk s tile c then .error (causeIllegal, none)
      else match copyMisaligned c with
        | some va => .error (causeMisaligned, some va)
        | none => .ok c
    | cls =>
      if !stripOk c e then .error (causeIllegal, none)
      else if cls = 2 ∧ imgOpc c.image = 0x0D then
        if !s.feature 3 then .error (causeIllegal, none)
        else match s.bindPattern tile c with
          | .ok img => .ok { c with pattern := img }
          | .error x => .error x
      else match s.drawRecord tile c with
        | .ok d => .ok { c with draw := d }
        | .fault cause val => .error (cause, some val)
        | _ => .error (causeIllegal, none)

/-- A command made from a template copy, numbered and with what it reads at issue. No FORK and no token leads to a port
command (21 R371): it is ordered only after what its hoop queue has started before it (15 R307). -/
def State.newCommand (s : State) (tile e : Nat) (img : BitVec 256) (rkey : Word) (port : Option PortSource) : Command :=
  let g := s.engine tile e
  { (default : Command) with
    seq := g.seq + 1, waited := s.cycle, image := img, rkey := rkey, lays := (s.tile tile).layouts, port := port
    after := if port.isSome then g.order else g.after }

/-- A command enters its engine: the counter advances, and a sixteenth waiting command stops the intake (13 R250, R251). -/
def State.enterCommand (s : State) (tile e : Nat) (c : Command) : State :=
  let g := s.engine tile e
  s.setEngine tile e { g with
    seq := c.seq, issued := g.issued ++ [c], full := decide (g.issued.length + 1 ≥ 16) }

/-! ## Patch words (R144-R149, 13 R256-R258) -/

/-- The address of word `pos` of stage j of a loop. -/
def StrandLoop.word (l : StrandLoop) (j pos : Nat) : Word :=
  l.addr + BitVec.ofNat 64 (4 + 4 * (j * (l.body / l.stages) + pos))

/-- The address after a loop's body. -/
def StrandLoop.out (l : StrandLoop) : Word := l.addr + BitVec.ofNat 64 (4 + 4 * l.body)

/-- Whether the slot the strand stands in is valid (R257). -/
def Strand.valid (st : Strand) : Bool :=
  match st.loop with
  | none => true
  | some l => decide (l.j ≤ l.t) && decide (l.t - l.j < l.trips)

/-- The strand at its next patch word. -/
def Strand.advance (st : Strand) : Strand :=
  match st.loop with
  | none => { st with pc := st.pc + 4 }
  | some l =>
    if l.pos + 1 < l.body / l.stages then { st with pc := l.word l.j (l.pos + 1), loop := some { l with pos := l.pos + 1 } }
    else if 0 < l.j then { st with pc := l.word (l.j - 1) 0, loop := some { l with j := l.j - 1, pos := 0 } }
    else if l.t + 1 < l.trips + l.stages - 1 then
      { st with pc := l.word (l.stages - 1) 0, loop := some { l with t := l.t + 1, j := l.stages - 1, pos := 0 } }
    else { st with pc := l.out, loop := none }

/-- The common course of a patch word: an engine whose sequencer fetches, and the strand it stands in. -/
def patchWord (body : Nat → Nat → Strand → State → Out) (s : State) : Out :=
  match s.cur with
  | .engine tile e =>
    let g := s.engine tile e
    match g.strand with
    | none => .fault .wrongUnit
    | some st =>
      if (s.tile tile).stopped || st.idling || g.full || st.wait.isSome then .next s else body tile e st s
  | _ => .fault .wrongUnit

/-- A patch word stops its engine at the entry boundary before it (R149); the value is the patch word unless given. -/
def refuseWord (i : Instr) (tile e : Nat) (f : IssueFault) (s : State) : Out :=
  .next (s.raiseEngine tile e (s.engine tile e).seq.toNat f.1 (f.2.getD ((encode i).headD 0)))

/-- The strand goes on to its next word. -/
def State.nextWord (s : State) (tile e : Nat) (st : Strand) : State :=
  s.setEngine tile e { s.engine tile e with strand := some st.advance }

/-- Sets a working copy. -/
def State.setTemplate (s : State) (tile e k : Nat) (img : BitVec 256) : State :=
  let g := s.engine tile e
  s.setEngine tile e { g with templates := g.templates.set k img }

/-- The working copy of a template. -/
def State.template (s : State) (tile e k : Nat) : BitVec 256 := (s.engine tile e).templates.get k

/-- A patch word that may amend (`edit`) and may issue: its own checks hold even in a slot that is not valid (13 R257). -/
def amendForm (i : Instr) (t : BitVec 6) (edit : BitVec 256 → Option (BitVec 256)) (issues : Bool) : State → Out :=
  patchWord fun tile e st s =>
    match edit (s.template tile e t.toNat) with
    | none => refuseWord i tile e (causeIllegal, none) s
    | some img =>
      if !st.valid then .next (s.nextWord tile e st)
      else if issues then
        match s.issueCheck tile e (s.newCommand tile e img (s.thread (controlTid tile)).rkey none) with
        | .error f => refuseWord i tile e f s
        | .ok c => .next (((s.setTemplate tile e t.toNat img).enterCommand tile e c).nextWord tile e st)
      else .next ((s.setTemplate tile e t.toNat img).nextWord tile e st)

/-- AMEND. -/
def execAmend (t : BitVec 6) (f : BitVec 5) (v : BitVec 16) : State → Out :=
  amendForm (.amend t f v) t (fun img => amended img f.toNat v.toNat) false
/-- ISSUE with a field. -/
def execIssueField (t : BitVec 6) (f : BitVec 5) (v : BitVec 16) : State → Out :=
  amendForm (.issueField t f v) t (fun img => amended img f.toNat v.toNat) true
/-- ISSUE. -/
def execIssue (t : BitVec 6) : State → Out := amendForm (.issue t) t some true
/-- ISSUE.add. -/
def execIssueAdd (t : BitVec 6) (f : BitVec 5) (v : BitVec 16) : State → Out :=
  amendForm (.issueAdd t f v) t (fun img => added img f.toNat v) true

/-- IDLE: the sequencer is held for v cycles, in a valid slot or not. -/
def execIdle (v : BitVec 16) : State → Out :=
  patchWord fun tile e st s =>
    .next (s.nextWord tile e { st with idling := true, idleUntil := s.cycle + v.toNat })

/-- IDLE_END: the count has expired. -/
def onIdleEnd (s : State) : Option State :=
  match s.cur with
  | .engine tile e =>
    let g := s.engine tile e
    match g.strand with
    | none => none
    | some st =>
      if !st.idling || (s.tile tile).stopped || decide (s.cycle < st.idleUntil) then none
      else some (s.setEngine tile e { g with strand := some { st with idling := false } })
  | _ => none
/-- IDLE_END: it happens, or nothing does. -/
def execIdleEnd (s : State) : Out := happens onIdleEnd s

/-- SLOOP: `st` is the stage count less one; no trips skip the body. -/
def execSloop (b : BitVec 6) (st : BitVec 3) (n : BitVec 13) : State → Out :=
  patchWord fun tile e sd s =>
    let stages := st.toNat + 1
    let l : StrandLoop := ⟨sd.pc, b.toNat, stages, n.toNat, 0, stages - 1, 0⟩
    if sd.loop.isSome ∨ b = 0 ∨ b.toNat % stages ≠ 0 then refuseWord (.sloop b st n) tile e (causeIllegal, none) s
    else
      let sd := if n = 0 then { sd with pc := l.out } else { sd with pc := l.word l.j 0, loop := some l }
      .next (s.setEngine tile e { s.engine tile e with strand := some sd })

/-- SDONE: the strand ends; the engine goes idle as its commands complete. Inside a loop body it is refused. -/
def execSdone : State → Out :=
  patchWord fun tile e st s =>
    if st.loop.isSome then refuseWord .sdone tile e (causeIllegal, none) s
    else .next (s.setEngine tile e { s.engine tile e with strand := none })

/-- SEQUENCER_RESUME: a place among the sixteen is free again (13 R251). -/
def onSequencerResume (s : State) : Option State :=
  match s.cur with
  | .engine tile e =>
    let g := s.engine tile e
    if g.full && decide (g.issued.length < 16) then some (s.setEngine tile e { g with full := false })
    else none
  | _ => none
/-- SEQUENCER_RESUME: it happens, or nothing does. -/
def execSequencerResume (s : State) : Out := happens onSequencerResume s

/-! ## Port commands (13 R254, R255) -/

/-- The override fields of a port command: class word and value, of those in use. -/
def portOverrides (w : BitVec 128) : List (Nat × Nat) :=
  let n := w.toNat
  [(bitsOf n 12 4, bitsOf n 32 32), (bitsOf n 16 4, bitsOf n 64 32), (bitsOf n 20 4, bitsOf n 96 32)].filter (·.1 != 0)

/-- Reserved bits, W fields and repeats. -/
def portWordOk (w : BitVec 128) : Bool :=
  let ws := (portOverrides w).map (·.1)
  bitsOf w.toNat 24 8 == 0 && bitsOf w.toNat 6 6 == 0 && ws.all (fun x => decide (x ≤ 6)) && ws.dedup.length == ws.length

/-- The template copy of a port command: overrides applied, POP and PUSH zero. -/
def portImage (img : BitVec 256) (w : BitVec 128) : BitVec 256 :=
  let x := (portOverrides w).foldl (fun x p => putField x (32 * p.1 + 32) 32 p.2) img.toNat
  BitVec.ofNat 256 (putField (putField x 54 10 0) 44 10 0)

/-- PORT_COMMAND_TAKE: the oldest port command becomes a command of the engine, or ends at once with its cause; either
way it takes a sequence number. -/
def onPortCommandTake (s : State) : Option State :=
  match s.cur with
  | .engine tile e =>
    let g := s.engine tile e
    match g.portq with
    | [] => none
    | p :: rest =>
      if (s.tile tile).stopped || g.full then none
      else
        let s := s.setEngine tile e { g with portq := rest }
        let c := s.newCommand tile e (portImage (g.templates.get (bitsOf p.word.toNat 0 6)) p.word) p.src.rkey (some p.src)
        let checked := if portWordOk p.word then s.issueCheck tile e c else .error (causeIllegal, none)
        match checked with
        | .ok c => some (s.enterCommand tile e c)
        | .error f =>
          let s := s.setEngine tile e { s.engine tile e with seq := c.seq }
          some (s.deliverResult p.src (resultElement 0 f.1 c.seq.toNat))
  | _ => none
/-- PORT_COMMAND_TAKE: it happens, or nothing does. -/
def execPortCommandTake (s : State) : Out := happens onPortCommandTake s

end Sys2Proof.Machine
end

