-- ==== Sys2Proof/Machine/Faults.lean ====
section
/-! DEFINITION. Stops and waits that go on too long (chapter 23): the completion of a tile's stop with its cut record (R387-
R390), the watchdog (R399), the service check of proof cores (01 R27), and what the driver does with a halted wave or a
refused node. -/

namespace Sys2Proof.Machine

/-! ## The cut record (R389) -/

/-- Whether a stop was brought by an engine's cause. -/
def StopKind.engineCause : StopKind → Bool
  | .trap e _ _ _ => decide (e ≥ 1)
  | _ => false

/-- The cause a stop records (R388): the lowest engine's, of its lowest sequence number. -/
def recordedStop : List StopKind → Option StopKind
  | [] => none
  | k :: ks =>
    match recordedStop ks, k with
    | some (.trap e q c v), .trap e' q' c' v' =>
      if [e', q'] < [e, q] then some (.trap e' q' c' v') else some (.trap e q c v)
    | some (.trap e q c v), _ => some (.trap e q c v)
    | _, k => some k

/-- What follows a stop once its record stands: the control core takes the trap of an engine's cause (R386), also while its wave is
being saved, so that the save finds it at its handler; a trap of its own, a HALT and a save have taken place already. -/
def State.afterStop (s : State) (tile : Nat) (k : StopKind) : State :=
  let tid := controlTid tile
  let t := s.thread tid
  match k with
  | .trap e _ cause val =>
    let w := s.wave (waveOf t.gid)
    if e = 0 ∨ t.halted ∨ !(w.state == .running || (w.state == .preempted && w.mode == .save)) then s
    else
    let s := s.withdrawArrival tid
    if t.prv then ((s.setThread tid t.settle).haltGroup t.gid).haltReport tid cause t.pc.toNat
    else s.setThread tid (t.enterTrap cause t.pc (BitVec.ofNat 64 val))
  | _ => s

/-- Whether a write of a tile's commands awaits PEER invalidations (05 R104). -/
def State.tileOwes (s : State) (tile : Nat) : Bool := s.peerInv.any fun v => match v.writer with
  | .command t _ _ => t == tile
  | _ => false

/-- Whether something of a tile's stop is still under way: increments and writes of its commands (R387 step 2), an access its
control core has sent, which comes before the instruction boundary the core stops at (09 R162, R192), the close of an epoch
its core waits for, or before a record, which is a release (R389), the core's own writes. -/
def State.stopping (s : State) (tile : Nat) : Bool :=
  let tid := controlTid tile
  let ct := s.thread tid
  (s.tile tile).cutWait != 0 || s.incsOut tile || s.tileOwes tile || (ct.wait.any (· matches .access _))
    || (s.wave (waveOf ct.gid)).closing || (ct.tcut.getLsbD 0 && s.owes tid)

/-- A command that has done its work and found a token queue full leaves its engine once its TOKEN_FAULT is the recorded cause
(13 R253); one whose cause is not recorded raises it again after TRET (R388). -/
def State.retireFull (s : State) (tile : Nat) (k : StopKind) : State :=
  match k with
  | .trap e seq cause _ =>
    if cause = causeToken ∧ 1 ≤ e ∧ ((s.engine tile e).command seq).any (·.finished) then
      let g := s.engine tile e
      let keep := fun (l : List Command) => l.filter fun c => c.seq.toNat != seq
      let s := s.setEngine tile e { g with started := keep g.started, issued := keep g.issued }
      s.setTile tile ((s.tile tile).markComplete e seq)
    else s
  | _ => s

/-- TILE_STOP_COMPLETE: once nothing of the stop is under way, the record is written when c.tcut.EN is set, a release that
sets no side-effect mark and is the control core's store like any other to a watched line or another package (21 R373, 25
R424), and the control core goes on to its handler. -/
def onTileStopComplete (tile : Nat) (s : State) : Option State :=
  let t := s.tile tile
  match recordedStop t.stops with
  | none => none
  | some k =>
    if s.stopping tile then none
    else
      let s := s.retireFull tile k
      let ct := s.thread (controlTid tile)
      let finish := fun (s : State) => (s.setTile tile { s.tile tile with stops := [], cutRefused := false, cutSince := 0 }).afterStop tile k
      if !ct.tcut.getLsbD 0 then some (finish s)
      else if t.cutRefused then some (s.cutFailed tile causePage)
      else
        let va := s.cutVa tile
        let who := s.tileWho tile
        let w := waveOf who.gid
        match s.cutPlace tile with
        | .absent level =>
          let (s, tag) := s.pageReport who.asid va level 1 w (unitWord tile)
          some (s.setTile tile { s.tile tile with cutWait := tag + 1 })
        | .malformed => some ((s.report (mkReport 2 who.asid 1 0 0 va w (unitWord tile) 0)).cutFailed tile causeAccess)
        | .fault c => some (s.cutFailed tile c)
        | .at l =>
          if l.space.foreign && !s.peerAnswered (.cut tile) l then
            if (s.tile tile).cutSince = 0 then some (s.setTile tile { s.tile tile with cutSince := s.cycle + 1 }) else none
          else if s.blocked who.unit l then none
          else (s.admitPlain who 0 va l).map fun p =>
            let bytes := match k with
              | .trap e q c _ => s.cutRecord tile c e q
              | _ => s.cutRecord tile 0 0 0
            let mark := (s.wave w).mark
            let s := (p.1.performWrite who l bytes (max 1 p.2)).dropAnswers (.cut tile)
            finish (s.setWave w { s.wave w with mark := mark })
/-- TILE_STOP_COMPLETE: it happens, or nothing does. -/
def execTileStopComplete (tile : Nat) (s : State) : Out := happens (onTileStopComplete tile) s

/-- The cut-record write that waited on a report, when the driver answers it (R405). -/
def State.answerCut (s : State) (tag : Nat) (refuse : Bool) : State :=
  { s with tiles := s.tiles.map fun p =>
      (p.1, if p.2.cutWait = tag + 1 then { p.2 with cutWait := 0, cutRefused := refuse } else p.2) }

/-! ## The watchdog (R399) -/

/-- Whether an issued command is held by one of its own start conditions: its tokens, its gate, or a place in the overlap
checker; an engine that has no room for it does not count. -/
def State.startBlocked (s : State) (tile e : Nat) (g : Engine) (c : Command) : Bool :=
  let t := s.tile tile
  decide (g.started.length < (if e ≤ 4 then 1 else 4)) &&
    ((!c.popped && !t.tokensReady (imgPop c.image) e)
      || (c.popped && imgGen c.image && !c.passed)
      || (s.det (controlTid tile) && decide (((t.footprints.map fun f => (f.engine, f.seq)).dedup).length ≥ 256)
          && t.footprints.all (!·.complete)))

/-- Whether a started command is a producer stalled on a full stream; one that waits for an older command to be done with the
stream is not (R399). -/
def Command.streamStalled (c : Command) (g : Engine) (e : Nat) : Bool :=
  let older := ((g.started.takeWhile fun d => d.seq != c.seq).filter (!·.finished)).flatMap Command.streamKeys
  !c.finished && c.wait.isNone && c.streamKeys.any fun x =>
    decide (x ≥ 10) && !older.contains x && decide (g.used.get ((x - 10) * 4 + inputOf e (x - 10)) ≥ 8)

/-- The command of an engine whose wait has lasted as long as its wave allows. -/
def State.expired (s : State) (tile e limit : Nat) : Option Command :=
  let g := s.engine tile e
  let old := fun (c : Command) => decide (s.cycle ≥ c.waited + limit)
  match g.issued with
  | c :: _ => if s.startBlocked tile e g c && old c then some c
              else g.started.find? fun c => c.streamStalled g e && old c
  | [] => g.started.find? fun c => c.streamStalled g e && old c

/-- Cycles a wait may last: 2^WDOG of the wave's address space. -/
def State.watchLimit (s : State) (asid : Nat) : Nat := 2 ^ (s.asidEntry asid).wdog.toNat

/-- WATCHDOG_EXPIRY: a thread raises it at its waiting instruction with value 0; an engine's wait stops the tile with the
engine number, or ends a port command. -/
def onWatchdogExpiry (unit : Agent) (s : State) : Option State :=
  match unit with
  | .thread tid =>
    let t := s.thread tid
    let w := s.waveOfThread tid
    if s.mayIssue tid && w.state == .running && !w.closing && t.wait.any Wait.counts && decide (t.waited ≠ 0)
        && decide (s.cycle + 1 ≥ t.waited + s.watchLimit w.asid) then
      some ((s.withdrawArrival tid).trap tid causeWatchdog t.pc 0)
    else none
  | .engine tile e =>
    let who := s.tileWho tile
    if (s.tile tile).stopped || (s.wave (waveOf who.gid)).state != .running || e = 0 || decide (e > 9) then none
    else match s.expired tile e (s.watchLimit who.asid) with
      | none => none
      | some c => some (s.failCommand tile e { c with waited := s.cycle } causeWatchdog e)
  | .hub => none
/-- WATCHDOG_EXPIRY: it happens, or nothing does. -/
def execWatchdogExpiry (unit : Agent) (s : State) : Out := happens (onWatchdogExpiry unit) s

/-! ## Service of proof cores (01 R24, R27) -/

/-- Whether an address no longer leads to the line of a place: it is translated anew (23 R407). -/
def State.ledAway (s : State) (who : Who) (va : Nat) (l : Loc) : Bool :=
  decide (va < Config.ownAlias) && (match s.tlbLookup who.unit who.asid va with
    | some (level, e) => match leafPlace s level e va with
      | .at m => !(m.space == l.space && lineOf m.addr == lineOf l.addr)
      | _ => true
    | none => true)

/-- Whether what held an access of a maker on the way to a place no longer does. -/
def State.lineOpen (s : State) (who : Who) (slot va : Nat) (l : Loc) (write : Bool) : Bool :=
  s.ledAway who va l || (if write then !s.writeHeld who l && (s.admitPlain who slot va l).isSome
    else !s.readHeld who l && (s.admitPlain who slot va l).isSome)

/-- Whether what a parked thread waits for may have come, so that it re-enters the table at its own PC (01 R28). Waits that
an event ends are not among these. -/
def State.mayWake (s : State) (tid : Nat) : Bool :=
  let t := s.thread tid
  match t.wait with
  | none => true
  | some .mwait => t.mon.triggered || !t.mon.armed
  | some (.enqp p) => decide ((t.ports.get p).length < portDepth)
  | some (.deqp p) => (t.ports.get p).head?.all (·.done)
  | some (.pattern k _) =>
    let unit := unitOf tid
    !s.slotBound unit k && (decide (unit < 96) || ((s.group t.gid).patterns.get k).valid
      || decide ((s.storeEntries unit).length < 64))
  | some (.spawn _) => decide (s.waves.length < 4096)
  | some .exit => t.portsDone && (!isControl tid || s.tileIdle (tileOf tid))
  | some (.rdv m) => (s.tile (tileOf tid)).tokensReady m 0
  | some (.strand e) => (s.engine (tileOf tid) e).strand.isNone
  | some .erel => !t.erel.any fun r => r.2.any (s.commandLive (tileOf tid))
  | some (.line l va write) => s.lineOpen (s.who tid) (slotOf tid) va l write
  | some .hoops => true
  | some _ => t.granted

/-- A thread in the PC table of its core: live, not stopped, of a running wave, and not parked. While its wave is being saved it
completes what it has been released from or has issued, and nothing else (09 R162, 11 R219, R237, R241); at a YIELD whose
pre-emption is still to be chosen it stands (19 R352). -/
def State.runnable (s : State) (tid : Nat) : Bool :=
  let w := s.waveOfThread tid
  let t := s.thread tid
  s.mayIssue tid && s.mayWake tid
    && ((w.state == .running && !w.yielded) || (w.state == .preempted && w.mode == .save && (t.granted || t.issued)))

/-- The PC-table key of a thread (R24). -/
def State.pcKey (s : State) (tid : Nat) : List Nat :=
  [(s.thread tid).pc.toNat, (s.group (s.thread tid).gid).age, tid % 1024]

/-- The runnable thread of a core with the longest wait, ties to the smaller key. -/
def State.longestWait (s : State) (core : Nat) : Option Nat :=
  leastBy (fun a b => decide ((s.thread a).since :: s.pcKey a < (s.thread b).since :: s.pcKey b))
    ((s.coreThreads core).filter s.runnable)

/-- SERVICE_CHECK: the next gang is formed from the thread that has waited longest, when that is 256 cycles or more. -/
def onServiceCheck (core : Nat) (s : State) : Option State :=
  match s.longestWait core with
  | none => none
  | some m =>
    if s.cycle < (s.thread m).since + 256 ∨ (s.core core).serve ≠ 0 then none
    else some (s.setCore core { s.core core with serve := m + 1 })
/-- SERVICE_CHECK: it happens, or nothing does. -/
def execServiceCheck (core : Nat) (s : State) : Out := happens (onServiceCheck core) s

/-! ## Halted waves and refused nodes (09 R183, 19 R339) -/

/-- A halted thread goes on: its wait does not count the cycles of the stop. -/
def Thread.resumed (t : Thread) (now : Nat) : Thread :=
  { t with halted := false, haltedAt := 0, waited := if t.waited = 0 then 0 else t.waited + (now - t.haltedAt), since := now }

/-- HALTED_WAVE_RESUME_OR_DISCARD: a resumed unit continues at its PC, and a tile outside its handler restarts its engines;
a discarded wave leaves its units and the pool. -/
def onHaltedWaveResumeOrDiscard (wave : Nat) (resume : Bool) (s : State) : Option State :=
  let ms := (s.waveThreads wave).filter fun m => (s.thread m).halted
  let tiles := s.waveTiles wave
  if ms = [] ∨ tiles.any (fun t => decide (t < 96) && !(s.tile t).stops.isEmpty) then none
  else if resume then
    let s := ms.foldl (fun s m => s.setThread m ((s.thread m).resumed s.cycle)) s
    some ((ms.filter isControl).foldl (fun s m =>
      if (s.thread m).prv then s else s.setTile (tileOf m) ((s.tile (tileOf m)).restart s.cycle)) s)
  else
    let w := s.wave wave
    let s := if w.buffer = 0 then s else s.report (mkReport 6 w.asid 0 0 0 w.buffer wave 0 0)
    some ((s.vacate wave).setWave wave default).releasePending
/-- HALTED_WAVE_RESUME_OR_DISCARD: it happens, or nothing does. -/
def execHaltedWaveResumeOrDiscard (wave : Nat) (resume : Bool) (s : State) : Out := happens (onHaltedWaveResumeOrDiscard wave resume) s

/-- NODE_DISCARD: a refused node leaves the pool, and its ID no longer names a node. -/
def onNodeDiscard (wave : Nat) (s : State) : Option State :=
  if (s.wave wave).refused then some ((s.setWave wave default).releasePending) else none
/-- NODE_DISCARD: it happens, or nothing does. -/
def execNodeDiscard (wave : Nat) (s : State) : Out := happens (onNodeDiscard wave) s

end Sys2Proof.Machine
end

