-- ==== Sys2Proof/Machine/FloatOps.lean ====
section
/-! DEFINITION. The core float instructions and FCVT (09 R170-R178). -/

namespace Sys2Proof.Machine

/-- Prefixes the arithmetic instructions accept: RM, SAT and FTZ (07 Table 7.6). -/
def acceptArith : Accept := ⟨true, true, true, true, false, false, false⟩
/-- Prefixes the transcendental instructions accept: RM 0b111, SAT and FTZ. -/
def acceptTrans : Accept := ⟨false, true, true, true, false, false, false⟩
/-- Prefixes FCVT to an integer accepts: RM and FTZ, SAT none, signed or unsigned. -/
def acceptToInt : Accept := ⟨true, true, false, true, false, false, false⟩

/-- Low bits of a register as an operand of a format (R160). -/
def Thread.fv (t : Thread) (f : FloatFmt) (r : BitVec 6) : Nat := (t.rd r).toNat % 2 ^ f.width

/-- A float instruction writing gd a rounded result. -/
def fpu (i : Instr) (g : Guard) (f : BitVec 2) (d : BitVec 6) (rs : List (BitVec 6)) (acc : Accept)
    (op : Thread → FloatFmt → FRes) : State → Out :=
  coreInstr i { guard := some g, reads := rs, writes := [d], accept := acc } fun c s =>
    c.writeFloat (minFmt f.toNat) d (op c.t (minFmt f.toNat)) s

/-- An arithmetic instruction on two operands. -/
def fpu2 (i : Instr) (g : Guard) (f : BitVec 2) (d a b : BitVec 6)
    (op : FloatFmt → Nat → Bool → Nat → Nat → FRes) : State → Out :=
  fpu i g f d [a, b] acceptArith fun t m => op m t.rm t.ftz (t.fv m a) (t.fv m b)

/-- An arithmetic instruction on one operand. -/
def fpu1 (i : Instr) (g : Guard) (f : BitVec 2) (d a : BitVec 6) (acc : Accept)
    (op : FloatFmt → Nat → Bool → Nat → FRes) : State → Out :=
  fpu i g f d [a] acc fun t m => op m t.rm t.ftz (t.fv m a)

/-- FADD (R171). -/
def execFadd (g : Guard) (f : BitVec 2) (d a b : BitVec 6) : State → Out := fpu2 (.fadd g f d a b) g f d a b addF
/-- FSUB. -/
def execFsub (g : Guard) (f : BitVec 2) (d a b : BitVec 6) : State → Out := fpu2 (.fsub g f d a b) g f d a b subF
/-- FMUL. -/
def execFmul (g : Guard) (f : BitVec 2) (d a b : BitVec 6) : State → Out := fpu2 (.fmul g f d a b) g f d a b mulF
/-- FDIV. -/
def execFdiv (g : Guard) (f : BitVec 2) (d a b : BitVec 6) : State → Out := fpu2 (.fdiv g f d a b) g f d a b divF
/-- FFMA: ga * gb + gd, rounded once. -/
def execFfma (g : Guard) (f : BitVec 2) (d a b : BitVec 6) : State → Out :=
  fpu (.ffma g f d a b) g f d [a, b, d] acceptArith fun t m =>
    fmaF m t.rm t.ftz (t.fv m a) (t.fv m b) (t.fv m d)
/-- FSQRT. -/
def execFsqrt (g : Guard) (f : BitVec 2) (d a : BitVec 6) : State → Out := fpu1 (.fsqrt g f d a) g f d a acceptArith sqrtF
/-- FRND. -/
def execFrnd (g : Guard) (f : BitVec 2) (d a : BitVec 6) : State → Out := fpu1 (.frnd g f d a) g f d a acceptArith rndF
/-- FMIN (R172): no arithmetic prefix. -/
def execFmin (g : Guard) (f : BitVec 2) (d a b : BitVec 6) : State → Out :=
  fpu (.fmin g f d a b) g f d [a, b] ⟨false, false, false, false, false, false, false⟩ fun t m =>
    minMaxF m t.ftz false (t.fv m a) (t.fv m b)
/-- FMAX. -/
def execFmax (g : Guard) (f : BitVec 2) (d a b : BitVec 6) : State → Out :=
  fpu (.fmax g f d a b) g f d [a, b] ⟨false, false, false, false, false, false, false⟩ fun t m =>
    minMaxF m t.ftz true (t.fv m a) (t.fv m b)
/-- FABS: clears the sign bit, raises nothing (R173). -/
def execFabs (g : Guard) (f : BitVec 2) (d a : BitVec 6) : State → Out :=
  fpu1 (.fabs g f d a) g f d a ⟨false, false, false, false, false, false, false⟩ fun m _ _ x =>
    ⟨x % 2 ^ (m.width - 1), 0⟩
/-- FNEG: inverts the sign bit. -/
def execFneg (g : Guard) (f : BitVec 2) (d a : BitVec 6) : State → Out :=
  fpu1 (.fneg g f d a) g f d a ⟨false, false, false, false, false, false, false⟩ fun m _ _ x =>
    ⟨x ^^^ 2 ^ (m.width - 1), 0⟩
/-- FCLASS (Table 9.4). -/
def execFclass (g : Guard) (f : BitVec 2) (d a : BitVec 6) : State → Out :=
  fpu1 (.fclass g f d a) g f d a ⟨false, false, false, false, false, false, false⟩ fun m _ _ x => ⟨classF m x, 0⟩
/-- FCMP: qd gets the condition of Table 7.9, flags by R174. -/
def execFcmp (g : Guard) (f : BitVec 2) (c p : BitVec 3) (a b : BitVec 6) : State → Out :=
  coreInstr (.fcmp g f c p a b) { guard := some g, reads := [a, b] } fun x s =>
    let m := minFmt f.toNat
    let r := cmpF m x.t.ftz c.toNat (x.t.fv m a) (x.t.fv m b)
    x.done (x.upd (fun t => (t.setPred p r.1).raise r.2) s)
/-- FRCP (R175). -/
def execFrcp (g : Guard) (f : BitVec 2) (d a : BitVec 6) : State → Out :=
  fpu1 (.frcp g f d a) g f d a acceptTrans fun m _ z x => specialF .rcp m z x
/-- FRSQ. -/
def execFrsq (g : Guard) (f : BitVec 2) (d a : BitVec 6) : State → Out :=
  fpu1 (.frsq g f d a) g f d a acceptTrans fun m _ z x => specialF .rsq m z x
/-- FEXP2. -/
def execFexp2 (g : Guard) (f : BitVec 2) (d a : BitVec 6) : State → Out :=
  fpu1 (.fexp2 g f d a) g f d a acceptTrans fun m _ z x => specialF .exp2 m z x
/-- FLOG2. -/
def execFlog2 (g : Guard) (f : BitVec 2) (d a : BitVec 6) : State → Out :=
  fpu1 (.flog2 g f d a) g f d a acceptTrans fun m _ z x => specialF .log2 m z x
/-- FSIN (R176). -/
def execFsin (g : Guard) (f : BitVec 2) (d a : BitVec 6) : State → Out :=
  fpu1 (.fsin g f d a) g f d a acceptTrans fun m r z x => trigF m r z false x
/-- FCOS. -/
def execFcos (g : Guard) (f : BitVec 2) (d a : BitVec 6) : State → Out :=
  fpu1 (.fcos g f d a) g f d a acceptTrans fun m r z x => trigF m r z true x

/-- The register value of a converted operand: signed integers sign-extended, the rest zero-extended (R178). -/
def cvtValue (dst bits : Nat) : Word :=
  match intOf dst with
  | some (n, true) => BitVec.ofInt 64 (sextNat n bits)
  | _ => BitVec.ofNat 64 bits

/-- FCVT (R178). -/
def execFcvt (g : Guard) (d a : BitVec 6) (src dst : BitVec 4) : State → Out :=
  coreInstr (.fcvt g d a src dst)
    { guard := some g, reads := [a], writes := [d]
      accept := if (floatOf dst.toNat).isSome then acceptArith else acceptToInt } fun c s =>
    let r := convert src.toNat dst.toNat c.t.rm c.t.satKind c.t.ftz (c.t.rd a).toNat
    c.done (c.upd (fun t => (t.wr d (cvtValue dst.toNat r.bits)).raise r.fl) s)

end Sys2Proof.Machine
end

