-- ==== Sys2Proof/Machine/Integer.lean ====
section
/-! DEFINITION. Integer and address arithmetic, compares, predicates, bit fields and moves (09 R163-R169). -/

namespace Sys2Proof.Machine

/-- Prefixes ADD, ADDI, SUB, MUL, MAD and ABS accept (07 Table 7.6): SAT none, signed or unsigned. -/
def acceptSat : Accept := ⟨false, true, false, false, false, false, false⟩

/-- An instruction that writes gd a function of its thread's registers. -/
def alu (i : Instr) (g : Guard) (d : BitVec 6) (rs : List (BitVec 6)) (f : Thread → Word) : State → Out :=
  coreInstr i { guard := some g, reads := rs, writes := [d] } fun c s => c.write d (f c.t) s

/-- As `alu`, accepting a saturation prefix; the exact result is given with the operands read signed and unsigned. -/
def aluSat (i : Instr) (g : Option Guard) (d : BitVec 6) (rs : List (BitVec 6)) (f : Thread → Int × Int) : State → Out :=
  coreInstr i { guard := g, reads := rs, writes := [d], accept := acceptSat } fun c s =>
    c.write d (satResult c.t.satKind (f c.t).1 (f c.t).2) s

/-- Signed value of a register. -/
def Thread.sv (t : Thread) (r : BitVec 6) : Int := (t.rd r).toInt
/-- Unsigned value of a register. -/
def Thread.uv (t : Thread) (r : BitVec 6) : Nat := (t.rd r).toNat

/-- ADD (R163, R164). -/
def execAdd (g : Guard) (d a b : BitVec 6) : State → Out :=
  aluSat (.add g d a b) (some g) d [a, b] fun t => (t.sv a + t.sv b, (t.uv a : Int) + t.uv b)
/-- SUB. -/
def execSub (g : Guard) (d a b : BitVec 6) : State → Out :=
  aluSat (.sub g d a b) (some g) d [a, b] fun t => (t.sv a - t.sv b, (t.uv a : Int) - t.uv b)
/-- MUL: low 64 bits. -/
def execMul (g : Guard) (d a b : BitVec 6) : State → Out :=
  aluSat (.mul g d a b) (some g) d [a, b] fun t => (t.sv a * t.sv b, (t.uv a : Int) * t.uv b)
/-- MAD: ga * gb + gd. -/
def execMad (g : Guard) (d a b : BitVec 6) : State → Out :=
  aluSat (.mad g d a b) (some g) d [a, b, d] fun t =>
    (t.sv a * t.sv b + t.sv d, (t.uv a : Int) * t.uv b + t.uv d)
/-- MULH: bits [127:64] of the signed product. -/
def execMulh (g : Guard) (d a b : BitVec 6) : State → Out :=
  alu (.mulh g d a b) g d [a, b] fun t => BitVec.ofInt 64 ((t.sv a * t.sv b) / 2 ^ 64)
/-- MULHU. -/
def execMulhu (g : Guard) (d a b : BitVec 6) : State → Out :=
  alu (.mulhu g d a b) g d [a, b] fun t => BitVec.ofNat 64 (t.uv a * t.uv b / 2 ^ 64)

/-- Signed quotient (03 Table 3.3). -/
def divSigned (a b : Word) : Word := if b = 0 then BitVec.allOnes 64 else BitVec.ofInt 64 (Int.tdiv a.toInt b.toInt)
/-- Unsigned quotient. -/
def divUnsigned (a b : Word) : Word := if b = 0 then BitVec.allOnes 64 else BitVec.ofNat 64 (a.toNat / b.toNat)
/-- Signed remainder. -/
def remSigned (a b : Word) : Word := if b = 0 then a else BitVec.ofInt 64 (Int.tmod a.toInt b.toInt)
/-- Unsigned remainder. -/
def remUnsigned (a b : Word) : Word := if b = 0 then a else BitVec.ofNat 64 (a.toNat % b.toNat)

/-- DIV (03 R51). -/
def execDiv (g : Guard) (d a b : BitVec 6) : State → Out :=
  alu (.div g d a b) g d [a, b] fun t => divSigned (t.rd a) (t.rd b)
/-- DIVU. -/
def execDivu (g : Guard) (d a b : BitVec 6) : State → Out :=
  alu (.divu g d a b) g d [a, b] fun t => divUnsigned (t.rd a) (t.rd b)
/-- REM. -/
def execRem (g : Guard) (d a b : BitVec 6) : State → Out :=
  alu (.rem g d a b) g d [a, b] fun t => remSigned (t.rd a) (t.rd b)
/-- REMU. -/
def execRemu (g : Guard) (d a b : BitVec 6) : State → Out :=
  alu (.remu g d a b) g d [a, b] fun t => remUnsigned (t.rd a) (t.rd b)
/-- MIN, signed. -/
def execMin (g : Guard) (d a b : BitVec 6) : State → Out :=
  alu (.min g d a b) g d [a, b] fun t => if t.sv a ≤ t.sv b then t.rd a else t.rd b
/-- MAX, signed. -/
def execMax (g : Guard) (d a b : BitVec 6) : State → Out :=
  alu (.max g d a b) g d [a, b] fun t => if t.sv a ≤ t.sv b then t.rd b else t.rd a
/-- MINU. -/
def execMinu (g : Guard) (d a b : BitVec 6) : State → Out :=
  alu (.minu g d a b) g d [a, b] fun t => if t.uv a ≤ t.uv b then t.rd a else t.rd b
/-- MAXU. -/
def execMaxu (g : Guard) (d a b : BitVec 6) : State → Out :=
  alu (.maxu g d a b) g d [a, b] fun t => if t.uv a ≤ t.uv b then t.rd b else t.rd a
/-- ABS: the operand is signed under every kind (R164). -/
def execAbs (g : Guard) (d a : BitVec 6) : State → Out :=
  aluSat (.abs g d a) (some g) d [a] fun t => ((t.sv a).natAbs, (t.sv a).natAbs)

/-- SEL: its guard fields are the selector, and it is never guarded off (R165, 07 Table 7.8). -/
def execSel (q : Guard) (d a b : BitVec 6) : State → Out :=
  coreInstr (.sel q d a b) { reads := [a, b], writes := [d] } fun c s =>
    c.write d (if c.t.guard q then c.t.rd a else c.t.rd b) s

/-- AND. -/
def execAnd (g : Guard) (d a b : BitVec 6) : State → Out := alu (.and g d a b) g d [a, b] fun t => t.rd a &&& t.rd b
/-- OR. -/
def execOr (g : Guard) (d a b : BitVec 6) : State → Out := alu (.or g d a b) g d [a, b] fun t => t.rd a ||| t.rd b
/-- XOR. -/
def execXor (g : Guard) (d a b : BitVec 6) : State → Out := alu (.xor g d a b) g d [a, b] fun t => t.rd a ^^^ t.rd b
/-- ANDN. -/
def execAndn (g : Guard) (d a b : BitVec 6) : State → Out := alu (.andn g d a b) g d [a, b] fun t => t.rd a &&& ~~~t.rd b
/-- SHL by gb mod 64. -/
def execShl (g : Guard) (d a b : BitVec 6) : State → Out :=
  alu (.shl g d a b) g d [a, b] fun t => t.rd a <<< (t.uv b % 64)
/-- SHR. -/
def execShr (g : Guard) (d a b : BitVec 6) : State → Out :=
  alu (.shr g d a b) g d [a, b] fun t => t.rd a >>> (t.uv b % 64)
/-- SAR. -/
def execSar (g : Guard) (d a b : BitVec 6) : State → Out :=
  alu (.sar g d a b) g d [a, b] fun t => (t.rd a).sshiftRight (t.uv b % 64)
/-- ROTL. -/
def execRotl (g : Guard) (d a b : BitVec 6) : State → Out :=
  alu (.rotl g d a b) g d [a, b] fun t => (t.rd a).rotateLeft (t.uv b % 64)

/-- Leading zeros of a 64-bit number. -/
def clz64 (x : Nat) : Nat := if x = 0 then 64 else 63 - Nat.log2 x
/-- Trailing zeros: the lowest bit set among the first `n`. -/
def ctzBits (x : Nat) : Nat → Nat → Nat
  | 0, k => k
  | n + 1, k => if bitOf x k then k else ctzBits x n (k + 1)
/-- One bits among the lowest `n`. -/
def popBits (x : Nat) : Nat → Nat
  | 0 => 0
  | n + 1 => (if bitOf x n then 1 else 0) + popBits x n
/-- The lowest `n` bits reversed. -/
def revBits (x : Nat) : Nat → Nat
  | 0 => 0
  | n + 1 => (if bitOf x n then 2 ^ (63 - n) else 0) + revBits x n

/-- CLZ. -/
def execClz (g : Guard) (d a : BitVec 6) : State → Out := alu (.clz g d a) g d [a] fun t => BitVec.ofNat 64 (clz64 (t.uv a))
/-- CTZ. -/
def execCtz (g : Guard) (d a : BitVec 6) : State → Out :=
  alu (.ctz g d a) g d [a] fun t => BitVec.ofNat 64 (ctzBits (t.uv a) 64 0)
/-- POPC. -/
def execPopc (g : Guard) (d a : BitVec 6) : State → Out :=
  alu (.popc g d a) g d [a] fun t => BitVec.ofNat 64 (popBits (t.uv a) 64)
/-- BREV. -/
def execBrev (g : Guard) (d a : BitVec 6) : State → Out :=
  alu (.brev g d a) g d [a] fun t => BitVec.ofNat 64 (revBits (t.uv a) 64)
/-- MOV. -/
def execMov (g : Guard) (d a : BitVec 6) : State → Out := alu (.mov g d a) g d [a] fun t => t.rd a
/-- LEA with an index: ga + gb * s (R163). -/
def execLeaIndexed (g : Guard) (sz : BitVec 2) (d a b : BitVec 6) : State → Out :=
  alu (.leaIndexed g sz d a b) g d [a, b] fun t => t.rd a + (t.rd b <<< sz.toNat)

/-! ## Compares and predicates (R168, R169) -/

/-- A compare writing qd a combination of its old value and the condition. -/
def compare4 (i : Instr) (g : Guard) (c p : BitVec 3) (a b : BitVec 6) (f : Bool → Bool → Bool) : State → Out :=
  coreInstr i { guard := some g, reads := [a, b] } fun x s =>
    x.writePred p (f (x.t.pred p) (condInt 64 c.toNat (x.t.uv a) (x.t.uv b))) s

/-- CMP. -/
def execCmp (g : Guard) (c p : BitVec 3) (a b : BitVec 6) : State → Out := compare4 (.cmp g c p a b) g c p a b fun _ r => r
/-- CMP.and. -/
def execCmpAnd (g : Guard) (c p : BitVec 3) (a b : BitVec 6) : State → Out :=
  compare4 (.cmpAnd g c p a b) g c p a b fun q r => q && r
/-- CMP.or. -/
def execCmpOr (g : Guard) (c p : BitVec 3) (a b : BitVec 6) : State → Out :=
  compare4 (.cmpOr g c p a b) g c p a b fun q r => q || r
/-- CMP.xor. -/
def execCmpXor (g : Guard) (c p : BitVec 3) (a b : BitVec 6) : State → Out :=
  compare4 (.cmpXor g c p a b) g c p a b fun q r => q != r
/-- CMPI: the immediate is sign-extended, also for unsigned conditions. -/
def execCmpi (c p : BitVec 3) (a : BitVec 6) (imm : BitVec 12) : State → Out :=
  coreInstr (.cmpi c p a imm) { reads := [a] } fun x s =>
    x.writePred p (condInt 64 c.toNat (x.t.uv a) (imm.signExtend 64).toNat) s
/-- QOP: qd := tt[2 * qa + qb]. -/
def execQop (g : Guard) (p qa qb : BitVec 3) (tt : BitVec 4) : State → Out :=
  coreInstr (.qop g p qa qb tt) { guard := some g } fun x s =>
    x.writePred p (tt.getLsbD ((if x.t.pred qa then 2 else 0) + (if x.t.pred qb then 1 else 0))) s

/-! ## Immediate forms and bit fields (R166, R167) -/

/-- ADDI, format B. -/
def execAddi (d a : BitVec 6) (imm : BitVec 12) : State → Out :=
  aluSat (.addi d a imm) none d [a] fun t => (t.sv a + imm.toInt, (t.uv a : Int) + imm.toInt)
/-- ADDI, format W. -/
def execAddiWide (g : Guard) (d a : BitVec 6) (imm : BitVec 32) : State → Out :=
  aluSat (.addiWide g d a imm) (some g) d [a] fun t => (t.sv a + imm.toInt, (t.uv a : Int) + imm.toInt)
/-- MOVI, format B. -/
def execMovi (d : BitVec 6) (imm : BitVec 18) : State → Out :=
  coreInstr (.movi d imm) { writes := [d] } fun c s => c.write d (imm.signExtend 64) s
/-- MOVI, format W. -/
def execMoviWide (g : Guard) (d : BitVec 6) (imm : BitVec 32) : State → Out :=
  alu (.moviWide g d imm) g d [] fun _ => imm.signExtend 64
/-- MOVI.hi: gd[63:32] := imm32, the low half kept. -/
def execMoviHi (g : Guard) (d : BitVec 6) (imm : BitVec 32) : State → Out :=
  alu (.moviHi g d imm) g d [d] fun t => BitVec.ofNat 64 (imm.toNat * 2 ^ 32 + t.uv d % 2 ^ 32)
/-- LEA with an immediate. -/
def execLeaImm (g : Guard) (d a : BitVec 6) (imm : BitVec 32) : State → Out :=
  alu (.leaImm g d a imm) g d [a] fun t => t.rd a + imm.signExtend 64
/-- EXTB. -/
def execExtb (g : Guard) (d a : BitVec 6) (pos : BitVec 6) (width : BitVec 7) : State → Out :=
  alu (.extb g d a pos width) g d [a] fun t => BitVec.ofNat 64 (bitsOf (t.uv a) pos.toNat width.toNat)
/-- EXTB.sx. -/
def execExtbSx (g : Guard) (d a : BitVec 6) (pos : BitVec 6) (width : BitVec 7) : State → Out :=
  alu (.extbSx g d a pos width) g d [a] fun t =>
    BitVec.ofInt 64 (sextNat width.toNat (bitsOf (t.uv a) pos.toNat width.toNat))
/-- INSB: other bits of gd keep their values. -/
def execInsb (g : Guard) (d a : BitVec 6) (pos : BitVec 6) (width : BitVec 7) : State → Out :=
  alu (.insb g d a pos width) g d [a, d] fun t =>
    let x := t.uv d
    BitVec.ofNat 64 (x - bitsOf x pos.toNat width.toNat * 2 ^ pos.toNat + t.uv a % 2 ^ width.toNat * 2 ^ pos.toNat)

/-- RNGB: 32 bits of the counter generator under c.rkey (R208). -/
def execRngb (d a : BitVec 6) (imm : BitVec 12) : State → Out :=
  coreInstr (.rngb d a imm) { reads := [a], writes := [d] } fun c s =>
    c.write d (BitVec.ofNat 64 (qcg c.t.rkey.toNat (c.t.uv a) imm.toNat)) s

end Sys2Proof.Machine
end

