-- ==== Sys2Proof/Machine/Package.lean ====
section
/-! DEFINITION. The package around its units (chapter 25): ring commands of the driver, the host register window, links, die
reset, errors and poison, energy and bring-up. -/

namespace Sys2Proof.Machine

/-! ## Ring commands (25 R409) -/

/-- How a ring command ends: done, refused (skipped with a report), held until it can complete, or begun: it has done its part and
completes later, as the first of the ring still. -/
inductive Ring where
  | done (s : State)
  | refused
  | held
  | begun (s : State)

/-- HEAD of the command ring after one more command: an index that wraps at the ring's SIZE (DESIGN CHOICE, log entry 13). -/
def HostRegs.ringNext (h : HostRegs) : HostRegs :=
  { h with cring := h.cring.upd 2 fun x => BitVec.ofNat 64 ((x.toNat + 1) % (h.cring.get 1).toNat) }

/-- Whether the command ring holds a command that may be read: features are accepted, and HEAD is not yet at TAIL. -/
def HostRegs.ringReady (h : HostRegs) : Bool := h.fack && h.cring.get 1 != 0 && h.cring.get 2 != h.cring.get 3

/-- The common course of a ring command: none is read before features are accepted or beyond TAIL; HEAD advances; a refused
one is reported with its ring index (KIND 2). -/
def ringCommand (body : State → Ring) (s : State) : Option State :=
  if !s.host.ringReady then none
  else
    let next := fun (s : State) => { s with host := s.host.ringNext }
    match body s with
    | .done t => some (next t)
    | .refused => some ((next s).report (mkReport 2 0 0 0 0 (s.host.cring.get 2).toNat 0 0 0))
    | .held => none
    | .begun t => some t

/-- FRAME_TABLE_WRITE (19 R355): MASK starts at the NSTEP low bits, or FMASK. -/
def onFrameTableWrite (idx : Nat) (e : FrameEntry) : State → Option State :=
  ringCommand fun s =>
    if !s.feature 4 ∨ idx ≥ 16 ∨ e.nstep = 0 ∨ e.nstep.toNat > 64 then .refused
    else
      let mask : Word := if e.fix then e.fmask else BitVec.ofNat 64 (2 ^ e.nstep.toNat - 1)
      let f : Frame := { (default : Frame) with present := true, entry := e, mask := mask, od := e.od.toNat }
      .done { s with frames := s.frames.set idx f }
/-- FRAME_TABLE_WRITE: it happens, or nothing does. -/
def execFrameTableWrite (idx : Nat) (e : FrameEntry) (s : State) : Out := happens (onFrameTableWrite idx e) s

/-- RECORD_CONTROL_WRITE (21 R373). -/
def onRecordControlWrite (asid : Nat) (e : RecordBlock) : State → Option State :=
  ringCommand fun s =>
    if e.mode = 3 ∨ (e.mode ≠ 0 ∧ !s.feature 2) ∨ e.nw.toNat > 16 ∨ e.ranges.length < e.nw.toNat ∨ asid ≥ 4096
        ∨ (e.ranges.take e.nw.toNat).any (fun r => r.1.toNat % 4096 != 0 || r.2.toNat % 4096 != 0)
        ∨ e.loglen.toNat % 128 ≠ 0 then .refused
    else .done { s with records := s.records.set asid { (default : Recording) with block := e } }
/-- RECORD_CONTROL_WRITE: it happens, or nothing does. -/
def execRecordControlWrite (asid : Nat) (e : RecordBlock) (s : State) : Out := happens (onRecordControlWrite asid e) s

/-- ASID_ENTRY_WRITE (23 R379). -/
def onAsidEntryWrite (asid : Nat) (e : AsidEntry) : State → Option State :=
  ringCommand fun s =>
    if asid ≥ 4096 ∨ e.root.toNat % 4096 ≠ 0 ∨ bitsOf e.cut.toNat 1 5 ≠ 0 ∨ e.wdog.toNat < 20 ∨ e.wdog.toNat > 40 then .refused
    else .done { s with asids := s.asids.set asid e }
/-- ASID_ENTRY_WRITE: it happens, or nothing does. -/
def execAsidEntryWrite (asid : Nat) (e : AsidEntry) (s : State) : Out := happens (onAsidEntryWrite asid e) s

/-- WATCH_QUEUE_REGISTER (19 R346). -/
def onWatchQueueRegister (va asid : Nat) : State → Option State :=
  ringCommand fun s =>
    if s.watched.length ≥ 64 ∨ va % 128 ≠ 0 ∨ va ≥ 2 ^ 57 ∨ asid ≥ 4096 then .refused
    else .done { s with watched := s.watched ++ [⟨va, asid, 0, none, 0, false⟩] }
/-- WATCH_QUEUE_REGISTER: it happens, or nothing does. -/
def execWatchQueueRegister (va asid : Nat) (s : State) : Out := happens (onWatchQueueRegister va asid) s

/-- FAULT_QUEUE_REGISTER (23 R404). -/
def onFaultQueueRegister (base entries head tail : Nat) : State → Option State :=
  ringCommand fun s =>
    if entries = 0 then .refused
    else
      let q := s.faultq
      .done { s with faultq := { q with registered := true, base := base, entries := entries, head := head, tail := tail } }
/-- FAULT_QUEUE_REGISTER: it happens, or nothing does. -/
def execFaultQueueRegister (base entries head tail : Nat) (s : State) : Out := happens (onFaultQueueRegister base entries head tail) s

/-- FAULT_REPORT_RELEASE: room has come in the fault queue, and the oldest held report is written (23 R404). -/
def onFaultReportRelease (s : State) : Option State :=
  let q := s.faultq
  let room := decide (s.numAt ⟨.host, q.tail⟩ 8 - s.numAt ⟨.host, q.head⟩ 8 < q.entries)
  match q.held with
  | [] => none
  | r :: rest =>
    if q.registered && room then
      let s := ({ s with faultq := { q with held := [] } }).report r
      let q := s.faultq
      some { s with faultq := { q with held := rest } }
    else none
/-- FAULT_REPORT_RELEASE: it happens, or nothing does. -/
def execFaultReportRelease (s : State) : Out := happens onFaultReportRelease s

/-- The host's enqueue that waits on a report, when the driver answers it (19 R345, 23 R405). -/
def State.answerHost (s : State) (tag : Nat) (refuse : Bool) : State :=
  { s with hostPark := s.hostPark.map fun w => if w.parked = tag + 1 then { w with parked := 0, refused := refuse } else w }

/-- The driver's answer to a page-fault report reaches everything that waits on it (23 R405). -/
def answerReport (tag : Nat) (refuse : Bool) : State → Option State :=
  ringCommand fun s =>
    if s.parks.any (·.tag == tag) then
      let s := { s with parks := s.parks.filter (·.tag != tag) }
      .done <| ((((s.answerPage tag refuse).answerClose tag refuse).answerCut tag refuse).answerPool tag refuse).answerHost tag refuse
    else .refused

/-- PAGE_FAULT_REPLAY. -/
def onPageFaultReplay (tag : Nat) : State → Option State := answerReport tag false
/-- PAGE_FAULT_REPLAY: it happens, or nothing does. -/
def execPageFaultReplay (tag : Nat) (s : State) : Out := happens (onPageFaultReplay tag) s
/-- PAGE_FAULT_REFUSE. -/
def onPageFaultRefuse (tag : Nat) : State → Option State := answerReport tag true
/-- PAGE_FAULT_REFUSE: it happens, or nothing does. -/
def execPageFaultRefuse (tag : Nat) (s : State) : Out := happens (onPageFaultRefuse tag) s

/-- Whether a write belongs to an address space: to a thread, a command or a close of an epoch of one of its waves. -/
def State.writesOf (s : State) (asid : Nat) : Writer → Bool
  | .other | .host => false
  | .thread tid => s.asidOf tid == asid
  | .command t _ _ | .cut t => (s.tileWho t).asid == asid
  | .close k => (s.wave k).asid == asid

/-- SHOOTDOWN (23 R406): every TLB drops what meets the range, once every access translated through it is performed or
held. A PEER store is performed once its invalidations are acknowledged (05 R104); those of every store of the address
space are waited for, as no record tells their addresses (DESIGN CHOICE, log entry 104). -/
def onShootdown (asid lo hi : Nat) : State → Option State :=
  ringCommand fun s =>
    let inside := fun (page size : Nat) => decide (page < hi) && decide (lo < page + size)
    let sent := s.threads.any fun p => p.2.live && s.asidOf p.1 == asid && (match p.2.wait with
      | some (.access a) => decide (a.va < Config.ownAlias) && inside a.va a.size
      | _ => false)
    if lo > hi ∨ asid ≥ 4096 then .refused
    else if sent || s.peerInv.any (fun v => s.writesOf asid v.writer) then .held
    else .done { s with tlbs := s.tlbs.map fun t =>
      (t.1, t.2.filter fun e => !(e.asid == asid && inside e.page (levelSize e.level))) }
/-- SHOOTDOWN: it happens, or nothing does. -/
def execShootdown (asid lo hi : Nat) (s : State) : Out := happens (onShootdown asid lo hi) s

/-- Whether something stands between a line and rest: a request its home has accepted, a message, a TENQ it is held for, or a
copy behind a link that holds (25 R411, R412). -/
def State.lineAtWork (s : State) (line : Nat) : Bool :=
  (s.home.get line).active.isSome || s.msgs.any (·.line == line) || s.tenqHolds line || s.copyHeld 1000 line


/-- Lines of a physical range that a cache or a home has something of. -/
def State.linesOf (s : State) (pa size : Nat) : List Nat :=
  let held := s.threads.filterMap fun p => if p.2.holds = 0 then none else some (p.2.holds - 1)
  let all : List Nat := s.home.map (·.1) ++ s.l1.map (fun p => p.1 % 2 ^ 45) ++ s.msgs.map (fun m => m.line) ++ held
  (all.filter fun line => decide (pa ≤ line * 128) && decide (line * 128 < pa + size)).dedup

/-- Whether a request is for a watched line, so that its order gate admits it (21 R375). -/
def State.watchedReq (s : State) (line : Nat) (r : Request) : Bool :=
  r.tid != 0 && (s.waitingAt (r.tid - 1) line).any fun a => s.watchedVa (waveOf (s.thread (r.tid - 1)).gid) a.va

/-- A home completes the requests it has accepted for a line and recalls every cached copy, here and elsewhere (23 R407).
Requests at an order gate, and those a link still holds, stay, to be redirected. -/
def State.freezeLine (s : State) (line : Nat) : State :=
  let queue := (s.homeLine line).queue
  let stays := fun (r : Request) => r.trip == .held || s.watchedReq line r
  let s := s.evictLine line
  let s := s.setHome line { s.homeLine line with queue := queue.filter stays }
  (queue.filter fun r => !stays r).foldl (fun s r =>
    match (if r.tid = 0 then none else s.waitingAt (r.tid - 1) line) with
    | some a => s.settleAccess (r.tid - 1) { a with hint := 2 }
    | none => s) s

/-- FREEZE (23 R407): the homes of a page complete every request they have accepted and recall every cached copy. It completes
once other packages have dropped theirs, and stays the first of the ring until then. -/
def onFreeze (pa size : Nat) : State → Option State :=
  ringCommand fun s =>
    let dropping := fun (s : State) => s.peerInv.any fun v =>
      v.line / 2 ^ 45 == s.pkg && decide (pa / 128 ≤ v.line % 2 ^ 45) && decide (v.line % 2 ^ 45 * 128 < pa + size)
    if size = 0 ∨ pa % 2 ^ 16 ≠ 0 ∨ size % 2 ^ 16 ≠ 0 ∨ pa + size > Config.hbmBytes then .refused
    else if s.frozen.contains (pa, size) then (if dropping s then .held else .done s)
    else if (s.linesOf pa size).any s.lineAtWork then .held
    else
      let s := (s.linesOf pa size).foldl State.freezeLine s
      let s := { s with frozen := s.frozen ++ [(pa, size)] }
      if dropping s then .begun s else .done s
/-- FREEZE: it happens, or nothing does. -/
def execFreeze (pa size : Nat) (s : State) : Out := happens (onFreeze pa size) s

/-- THAW. -/
def onThaw (pa : Nat) : State → Option State :=
  ringCommand fun s =>
    if s.frozen.any (·.1 == pa) then .done { s with frozen := s.frozen.filter (·.1 != pa) } else .refused
/-- THAW: it happens, or nothing does. -/
def execThaw (pa : Nat) (s : State) : Out := happens (onThaw pa) s

/-- DIRECT_NODE_WRITE (01 R36): it waits while the pool is full. -/
def onDirectNodeWrite (va asid : Nat) : State → Option State :=
  ringCommand fun s =>
    if asid ≥ 4096 then .refused else if s.waves.length ≥ 4096 then .held else .done (s.enterDirect asid va)
/-- DIRECT_NODE_WRITE: it happens, or nothing does. -/
def execDirectNodeWrite (va asid : Nat) (s : State) : Out := happens (onDirectNodeWrite va asid) s

/-- PREEMPT_REQUEST (19 R350). -/
def onPreemptRequest (wave : Nat) : State → Option State :=
  ringCommand fun s =>
    let w := s.wave wave
    if (w.state == .running || w.state == .placed) && w.mode == .none then .done (s.askPreempt wave) else .refused
/-- PREEMPT_REQUEST: it happens, or nothing does. -/
def execPreemptRequest (wave : Nat) (s : State) : Out := happens (onPreemptRequest wave) s

/-- FABRIC_DOMAIN_REGISTER (25 R425, R426). -/
def onFabricDomainRegister (pkgs : List Nat) : State → Option State :=
  ringCommand fun s => if pkgs.any (fun p => decide (p > 4095)) then .refused else .done { s with domain := pkgs }
/-- FABRIC_DOMAIN_REGISTER: it happens, or nothing does. -/
def execFabricDomainRegister (pkgs : List Nat) (s : State) : Out := happens (onFabricDomainRegister pkgs) s

/-- SCRUB_WRITE (25 R419): a whole line is written, and its poison cleared. -/
def onScrubWrite (pa : Nat) (data : List Byte) : State → Option State :=
  ringCommand fun s =>
    if pa % 128 ≠ 0 ∨ pa + 128 > Config.hbmBytes ∨ data.length ≠ 128 then .refused
    else if s.lineAtWork (lineOf pa) then .held
    else match s.admitAgent (hubFor 0).unit ⟨.hbm, pa⟩ with
      | none => .held
      | some s => .done ((s.performWrite (hubFor 0) ⟨.hbm, pa⟩ data (s.agentHint ⟨.hbm, pa⟩)).setPoison ⟨.hbm, pa⟩ false)
/-- SCRUB_WRITE: it happens, or nothing does. -/
def execScrubWrite (pa : Nat) (data : List Byte) (s : State) : Out := happens (onScrubWrite pa data) s

/-- DRIVER_PATH_ACCESS (23 R407): HBM through the hub's driver path, which a freeze does not affect; bytes copied from a
poisoned line leave theirs poisoned. -/
def onDriverPathAccess (write poisoned : Bool) (pa : Nat) (data : List Byte) (s : State) : Option State :=
  if pa + data.length > Config.hbmBytes then some s
  else if !s.host.ready || (s.linesOf (pa / 128 * 128) (pa % 128 + data.length)).any s.lineAtWork then none
  else
    let admitted := (data.zipIdx.map fun b => (pa + b.2) / 128).dedup.foldl (fun (r : Option State) x =>
      r.bind (State.admitAgent · (hubFor 0).unit ⟨.hbm, x * 128⟩)) (some s)
    admitted.map fun s => (data.zipIdx).foldl (fun s b =>
      let l : Loc := ⟨.hbm, pa + b.2⟩
      if write then
        let s := s.performWrite (hubFor 0) l [b.1] (s.agentHint l)
        if poisoned then s.setPoison l true else s
      else s.prepareRead (hubFor 0) l (s.agentHint l)) s
/-- DRIVER_PATH_ACCESS: it happens, or nothing does. -/
def execDriverPathAccess (write poisoned : Bool) (pa : Nat) (data : List Byte) (s : State) : Out := happens (onDriverPathAccess write poisoned pa data) s

/-! ## The host register window (25 R408, R430) -/

/-- Updates the host registers. -/
def State.setHost (s : State) (f : HostRegs → HostRegs) : State := { s with host := f s.host }

/-- FSUBMIT: a write of HCTL. The word is accepted when it is within the offer and holds every mandatory feature. -/
def execFsubmit (v : Word) (s : State) : Out :=
  let h := s.host
  let ok := h.facc &&& ~~~BitVec.ofNat 128 Config.offered == 0
    && h.facc &&& BitVec.ofNat 128 Config.mandatory == BitVec.ofNat 128 Config.mandatory
  if v ≠ 1 then .next s
  else if h.fack then .next (s.setHost fun h => { h with ferr := true })
  else if h.state ≠ 3 then .next s
  else if ok then .next (s.setHost fun h => { h with fack := true, state := 4 })
  else .next (s.setHost fun h => { h with ferr := true })

/-- HSTAT_WRITE: FERR is cleared by a 1; a write that sets a reserved bit is discarded (00 R9). -/
def execHstatWrite (v : Word) (s : State) : Out :=
  if bitsOf v.toNat 16 48 ≠ 0 ∨ v.getLsbD 1 then .next s
  else .next (if v.getLsbD 3 then s.setHost fun h => { h with ferr := false } else s)

/-- Updates a link. -/
def State.setLink (s : State) (n : Nat) (f : Link → Link) : State := { s with links := s.links.upd n f }

/-- A link with its retraining window, if one is open, closed: its cycles count in HELD (Table 25.3). -/
def Link.closed (l : Link) (now : Nat) : Link :=
  if l.retraining then
    { l with retraining := false, heldCycles := l.heldCycles + (min now l.until_ - (l.until_ - 2850)) }
  else l

/-- A link moves to a rate: one more step, and a retraining window opens (R411). -/
def Link.stepTo (l : Link) (rate : BitVec 2) (now : Nat) : Link :=
  { l.closed now with rate := rate, steps := l.steps + 1, retraining := true, until_ := now + 2850, lastStep := now + 1 }

/-- LINK_PIN_WRITE (Table 25.3): PIN 5-7, or a reserved bit, discards the write. A failed link moves to no rate. -/
def execLinkPinWrite (n : Nat) (v : Word) (s : State) : Out :=
  let pin := bitsOf v.toNat 61 3
  if n ≥ 16 ∨ pin ≥ 5 ∨ bitsOf v.toNat 32 27 ≠ 0 then .next s
  else
    let rate : BitVec 2 := BitVec.ofNat 2 (pin - 1)
    .next (s.setLink n fun l =>
      let l := { l with pin := BitVec.ofNat 3 pin }
      if pin = 0 ∨ l.rate = rate ∨ l.failed then l else l.stepTo rate s.cycle)

/-- ALLOW_WRITE (R427): discarded when the seventeen allowances would pass the limit, or a reserved bit is set. -/
def execAllowWrite (d : Nat) (v : Word) (s : State) : Out :=
  let total := ((List.range 17).map fun i => if i = d then v.toNat else (s.host.allow.get i).toNat).sum
  if d ≥ 17 ∨ v.toNat ≥ 2 ^ 23 ∨ total > Config.sustained then .next s
  else .next (s.setHost fun h => { h with allow := h.allow.set d (v.setWidth 23) })

/-- CECNT_READ: a read of eight bytes clears the count; one of any other size is discarded. -/
def execCecntRead (r : CountRead) (s : State) : Out :=
  .next (if r.die < 17 ∧ r.size = 8 then s.setHost fun h => { h with cecnt := h.cecnt.set r.die 0 } else s)

/-- A cached line is written back and invalidated in every L1, in the L2, and in other packages (R422). -/
def State.dropLine (s : State) (line : Nat) : State :=
  let s := (s.recallFrom line 1000).invalidatePeers line .other
  s.setHome line (HomeLine.rest { s.homeLine line with owner := 0, sharers := 0, held := false, dirty := false })

/-- KEY_COMMIT (R422): with GO, every cached line tagged with the slot is written back and dropped, and the new keys are
installed. It waits while the protocol of such a line is at work. -/
def onKeyCommit (v : Word) (s : State) : Option State :=
  let slot := s.host.keySlot.toNat
  let lines := (s.linesOf 0 (2 ^ 52)).filter fun line => s.lineSlot.get line == slot
  if v.toNat ≥ 4 ∨ !v.getLsbD 1 then some s
  else if lines.any s.lineAtWork then none
  else
    let s := lines.foldl State.dropLine s
    some { s with keys := s.keys.set slot ⟨v.getLsbD 0, s.host.dkey, s.host.tkey⟩ }
/-- KEY_COMMIT: it happens, or nothing does. -/
def execKeyCommit (v : Word) (s : State) : Out := happens (onKeyCommit v) s

/-- A word of a wide register replaced. -/
def putWord {n : Nat} (x : BitVec n) (i : Nat) (v : Word) : BitVec n :=
  BitVec.ofNat n (putField x.toNat (64 * i) 64 v.toNat)

/-- HOST_REG_WRITE: the other registers of the window (Tables 25.1, 25.5). A write that is not an aligned 8-byte one, of an
unlisted offset or of a reserved bit is discarded; PKGID and FACC are fixed once features are accepted, and the ring is read
only then (R429). -/
def execHostRegWrite (off size : Nat) (v : Word) (s : State) : Out :=
  let h := s.host
  let put := fun (f : HostRegs → HostRegs) => Host.Outcome.next (s.setHost f)
  if size ≠ 8 ∨ off % 8 ≠ 0 then .next s
  else if off = 0x20 ∨ off = 0x28 then
    if h.fack then .next s else put fun h => { h with facc := putWord h.facc ((off - 0x20) / 8) v }
  else if off = 0x30 then
    if h.fack ∨ v.toNat ≥ 2 ^ 16 then .next s else put fun h => { h with pkgid := v.setWidth 16 }
  else if off = 0x40 then put fun h => { h with tfence := putWord h.tfence 0 v }
  else if off = 0x48 then
    if v.toNat ≥ 2 ^ 32 then .next s
    else put fun h => { h with tfence := BitVec.ofNat 96 (h.tfence.toNat % 2 ^ 64 + v.toNat * 2 ^ 64) }
  else if off = 0x50 then put fun h => { h with cfence := v }
  else if off = 0x1000 then
    if v.toNat ≥ 2 ^ 9 then .next s else put fun h => { h with keySlot := v.setWidth 9 }
  else if 0x1008 ≤ off ∧ off ≤ 0x1020 then put fun h => { h with dkey := putWord h.dkey ((off - 0x1008) / 8) v }
  else if 0x1028 ≤ off ∧ off ≤ 0x1040 then put fun h => { h with tkey := putWord h.tkey ((off - 0x1028) / 8) v }
  else if 0x2000 ≤ off ∧ off ≤ 0x2018 then put fun h => { h with cring := h.cring.set ((off - 0x2000) / 8) v }
  else .next s

/-- What a read of an offset of the window returns (Tables 25.1 to 25.6), for CECNT what it held before the read clears it:
zero unless the read is an aligned one of eight bytes; write-only registers, reserved fields and unlisted offsets read
zero. -/
def State.hostRead (s : State) (off size : Nat) : Word :=
  let h := s.host
  let flag := fun (b : Bool) (i : Nat) => if b then 2 ^ i else 0
  let n := (off - 0x100) / 16
  if size ≠ 8 ∨ off % 8 ≠ 0 then 0
  else if off = 0 then
    BitVec.ofNat 64 (h.errc.toNat * 2 ^ 8 + h.state.toNat * 2 ^ 4 + flag h.ferr 3 + flag h.fack 2 + flag h.ready 0)
  else if off = 0x10 then BitVec.ofNat 64 Config.offered
  else if off = 0x18 then BitVec.ofNat 64 (Config.offered / 2 ^ 64)
  else if off = 0x20 then h.facc.setWidth 64
  else if off = 0x28 then (h.facc >>> 64).setWidth 64
  else if off = 0x30 then h.pkgid.setWidth 64
  else if off = 0x40 then h.tfence.setWidth 64
  else if off = 0x48 then (h.tfence >>> 64).setWidth 64
  else if off = 0x50 then h.cfence
  else if 0x100 ≤ off ∧ off < 0x200 then
    let l := s.links.get n
    if off % 16 = 0 then BitVec.ofNat 64 (l.pin.toNat * 2 ^ 61 + l.rate.toNat * 2 ^ 59 + l.steps.toNat)
    else BitVec.ofNat 64 l.heldCycles
  else if off = 0x200 then BitVec.ofNat 64 (flag h.drstLate 9 + flag h.drstDone 8 + h.drstDie.toNat)
  else if 0x300 ≤ off ∧ off < 0x388 then (h.allow.get ((off - 0x300) / 8)).setWidth 64
  else if 0x400 ≤ off ∧ off < 0x488 then BitVec.ofNat 64 (s.csrEnergy ((off - 0x400) / 8))
  else if 0x500 ≤ off ∧ off < 0x588 then h.cecnt.get ((off - 0x500) / 8)
  else if off = 0x1000 then h.keySlot.setWidth 64
  else if 0x2000 ≤ off ∧ off ≤ 0x2018 then h.cring.get ((off - 0x2000) / 8)
  else 0

/-! ## Die reset (R413, R414) -/

/-- Units of a die. -/
def dieUnits (d : Nat) : List Nat :=
  if 1 ≤ d ∧ d ≤ 8 then (List.range 12).map ((d - 1) * 12 + ·)
  else if d = 9 ∨ d = 10 then (List.range 32).map (96 + (d - 9) * 32 + ·) else []

/-- Whether a wave has a group on a die. -/
def State.onDie (s : State) (k d : Nat) : Bool :=
  s.groups.any fun g => waveOf g.1 == k && g.2.placed && dieOf g.2.unit == d

/-- Poisons the block of a place; a monitor on it is triggered (09 R195). -/
def State.poisonBlock (s : State) (l : Loc) : State :=
  let b : Loc := { l with addr := l.addr / 128 * 128 }
  (s.setPoison b true).trigger b 128

/-- Halts a wave on all its units, each with its report of cause 0; one that is only placed has first to run (01 Table 1.8),
and is halted as it starts. -/
def State.haltWave (s : State) (k : Nat) : State :=
  let s := s.setWave k { s.wave k with haltDue := (s.wave k).state == .placed }
  if (s.wave k).haltDue then s.startWave k else s.haltGroups k

/-- Begins the reset of a print or proof die: quiesce. A second one waits until the first is over. -/
def State.beginReset (s : State) (d : Nat) : State :=
  if s.host.drstBusy then s.setHost fun h => { h with drstNext := h.drstNext ++ [d] }
  else
    let s := s.setHost fun h => { h with
      drstNow := BitVec.ofNat 4 d, drstBusy := true, drstAt := s.cycle, drstDone := false, drstLate := false }
    (s.pool.filter fun k => s.onDie k d).foldl State.haltWave s

/-- DRST_GO: a write of DRST (Table 25.4). A DIE outside 1-10 or a reserved bit discards it; DIE is set, and GO begins a reset,
but is discarded while one runs and before features are accepted (R429). -/
def execDrstGo (v : Word) (s : State) : Out :=
  let d := bitsOf v.toNat 0 4
  if d = 0 ∨ d > 10 ∨ bitsOf v.toNat 10 54 ≠ 0 ∨ bitsOf v.toNat 5 3 ≠ 0 then .next s
  else
    let s := s.setHost fun h => { h with drstDie := BitVec.ofNat 4 d }
    .next (if v.getLsbD 4 ∧ s.host.fack ∧ !s.host.drstBusy then s.beginReset d else s)

/-- Whether a unit is one of a die's. -/
def unitOn (d unit : Nat) : Bool := unit < 160 && dieOf unit == d

/-- Units of a die that own a line whose data the home does not have: held in M or O, or in a write-back buffer. -/
def State.dirtyLines (s : State) (d : Nat) : List Nat :=
  (s.l1.filter fun p => unitOn d (p.1 / 2 ^ 45) && (p.2.st == .m || p.2.st == .o || p.2.wb)).map fun p => p.1 % 2 ^ 45

/-- A home's record of a line after the fence: the die's clusters leave every sharer vector, its requests are dropped, and a
forward to it is answered by the home itself; with the lines so answered (R414). -/
def fenceLine (d : Nat) (h : HomeLine) : HomeLine :=
  let bits : BitVec 40 := (dieUnits d).foldl (fun m u => m ||| sharerMask u) 0
  let gone := h.owner ≠ 0 ∧ unitOn d (h.owner - 1)
  let active := h.active.filter fun r => !unitOn d r.unit
  let acks := h.acks.filter fun u => !unitOn d u
  let owner := if gone then 0 else h.owner
  let sharers := h.sharers &&& ~~~bits
  let rest : DirState := if owner ≠ 0 then .ow else if sharers = 0 then .u else .sh
  { h with
    owner := owner, sharers := sharers, acks := acks, active := active, queue := h.queue.filter fun r => !unitOn d r.unit
    state := if active.isSome then (if h.state = .fwd ∧ gone then .inv else h.state) else rest }

/-- The accesses of a die's threads that a home has accepted and not yet performed: admitted requests, and requests whose
grant is on its way. -/
def State.acceptedOf (s : State) (d : Nat) : List (Nat × Access) :=
  let of_ := fun (line tid : Nat) => if tid = 0 ∨ !unitOn d (unitOf (tid - 1)) then none
    else (s.waitingAt (tid - 1) line).map fun a => (tid - 1, a)
  (s.home.filterMap fun h => h.2.active.bind fun r => of_ h.1 r.tid)
    ++ s.msgs.filterMap fun m => match m.kind with
      | .grant _ => of_ m.line m.tid
      | _ => none

/-- A store or atomic that a home has accepted from a die that is fenced is performed there (R413). -/
def State.performAccepted (s : State) (x : Nat × Access) : State :=
  if x.2.op matches .load _ then s else s.settleAccess x.1 { x.2 with hint := 2 }

/-- The homes and L1s without a die. -/
def State.withoutDie (s : State) (d : Nat) : State :=
  { s with
    home := s.home.map fun (h : Nat × HomeLine) => (h.1, fenceLine d h.2)
    l1 := s.l1.filter fun p => !unitOn d (p.1 / 2 ^ 45)
    msgs := s.msgs.filter fun m => !unitOn d m.unit }

/-- Lines whose forward to a die is outstanding at their homes: the fence answers it with the line poisoned (R414). -/
def State.forwardsTo (s : State) (d : Nat) : List Nat :=
  (s.home.filter fun h => h.2.state == .fwd && decide (h.2.owner ≠ 0) && unitOn d (h.2.owner - 1)).map (·.1)

/-- Fences the link of a die and resets it: what homes have accepted is performed there, late write-backs become poison, the
frames with groups on the die are noted (19 R359), and the die's units are as after bring-up. -/
def State.fenceDie (s : State) (d : Nat) (late : Bool) : State :=
  let lost := if late then s.dirtyLines d else []
  let answered := s.forwardsTo d
  let accepted := s.acceptedOf d
  let s := (s.pool.filter fun k => s.onDie k d).foldl State.noteFrame s
  let s := accepted.foldl State.performAccepted (s.withoutDie d)
  let s := (lost ++ answered).foldl (fun s line => s.poisonBlock ⟨.hbm, line * 128⟩) (s.withoutDie d)
  let s := { s with
    threads := s.threads.filter fun p => !unitOn d (unitOf p.1)
    tiles := s.tiles.filter fun p => !unitOn d p.1
    cores := s.cores.filter fun p => !unitOn d (96 + p.1)
    tlbs := s.tlbs.filter fun p => !(decide (p.1 < 160) && unitOn d p.1) && p.1 != 1000 + d
    groups := s.groups.map fun (g : Nat × Group) =>
      (g.1, if g.2.placed && unitOn d g.2.unit then { g.2 with placed := false, started := false } else g.2) }
  (s.home.filter fun (h : Nat × HomeLine) => h.2.state == .inv && h.2.acks.isEmpty).foldl (fun s h =>
    match h.2.active with
    | some r => s.grant h.1 r false
    | none => s) s

/-- Whether a die still has transactions outstanding: messages to or from its units, requests of theirs that a home has
accepted, or increments of its engines. -/
def State.dieBusy (s : State) (d : Nat) : Bool :=
  s.msgs.any (fun m => unitOn d m.unit) || s.home.any (fun h => h.2.active.any fun r => unitOn d r.unit)
    || (dieUnits d).any s.incsOut

/-- DIE_QUIESCE_END: the outstanding transactions and the write-backs are done, or the deadline has passed with lines still
dirty or forwards unanswered, which are poisoned: DLATE. A retraining window of the link, or its failure, holds them (R411,
R412). The next reset that waits begins. -/
def onDieQuiesceEnd (s : State) : Option State :=
  let h := s.host
  let d := h.drstNow.toNat
  let late := decide (s.cycle ≥ h.drstAt + Config.quiesce)
  if !h.drstBusy || (((s.links.get (d - 1)).holds || s.dieBusy d) && !late) then none
  else
    let late := late && !(s.dirtyLines d ++ s.forwardsTo d).isEmpty
    let s := (s.fenceDie d late).setHost fun h => { h with
      drstBusy := false, drstDone := true, drstLate := late, drstNext := h.drstNext.drop 1 }
    some (match h.drstNext with
      | [] => s
      | n :: _ => s.beginReset n)
/-- DIE_QUIESCE_END: it happens, or nothing does. -/
def execDieQuiesceEnd (s : State) : Out := happens onDieQuiesceEnd s

/-! ## Links (R410-R412) -/

/-- LINK_MEASURE_WINDOW: an automatic link steps up above 85 %, down when the lower rate would do with 60 %, once in 50 µs. -/
def onLinkMeasureWindow (n pctUsed pctLower : Nat) (s : State) : Option State :=
  let l := s.links.get n
  if n ≥ 16 then none
  else if l.pin ≠ 0 ∨ l.retraining ∨ l.failed ∨ (l.lastStep ≠ 0 ∧ s.cycle + 1 < l.lastStep + 95000) then some s
  else if pctUsed > 85 ∧ l.rate ≠ 3 then some (s.setLink n fun l => l.stepTo (l.rate + 1) s.cycle)
  else if pctLower ≤ 60 ∧ l.rate ≠ 0 then some (s.setLink n fun l => l.stepTo (l.rate - 1) s.cycle)
  else some s
/-- LINK_MEASURE_WINDOW: it happens, or nothing does. -/
def execLinkMeasureWindow (n pctUsed pctLower : Nat) (s : State) : Out := happens (onLinkMeasureWindow n pctUsed pctLower) s

/-- The requests that no link holds any more come to their homes, behind those that are there, in the order in which they were
sent (R411). -/
def State.requestsArrive (s : State) : State :=
  let comes := fun (r : Request) => r.trip == .held && !s.linkHeld r.unit
  { s with home := s.home.map fun p => (p.1, { p.2 with
      queue := p.2.queue.filter (fun r => !comes r)
        ++ (p.2.queue.filter comes).map fun r => { r with trip := .late, arrived := s.cycle } }) }

/-- RETRAIN_WINDOW_END: the held transfers move again, in the order in which they were sent (`State.transfers`). -/
def onRetrainWindowEnd (n : Nat) (s : State) : Option State :=
  let l := s.links.get n
  if !l.retraining || l.failed then none
  else some (s.setLink n fun l => l.closed s.cycle).requestsArrive
/-- RETRAIN_WINDOW_END: it happens, or nothing does. -/
def execRetrainWindowEnd (n : Nat) (s : State) : Out := happens (onRetrainWindowEnd n) s

/-- LINK_RETRAIN_FAIL: the link is failed, and the print or proof die on it is reset, after a reset that runs. -/
def onLinkRetrainFail (n : Nat) (s : State) : Option State :=
  let l := s.links.get n
  if n ≥ 16 || !l.retraining || l.failed || decide (s.cycle < l.until_) then none
  else
    let s := s.setLink n fun l => { l with failed := true, retraining := false, heldCycles := l.heldCycles + 2850 }
    some (if n < 10 then s.beginReset (n + 1) else s)
/-- LINK_RETRAIN_FAIL: it happens, or nothing does. -/
def execLinkRetrainFail (n : Nat) (s : State) : Out := happens (onLinkRetrainFail n) s

/-- FLIT_CHECK_FAIL: the retry counts in HELD, by a number of cycles the manual does not state. -/
def onFlitCheckFail (n : Nat) (s : State) : Option State :=
  if n ≥ 16 then none
  else some { s.setLink n fun l => { l with heldCycles := l.heldCycles + (Config.freeWord s.free).toNat } with free := s.free + 1 }
/-- FLIT_CHECK_FAIL: it happens, or nothing does. -/
def execFlitCheckFail (n : Nat) (s : State) : Out := happens (onFlitCheckFail n) s

/-! ## Errors (R415-R417) -/

/-- CORRECTED_ERROR: the die's count saturates. -/
def onCorrectedError (d : Nat) (s : State) : Option State :=
  if d ≥ 17 then none
  else some (s.setHost fun h => { h with cecnt := h.cecnt.upd d fun c => if c = BitVec.allOnes 64 then c else c + 1 })
/-- CORRECTED_ERROR: it happens, or nothing does. -/
def execCorrectedError (d : Nat) (s : State) : Out := happens (onCorrectedError d) s

/-- UNCORRECTABLE_ERROR (Table 25.5b); one in host memory or in another package's is met by whoever reads the line here. -/
def onUncorrectableError (place : ErrPlace) (s : State) : Option State :=
  match place with
  | .hbm pa => if pa ≥ Config.hbmBytes then none else some (s.poisonBlock ⟨.hbm, pa⟩)
  | .host pa => if pa ≥ 2 ^ 52 then none else some (s.poisonBlock ⟨.host, pa⟩)
  | .peer pkg pa => if pkg ≥ 4096 ∨ pa ≥ 2 ^ 52 then none else some (s.poisonBlock ⟨.peer pkg, pa⟩)
  | .l1 unit line =>
    match s.l1St unit line with
    | .i => none
    | .m | .o =>
      let s := s.leaveL1 unit line
      some ((({ s with l1 := s.l1.set (l1Key unit line) ⟨.i, true⟩ }).send ⟨line, unit, .writeback, 0, 0⟩).poisonBlock
        ⟨.hbm, line * 128⟩)
    | _ => some (s.leaveL1 unit line)
  | .scratch tile off =>
    if tile ≥ 96 ∨ off ≥ Config.aliasSize then none else some (s.poisonBlock ⟨.sp tile, off⟩)
  | .groupMem core off =>
    if core ≥ 64 ∨ off ≥ 2 ^ 21 then none else some (s.poisonBlock ⟨.gm core, off⟩)
  | .unitState a =>
    let tid := match a with
      | .thread tid => some tid
      | .engine tile _ => some (controlTid tile)
      | .hub => none
    match tid with
    | some tid => if (s.thread tid).live then some (s.haltUnit tid causePoison (s.thread tid).pc.toNat) else none
    | none => none
/-- UNCORRECTABLE_ERROR: it happens, or nothing does. -/
def execUncorrectableError (place : ErrPlace) (s : State) : Out := happens (onUncorrectableError place) s

/-- PATROL_SCRUB: no store; it changes nothing a program or the protocol sees (R417). -/
def onPatrolScrub (line : Nat) (s : State) : Option State := if line * 128 ≥ Config.hbmBytes then none else some s
/-- PATROL_SCRUB: it happens, or nothing does. -/
def execPatrolScrub (line : Nat) (s : State) : Out := happens (onPatrolScrub line) s

/-! ## Energy (19 R358, R359; 25 R427, R428) -/

/-- Updates the energy planner. -/
def State.setEnergy (s : State) (f : Energy → Energy) : State := { s with energy := f s.energy }

/-- The meters of the window after a reading of all of them: within a window none falls. -/
def Energy.read (e : Energy) (used : List Nat) : Energy :=
  { e with used := (used.zipIdx).foldl (fun m u => if u.2 < 17 then m.upd u.2 (max u.1) else m) e.used }

/-- Whether a die may go on past its allowance: the package's window energy is below its peak, and it has not ended ten
consecutive windows above the sustained limit (R358). -/
def Energy.spare (e : Energy) : Bool := decide ((e.used.map (·.2)).sum < Config.peak) && decide (e.hot < 10)

/-- A die at its allowance or beyond, or in overdraft: it goes on in overdraft while the package allows it, and is held from then
on otherwise (R358). -/
def Energy.judge (e : Energy) (d : Nat) : Energy :=
  let e := { e with hit := e.hit.set d true }
  if e.held.get d then e
  else if e.spare then { e with overdraft := e.overdraft.set d true } else { e with held := e.held.set d true }

/-- Whether a reading puts a die at its allowance: an unused die only where the reading names it. -/
def State.reached (s : State) (m : MeterReading) (e : Energy) (d : Nat) : Bool :=
  decide (e.used.get d ≥ (s.host.allow.get d).toNat) && (decide (e.used.get d > 0) || d == m.die)

/-- ENERGY_ALLOWANCE_REACHED: the meters are read, and every print and proof die that stands at its allowance or beyond, or in
overdraft already, is judged by them. Hub and memory dies are metered but never held. -/
def onEnergyAllowanceReached (m : MeterReading) (s : State) : Option State :=
  if m.die > 16 then none
  else
    let e := s.energy.read m.used
    some { s with energy := (((List.range 11).drop 1).filter fun d => s.reached m e d || e.overdraft.get d).foldl Energy.judge e }
/-- ENERGY_ALLOWANCE_REACHED: it happens, or nothing does. -/
def execEnergyAllowanceReached (m : MeterReading) (s : State) : Out := happens (onEnergyAllowanceReached m) s

/-- Frames that had a group on a die in overdraft or held in this window. -/
def State.chargedFrames (s : State) : List Nat :=
  (s.energy.charged ++ (s.groups.filter fun g => g.2.placed && s.energy.hit.get (dieOf g.2.unit)).map fun g =>
    (s.wave (waveOf g.1)).node.frame).dedup

/-- ENERGY_WINDOW_END: 1,900,000 cycles after its start the window ends with its meters at `used`: they restart, holding by
allowance ends, and each such frame is charged one window. Without a reading from outside the hub ends it on its next turn
(log entry 64). -/
def onEnergyWindowEnd (used : List Nat) (s : State) : Option State :=
  if s.cycle < (s.energy.window + 1) * Config.window1ms then none
  else
  let total := ((s.energy.read used).used.map (·.2)).sum
  let fs := s.chargedFrames
  let s := { s with frames := s.frames.map fun (f : Nat × Frame) =>
    (f.1, if f.2.present && fs.contains f.2.entry.frame.toNat then { f.2 with od := f.2.od + Config.window1ms } else f.2) }
  some (s.setEnergy fun e => { e with
    used := [], overdraft := [], held := [], charged := [], window := e.window + 1
    hit := if e.thermal then SMap.setMany [] 1 (List.replicate 10 true) else []
    hot := if total > Config.sustained then e.hot + 1 else 0 })
/-- ENERGY_WINDOW_END: it happens, or nothing does. -/
def execEnergyWindowEnd (used : List Nat) (s : State) : Out := happens (onEnergyWindowEnd used) s

/-- THERMAL_TRIP: every print and proof die is held. -/
def onThermalTrip (d : Nat) (s : State) : Option State :=
  if d ≥ 17 then none
  else some (s.setEnergy fun e => { e with thermal := true, hit := SMap.setMany [] 1 (List.replicate 10 true) })
/-- THERMAL_TRIP: it happens, or nothing does. -/
def execThermalTrip (d : Nat) (s : State) : Out := happens (onThermalTrip d) s

/-- THERMAL_CLEAR. -/
def onThermalClear (s : State) : Option State :=
  if s.energy.thermal then some (s.setEnergy fun e => { e with thermal := false }) else none
/-- THERMAL_CLEAR: it happens, or nothing does. -/
def execThermalClear (s : State) : Out := happens onThermalClear s

/-! ## Bring-up (R429) -/

/-- A bring-up step ends: the next one, or failure with its code. -/
def bringUp (st next : BitVec 4) (codes : List Nat) (err : Nat) (done : State → State) (s : State) : Option State :=
  if !s.host.power ∨ s.host.state ≠ st ∨ s.host.ready then none
  else if err = 0 then some ((done s).setHost fun h => { h with state := next })
  else if codes.contains err then some (s.setHost fun h => { h with state := 0xF, errc := BitVec.ofNat 8 err })
  else none

/-- POWER_GOOD. -/
def onPowerGood (s : State) : Option State :=
  if s.host.power then none else some (s.setHost fun h => { h with power := true })
/-- POWER_GOOD: it happens, or nothing does. -/
def execPowerGood (s : State) : Out := happens onPowerGood s
/-- SELF_TEST_DONE: links and SRAMs; the codes are 1 and 4. -/
def onSelfTestDone (err : Nat) : State → Option State := bringUp 0 1 [1, 4] err id
/-- SELF_TEST_DONE: it happens, or nothing does. -/
def execSelfTestDone (err : Nat) (s : State) : Out := happens (onSelfTestDone err) s
/-- HBM_TRAINING_DONE. -/
def onHbmTrainingDone (err : Nat) : State → Option State := bringUp 1 2 [2] err id
/-- HBM_TRAINING_DONE: it happens, or nothing does. -/
def execHbmTrainingDone (err : Nat) (s : State) : Out := happens (onHbmTrainingDone err) s
/-- HBM_INIT_DONE: every line is zero under slot 0 in the clear, no poison, caches invalid, scratchpads zero; READY is set and
c.cycle starts at 0. -/
def onHbmInitDone (err : Nat) : State → Option State :=
  bringUp 2 3 [3] err fun s =>
    let sp := (⟨.sp 0, 0⟩ : Loc).key
    ({ s with
      mem := SMap.clearRange (SMap.clearRange s.mem 0 (2 ^ 52)) sp (sp + 96 * 2 ^ 25)
      poison := [], lineSlot := [], lineKey := [], l1 := [], home := [], msgs := [], peerL2 := [], cycle := 0
      links := s.links.map fun (l : Nat × Link) => (l.1, { l.2 with steps := 0 })
      energy := { s.energy with window := 0 } }).setHost fun h => { h with ready := true }
/-- HBM_INIT_DONE: it happens, or nothing does. -/
def execHbmInitDone (err : Nat) (s : State) : Out := happens (onHbmInitDone err) s
/-- PACKAGE_RESET: back to the start of bring-up; host memory and other packages keep their bytes, and what stands in the
queue of inputs is not the package's. -/
def execPackageReset (s : State) : Out :=
  let host := (⟨.host, 0⟩ : Loc).key
  let peers := (⟨.peer 0, 0⟩ : Loc).key
  .next (({ State.reset with
    mem := s.mem.filter fun c => (decide (host ≤ c.1) && decide (c.1 < host + 2 ^ 52)) || decide (peers ≤ c.1)
    inputs := s.inputs, queue := s.queue, cur := s.cur, free := s.free }).setHost fun h => { h with power := true })

end Sys2Proof.Machine
end

