-- ==== Sys2Proof/Machine/Dispatch.lean ====
section
/-! DEFINITION. `exec`: the one place where a constructor of `Instr` meets its meaning. -/

namespace Sys2Proof.Machine

/-- The meaning of every instruction. -/
def exec (i : Instr) (s : State) : Host.Outcome State Fault Refusal :=
  match i with
  | .nop g => Sys2Proof.Machine.execNop g s
  | .halt g => Sys2Proof.Machine.execHalt g s
  | .tret g => Sys2Proof.Machine.execTret g s
  | .add g d a b => Sys2Proof.Machine.execAdd g d a b s
  | .sub g d a b => Sys2Proof.Machine.execSub g d a b s
  | .mul g d a b => Sys2Proof.Machine.execMul g d a b s
  | .mad g d a b => Sys2Proof.Machine.execMad g d a b s
  | .mulh g d a b => Sys2Proof.Machine.execMulh g d a b s
  | .mulhu g d a b => Sys2Proof.Machine.execMulhu g d a b s
  | .div g d a b => Sys2Proof.Machine.execDiv g d a b s
  | .divu g d a b => Sys2Proof.Machine.execDivu g d a b s
  | .rem g d a b => Sys2Proof.Machine.execRem g d a b s
  | .remu g d a b => Sys2Proof.Machine.execRemu g d a b s
  | .min g d a b => Sys2Proof.Machine.execMin g d a b s
  | .max g d a b => Sys2Proof.Machine.execMax g d a b s
  | .minu g d a b => Sys2Proof.Machine.execMinu g d a b s
  | .maxu g d a b => Sys2Proof.Machine.execMaxu g d a b s
  | .abs g d a => Sys2Proof.Machine.execAbs g d a s
  | .sel sel d a b => Sys2Proof.Machine.execSel sel d a b s
  | .and g d a b => Sys2Proof.Machine.execAnd g d a b s
  | .or g d a b => Sys2Proof.Machine.execOr g d a b s
  | .xor g d a b => Sys2Proof.Machine.execXor g d a b s
  | .andn g d a b => Sys2Proof.Machine.execAndn g d a b s
  | .shl g d a b => Sys2Proof.Machine.execShl g d a b s
  | .shr g d a b => Sys2Proof.Machine.execShr g d a b s
  | .sar g d a b => Sys2Proof.Machine.execSar g d a b s
  | .rotl g d a b => Sys2Proof.Machine.execRotl g d a b s
  | .clz g d a => Sys2Proof.Machine.execClz g d a s
  | .ctz g d a => Sys2Proof.Machine.execCtz g d a s
  | .popc g d a => Sys2Proof.Machine.execPopc g d a s
  | .brev g d a => Sys2Proof.Machine.execBrev g d a s
  | .cmp g c p a b => Sys2Proof.Machine.execCmp g c p a b s
  | .cmpAnd g c p a b => Sys2Proof.Machine.execCmpAnd g c p a b s
  | .cmpOr g c p a b => Sys2Proof.Machine.execCmpOr g c p a b s
  | .cmpXor g c p a b => Sys2Proof.Machine.execCmpXor g c p a b s
  | .mov g d a => Sys2Proof.Machine.execMov g d a s
  | .lld g l a b => Sys2Proof.Machine.execLld g l a b s
  | .lset g l a f => Sys2Proof.Machine.execLset g l a f s
  | .lget g d l f => Sys2Proof.Machine.execLget g d l f s
  | .lmov g l m => Sys2Proof.Machine.execLmov g l m s
  | .leaIndexed g sz d a b => Sys2Proof.Machine.execLeaIndexed g sz d a b s
  | .bra g off => Sys2Proof.Machine.execBra g off s
  | .call g off => Sys2Proof.Machine.execCall g off s
  | .callr g d a => Sys2Proof.Machine.execCallr g d a s
  | .jmpr g a => Sys2Proof.Machine.execJmpr g a s
  | .ret g a => Sys2Proof.Machine.execRet g a s
  | .exit g => Sys2Proof.Machine.execExit g s
  | .brk g => Sys2Proof.Machine.execBrk g s
  | .trap g code => Sys2Proof.Machine.execTrap g code s
  | .yield g => Sys2Proof.Machine.execYield g s
  | .dflush g => Sys2Proof.Machine.execDflush g s
  | .fadd g f d a b => Sys2Proof.Machine.execFadd g f d a b s
  | .fsub g f d a b => Sys2Proof.Machine.execFsub g f d a b s
  | .fmul g f d a b => Sys2Proof.Machine.execFmul g f d a b s
  | .ffma g f d a b => Sys2Proof.Machine.execFfma g f d a b s
  | .fmin g f d a b => Sys2Proof.Machine.execFmin g f d a b s
  | .fmax g f d a b => Sys2Proof.Machine.execFmax g f d a b s
  | .fabs g f d a => Sys2Proof.Machine.execFabs g f d a s
  | .fneg g f d a => Sys2Proof.Machine.execFneg g f d a s
  | .fcmp g f c p a b => Sys2Proof.Machine.execFcmp g f c p a b s
  | .fdiv g f d a b => Sys2Proof.Machine.execFdiv g f d a b s
  | .fsqrt g f d a => Sys2Proof.Machine.execFsqrt g f d a s
  | .frcp g f d a => Sys2Proof.Machine.execFrcp g f d a s
  | .frsq g f d a => Sys2Proof.Machine.execFrsq g f d a s
  | .fexp2 g f d a => Sys2Proof.Machine.execFexp2 g f d a s
  | .flog2 g f d a => Sys2Proof.Machine.execFlog2 g f d a s
  | .fsin g f d a => Sys2Proof.Machine.execFsin g f d a s
  | .fcos g f d a => Sys2Proof.Machine.execFcos g f d a s
  | .frnd g f d a => Sys2Proof.Machine.execFrnd g f d a s
  | .fclass g f d a => Sys2Proof.Machine.execFclass g f d a s
  | .ldIndexed g sz d a b => Sys2Proof.Machine.execLdIndexed g sz d a b s
  | .ldSxIndexed g sz d a b => Sys2Proof.Machine.execLdSxIndexed g sz d a b s
  | .stIndexed g sz d a b => Sys2Proof.Machine.execStIndexed g sz d a b s
  | .ldAcqIndexed g sz d a b => Sys2Proof.Machine.execLdAcqIndexed g sz d a b s
  | .stRelIndexed g sz d a b => Sys2Proof.Machine.execStRelIndexed g sz d a b s
  | .fenceFull g => Sys2Proof.Machine.execFenceFull g s
  | .fenceAcq g => Sys2Proof.Machine.execFenceAcq g s
  | .fenceRel g => Sys2Proof.Machine.execFenceRel g s
  | .fencePort g => Sys2Proof.Machine.execFencePort g s
  | .mon g a => Sys2Proof.Machine.execMon g a s
  | .mwait g => Sys2Proof.Machine.execMwait g s
  | .semwait g a b => Sys2Proof.Machine.execSemwait g a b s
  | .semsig g a b => Sys2Proof.Machine.execSemsig g a b s
  | .deqp g d p => Sys2Proof.Machine.execDeqp g d p s
  | .portq g d p => Sys2Proof.Machine.execPortq g d p s
  | .join g => Sys2Proof.Machine.execJoin g s
  | .flrd g d => Sys2Proof.Machine.execFlrd g d s
  | .flcl g a => Sys2Proof.Machine.execFlcl g a s
  | .gangq g d => Sys2Proof.Machine.execGangq g d s
  | .divb g off => Sys2Proof.Machine.execDivb g off s
  | .rbget g b => Sys2Proof.Machine.execRbget g b s
  | .rbput g b => Sys2Proof.Machine.execRbput g b s
  | .lend g => Sys2Proof.Machine.execLend g s
  | .halloc g p d a => Sys2Proof.Machine.execHalloc g p d a s
  | .hfree g a => Sys2Proof.Machine.execHfree g a s
  | .hrsh g d a b => Sys2Proof.Machine.execHrsh g d a b s
  | .eres g d a b => Sys2Proof.Machine.execEres g d a b s
  | .erel g a => Sys2Proof.Machine.execErel g a s
  | .eset g a b => Sys2Proof.Machine.execEset g a b s
  | .tmld g k a e => Sys2Proof.Machine.execTmld g k a e s
  | .addi d a imm => Sys2Proof.Machine.execAddi d a imm s
  | .cmpi c p a imm => Sys2Proof.Machine.execCmpi c p a imm s
  | .movi d imm => Sys2Proof.Machine.execMovi d imm s
  | .ldBShort d a imm => Sys2Proof.Machine.execLdBShort d a imm s
  | .ldHShort d a imm => Sys2Proof.Machine.execLdHShort d a imm s
  | .ldWShort d a imm => Sys2Proof.Machine.execLdWShort d a imm s
  | .ldDShort d a imm => Sys2Proof.Machine.execLdDShort d a imm s
  | .ldSxBShort d a imm => Sys2Proof.Machine.execLdSxBShort d a imm s
  | .ldSxHShort d a imm => Sys2Proof.Machine.execLdSxHShort d a imm s
  | .ldSxWShort d a imm => Sys2Proof.Machine.execLdSxWShort d a imm s
  | .stBShort d a imm => Sys2Proof.Machine.execStBShort d a imm s
  | .stHShort d a imm => Sys2Proof.Machine.execStHShort d a imm s
  | .stWShort d a imm => Sys2Proof.Machine.execStWShort d a imm s
  | .stDShort d a imm => Sys2Proof.Machine.execStDShort d a imm s
  | .pref k a imm => Sys2Proof.Machine.execPref k a imm s
  | .rngb d a imm => Sys2Proof.Machine.execRngb d a imm s
  | .pfx kind v => Sys2Proof.Machine.execPfx kind v s
  | .moviWide g d imm => Sys2Proof.Machine.execMoviWide g d imm s
  | .moviHi g d imm => Sys2Proof.Machine.execMoviHi g d imm s
  | .addiWide g d a imm => Sys2Proof.Machine.execAddiWide g d a imm s
  | .leaImm g d a imm => Sys2Proof.Machine.execLeaImm g d a imm s
  | .ldOffset32 g sz d a imm => Sys2Proof.Machine.execLdOffset32 g sz d a imm s
  | .ldSxOffset32 g sz d a imm => Sys2Proof.Machine.execLdSxOffset32 g sz d a imm s
  | .stOffset32 g sz d a imm => Sys2Proof.Machine.execStOffset32 g sz d a imm s
  | .ldAcqOffset32 g sz d a imm => Sys2Proof.Machine.execLdAcqOffset32 g sz d a imm s
  | .stRelOffset32 g sz d a imm => Sys2Proof.Machine.execStRelOffset32 g sz d a imm s
  | .atom g ord d a b disp dbl op => Sys2Proof.Machine.execAtom g ord d a b disp dbl op s
  | .cas g ord d a b disp dbl => Sys2Proof.Machine.execCas g ord d a b disp dbl s
  | .csrr g d csr => Sys2Proof.Machine.execCsrr g d csr s
  | .csrw g a csr => Sys2Proof.Machine.execCsrw g a csr s
  | .csrs g a csr => Sys2Proof.Machine.execCsrs g a csr s
  | .extb g d a pos width => Sys2Proof.Machine.execExtb g d a pos width s
  | .extbSx g d a pos width => Sys2Proof.Machine.execExtbSx g d a pos width s
  | .insb g d a pos width => Sys2Proof.Machine.execInsb g d a pos width s
  | .qop g p qa qb tt => Sys2Proof.Machine.execQop g p qa qb tt s
  | .fcvt g d a src dst => Sys2Proof.Machine.execFcvt g d a src dst s
  | .loop g a imm => Sys2Proof.Machine.execLoop g a imm s
  | .vote g d idx flag kind mask => Sys2Proof.Machine.execVote g d idx flag kind mask s
  | .shfl g d a b mask => Sys2Proof.Machine.execShfl g d a b mask s
  | .redx g d a cls kind mask => Sys2Proof.Machine.execRedx g d a cls kind mask s
  | .tex g d a b l => Sys2Proof.Machine.execTex g d a b l s
  | .texg g d a b l ch => Sys2Proof.Machine.execTexg g d a b l ch s
  | .texq g d a b => Sys2Proof.Machine.execTexq g d a b s
  | .raybox g d a b p => Sys2Proof.Machine.execRaybox g d a b p s
  | .raytri g d a b p => Sys2Proof.Machine.execRaytri g d a b p s
  | .rast g a b p => Sys2Proof.Machine.execRast g a b p s
  | .bary g d a b => Sys2Proof.Machine.execBary g d a b s
  | .xop g d a b c k => Sys2Proof.Machine.execXop g d a b c k s
  | .patld g a k => Sys2Proof.Machine.execPatld g a k s
  | .patdr g k => Sys2Proof.Machine.execPatdr g k s
  | .patq g d k => Sys2Proof.Machine.execPatq g d k s
  | .fork g a n => Sys2Proof.Machine.execFork g a n s
  | .forkToken g n => Sys2Proof.Machine.execForkToken g n s
  | .rdv g mask => Sys2Proof.Machine.execRdv g mask s
  | .spawn g a => Sys2Proof.Machine.execSpawn g a s
  | .tenq g d a b => Sys2Proof.Machine.execTenq g d a b s
  | .wdone g => Sys2Proof.Machine.execWdone g s
  | .ssync g => Sys2Proof.Machine.execSsync g s
  | .govrd g d => Sys2Proof.Machine.execGovrd g d s
  | .enqp g a b p => Sys2Proof.Machine.execEnqp g a b p s
  | .enqpNb g q a b p => Sys2Proof.Machine.execEnqpNb g q a b p s
  | .amend t f v => Sys2Proof.Machine.execAmend t f v s
  | .issueField t f v => Sys2Proof.Machine.execIssueField t f v s
  | .issue t => Sys2Proof.Machine.execIssue t s
  | .issueAdd t f v => Sys2Proof.Machine.execIssueAdd t f v s
  | .idle v => Sys2Proof.Machine.execIdle v s
  | .sloop b st n => Sys2Proof.Machine.execSloop b st n s
  | .sdone => Sys2Proof.Machine.execSdone s
  | .idleEnd => Sys2Proof.Machine.execIdleEnd s
  | .sequencerResume => Sys2Proof.Machine.execSequencerResume s
  | .portCommandTake => Sys2Proof.Machine.execPortCommandTake s
  | .vadd => Sys2Proof.Machine.execVadd s
  | .vsub => Sys2Proof.Machine.execVsub s
  | .vmul => Sys2Proof.Machine.execVmul s
  | .vfma => Sys2Proof.Machine.execVfma s
  | .vmin => Sys2Proof.Machine.execVmin s
  | .vmax => Sys2Proof.Machine.execVmax s
  | .vabs => Sys2Proof.Machine.execVabs s
  | .vcmp => Sys2Proof.Machine.execVcmp s
  | .vsel => Sys2Proof.Machine.execVsel s
  | .vlog => Sys2Proof.Machine.execVlog s
  | .vshf => Sys2Proof.Machine.execVshf s
  | .vidle => Sys2Proof.Machine.execVidle s
  | .vidleEnd => Sys2Proof.Machine.execVidleEnd s
  | .vxop => Sys2Proof.Machine.execVxop s
  | .vexp2 => Sys2Proof.Machine.execVexp2 s
  | .vlog2 => Sys2Proof.Machine.execVlog2 s
  | .vrcp => Sys2Proof.Machine.execVrcp s
  | .vrsq => Sys2Proof.Machine.execVrsq s
  | .vsqrt => Sys2Proof.Machine.execVsqrt s
  | .vcvt => Sys2Proof.Machine.execVcvt s
  | .vpackmx => Sys2Proof.Machine.execVpackmx s
  | .vunpk => Sys2Proof.Machine.execVunpk s
  | .vscale => Sys2Proof.Machine.execVscale s
  | .vsrnd => Sys2Proof.Machine.execVsrnd s
  | .vred => Sys2Proof.Machine.execVred s
  | .vscan => Sys2Proof.Machine.execVscan s
  | .vperm => Sys2Proof.Machine.execVperm s
  | .vbcast => Sys2Proof.Machine.execVbcast s
  | .vtrn => Sys2Proof.Machine.execVtrn s
  | .cpy => Sys2Proof.Machine.execCpy s
  | .gath => Sys2Proof.Machine.execGath s
  | .scat => Sys2Proof.Machine.execScat s
  | .mcst => Sys2Proof.Machine.execMcst s
  | .halo => Sys2Proof.Machine.execHalo s
  | .coll => Sys2Proof.Machine.execColl s
  | .dpos => Sys2Proof.Machine.execDpos s
  | .wld => Sys2Proof.Machine.execWld s
  | .mma => Sys2Proof.Machine.execMma s
  | .mmw => Sys2Proof.Machine.execMmw s
  | .acrd => Sys2Proof.Machine.execAcrd s
  | .acz => Sys2Proof.Machine.execAcz s
  | .commandComplete seq => Sys2Proof.Machine.execCommandComplete seq s
  | .copyChunkComplete => Sys2Proof.Machine.execCopyChunkComplete s
  | .streamSlotReturn => Sys2Proof.Machine.execStreamSlotReturn s
  | .semIncrementApply tile => Sys2Proof.Machine.execSemIncrementApply tile s
  | .remoteWaitAdmit tile => Sys2Proof.Machine.execRemoteWaitAdmit tile s
  | .convergenceTest gid => Sys2Proof.Machine.execConvergenceTest gid s
  | .serviceCheck core => Sys2Proof.Machine.execServiceCheck core s
  | .fenceComplete tid => Sys2Proof.Machine.execFenceComplete tid s
  | .ssyncComplete wave => Sys2Proof.Machine.execSsyncComplete wave s
  | .wdoneComplete gid => Sys2Proof.Machine.execWdoneComplete gid s
  | .govrdComplete wave => Sys2Proof.Machine.execGovrdComplete wave s
  | .epochClose wave => Sys2Proof.Machine.execEpochClose wave s
  | .groupEnd gid => Sys2Proof.Machine.execGroupEnd gid s
  | .waveRetire wave => Sys2Proof.Machine.execWaveRetire wave s
  | .queueDrainRound => Sys2Proof.Machine.execQueueDrainRound s
  | .dispatchDecision => Sys2Proof.Machine.execDispatchDecision s
  | .groupStart wave => Sys2Proof.Machine.execGroupStart wave s
  | .preemptDeadline wave => Sys2Proof.Machine.execPreemptDeadline wave s
  | .drainDeadline wave => Sys2Proof.Machine.execDrainDeadline wave s
  | .saveComplete wave => Sys2Proof.Machine.execSaveComplete wave s
  | .tileStopComplete tile => Sys2Proof.Machine.execTileStopComplete tile s
  | .watchdogExpiry unit => Sys2Proof.Machine.execWatchdogExpiry unit s
  | .patternEntryEvictable core => Sys2Proof.Machine.execPatternEntryEvictable core s
  | .replayGateTimeout line => Sys2Proof.Machine.execReplayGateTimeout line s
  | .homeAdmitReadShared line => Sys2Proof.Machine.execHomeAdmitReadShared line s
  | .homeAdmitReadExclusive line => Sys2Proof.Machine.execHomeAdmitReadExclusive line s
  | .homeAdmitUpgrade line => Sys2Proof.Machine.execHomeAdmitUpgrade line s
  | .homeWritebackArrive line unit => Sys2Proof.Machine.execHomeWritebackArrive line unit s
  | .homeInvalidationAck line unit => Sys2Proof.Machine.execHomeInvalidationAck line unit s
  | .homeFetchDataArrive line => Sys2Proof.Machine.execHomeFetchDataArrive line s
  | .homeForwardResponse line => Sys2Proof.Machine.execHomeForwardResponse line s
  | .l1InvalidationReceive line unit => Sys2Proof.Machine.execL1InvalidationReceive line unit s
  | .l1ForwardReceive line unit => Sys2Proof.Machine.execL1ForwardReceive line unit s
  | .l1GrantReceive line unit => Sys2Proof.Machine.execL1GrantReceive line unit s
  | .l1WritebackAck line unit => Sys2Proof.Machine.execL1WritebackAck line unit s
  | .homeAtomicPerform line => Sys2Proof.Machine.execHomeAtomicPerform line s
  | .redirectedAtomicResend tid => Sys2Proof.Machine.execRedirectedAtomicResend tid s
  | .peerReadAtTarget src dst line => Sys2Proof.Machine.execPeerReadAtTarget src dst line s
  | .peerWriteAtTarget src dst line data => Sys2Proof.Machine.execPeerWriteAtTarget src dst line data s
  | .peerInvalidateReceive dst line => Sys2Proof.Machine.execPeerInvalidateReceive dst line s
  | .peerTimeout a => Sys2Proof.Machine.execPeerTimeout a s
  | .companionAccess write pa size value => Sys2Proof.Machine.execCompanionAccess write pa size value s
  | .hostEnqueue desc node => Sys2Proof.Machine.execHostEnqueue desc node s
  | .pageWalkComplete => Sys2Proof.Machine.execPageWalkComplete s
  | .faultReportRelease => Sys2Proof.Machine.execFaultReportRelease s
  | .frameTableWrite idx e => Sys2Proof.Machine.execFrameTableWrite idx e s
  | .recordControlWrite asid e => Sys2Proof.Machine.execRecordControlWrite asid e s
  | .asidEntryWrite asid e => Sys2Proof.Machine.execAsidEntryWrite asid e s
  | .watchQueueRegister va asid => Sys2Proof.Machine.execWatchQueueRegister va asid s
  | .faultQueueRegister base entries head tail => Sys2Proof.Machine.execFaultQueueRegister base entries head tail s
  | .pageFaultReplay tag => Sys2Proof.Machine.execPageFaultReplay tag s
  | .pageFaultRefuse tag => Sys2Proof.Machine.execPageFaultRefuse tag s
  | .shootdown asid lo hi => Sys2Proof.Machine.execShootdown asid lo hi s
  | .freeze pa size => Sys2Proof.Machine.execFreeze pa size s
  | .thaw pa => Sys2Proof.Machine.execThaw pa s
  | .directNodeWrite va asid => Sys2Proof.Machine.execDirectNodeWrite va asid s
  | .preemptRequest wave => Sys2Proof.Machine.execPreemptRequest wave s
  | .fabricDomainRegister pkgs => Sys2Proof.Machine.execFabricDomainRegister pkgs s
  | .scrubWrite pa data => Sys2Proof.Machine.execScrubWrite pa data s
  | .fsubmit v => Sys2Proof.Machine.execFsubmit v s
  | .hstatWrite v => Sys2Proof.Machine.execHstatWrite v s
  | .linkPinWrite n v => Sys2Proof.Machine.execLinkPinWrite n v s
  | .drstGo v => Sys2Proof.Machine.execDrstGo v s
  | .dieQuiesceEnd => Sys2Proof.Machine.execDieQuiesceEnd s
  | .allowWrite d v => Sys2Proof.Machine.execAllowWrite d v s
  | .cecntRead r => Sys2Proof.Machine.execCecntRead r s
  | .keyCommit v => Sys2Proof.Machine.execKeyCommit v s
  | .hostRegWrite off size v => Sys2Proof.Machine.execHostRegWrite off size v s
  | .energyAllowanceReached m => Sys2Proof.Machine.execEnergyAllowanceReached m s
  | .energyWindowEnd used => Sys2Proof.Machine.execEnergyWindowEnd used s
  | .thermalTrip d => Sys2Proof.Machine.execThermalTrip d s
  | .thermalClear => Sys2Proof.Machine.execThermalClear s
  | .linkMeasureWindow n pctUsed pctLower => Sys2Proof.Machine.execLinkMeasureWindow n pctUsed pctLower s
  | .retrainWindowEnd n => Sys2Proof.Machine.execRetrainWindowEnd n s
  | .linkRetrainFail n => Sys2Proof.Machine.execLinkRetrainFail n s
  | .flitCheckFail n => Sys2Proof.Machine.execFlitCheckFail n s
  | .correctedError d => Sys2Proof.Machine.execCorrectedError d s
  | .uncorrectableError place => Sys2Proof.Machine.execUncorrectableError place s
  | .patrolScrub line => Sys2Proof.Machine.execPatrolScrub line s
  | .powerGood => Sys2Proof.Machine.execPowerGood s
  | .selfTestDone err => Sys2Proof.Machine.execSelfTestDone err s
  | .hbmTrainingDone err => Sys2Proof.Machine.execHbmTrainingDone err s
  | .hbmInitDone err => Sys2Proof.Machine.execHbmInitDone err s
  | .packageReset => Sys2Proof.Machine.execPackageReset s
  | .illegalInstructionEncoding w => Sys2Proof.Machine.execIllegalInstructionEncoding w s
  | .remoteScratchpadAccess tid => Sys2Proof.Machine.execRemoteScratchpadAccess tid s
  | .hostTransactionComplete tid => Sys2Proof.Machine.execHostTransactionComplete tid s
  | .driverPathAccess write poisoned pa data => Sys2Proof.Machine.execDriverPathAccess write poisoned pa data s
  | .nodeDiscard wave => Sys2Proof.Machine.execNodeDiscard wave s
  | .haltedWaveResumeOrDiscard wave resume => Sys2Proof.Machine.execHaltedWaveResumeOrDiscard wave resume s

end Sys2Proof.Machine
end

