-- ==== Sys2Proof/Machine/Fetch.lean ====
section
/-! DEFINITION. Fetching (07 R115, R116, R125, R126; 13 R245): the words of the instruction at a thread's PC, prefix words
included, and the patch word at a strand's address; and what a fetch that cannot be made does. -/

namespace Sys2Proof.Machine

/-- How the fetch of one word ends: its value, a fault, a walk awaited, or held on the way to a place. -/
inductive Word1 where
  | ok (s : State) (w : Nat)
  | fault (cause : Nat)
  | walk
  | held (l : Loc)

/-- Fetches one word with a need (X for core code, R for a strand); its line is not allocated in the L1. -/
def State.fetchWord (s : State) (who : Who) (slot : Nat) (need : Need) (va : Nat) : Word1 :=
  match s.resolve who need va 4 with
  | .fault c => .fault c
  | .walk => .walk
  | .at l =>
    if s.poisoned l then .fault causePoison
    else if s.readHeld who l then .held l
    else match s.admitPlain who slot va l with
      | none => .held l
      | some (s, hint) =>
        let s := s.prepareRead who l (max 1 hint)
        .ok s (s.viewNum l 4)

/-- How the fetch of an instruction ends: its words as instructions, prefix words first; or stopped at a word. -/
inductive Fetched where
  | words (s : State) (is : List Instr)
  | fault (cause va : Nat)
  | walk (va : Nat)
  | held (l : Loc) (va : Nat)

/-- Fetches from an address on: at most `n` words that are prefixes, up to the first word that is none. Words no row names
stand as themselves. -/
def State.fetchCore (s : State) (who : Who) (slot va : Nat) : Nat → List Instr → Fetched
  | 0, is => .words s is
  | n + 1, is =>
    match s.fetchWord who slot needX va with
    | .fault c => .fault c va
    | .walk => .walk va
    | .held l => .held l va
    | .ok s w =>
      if wordCount w = 2 then
        match s.fetchWord who slot needX (va + 4) with
        | .fault c => .fault c (va + 4)
        | .walk => .walk (va + 4)
        | .held l => .held l (va + 4)
        | .ok s v => match decodeCore w v with
          | .ok i => .words s (is ++ [i])
          | .error _ => .words s (is ++ [.illegalInstructionEncoding (BitVec.ofNat 32 w)])
      else match decodeCore w 0 with
        | .ok i => if fSel w = 2 then s.fetchCore who slot (va + 4) n (is ++ [i]) else .words s (is ++ [i])
        | .error _ => .words s (is ++ [.illegalInstructionEncoding (BitVec.ofNat 32 w)])

/-- The instruction at a thread's PC. A fault that a refused page or a failed walk has brought to the thread's access or fetch
is taken first (23 R405), one of a record with the record's address. -/
def State.fetch (s : State) (tid : Nat) : Fetched :=
  let t := s.thread tid
  match t.refusal with
  | some (cause, v) => .fault cause (t.faultVal v)
  | none => s.fetchCore (s.who tid) (slotOf tid) (s.thread tid).pc.toNat 3 []

/-- A thread meets a fault of its fetch. -/
def State.fetchFault (s : State) (tid cause va : Nat) : State :=
  s.trap tid cause (s.thread tid).pc (BitVec.ofNat 64 va)

/-- A thread whose fetch needs a walk parks. -/
def State.fetchWalk (s : State) (tid va : Nat) : State :=
  let s := s.askWalk (dieOf (unitOf tid)) (s.asidOf tid) va
  s.setThread tid { (s.thread tid).pausing s.cycle with wait := some (.walk va 3) }

/-- A thread whose fetch is held on the way to a place parks. -/
def State.fetchHeld (s : State) (tid : Nat) (l : Loc) (va : Nat) : State :=
  let t := s.thread tid
  let w : Wait := .line l va false
  s.setThread tid { t.pausing s.cycle with wait := some w, waited := if t.wait = some w then t.waited else s.cycle + 1 }

/-- Updates the strand of an engine. -/
def State.setStrand (s : State) (tile e : Nat) (st : Strand) : State :=
  s.setEngine tile e { s.engine tile e with strand := some st }

/-- The patch word at a strand's address: the state with the word fetched and its instruction, or what the fetch does
instead: wait for a walk or on the way to a place, or stop the tile at the entry boundary (07 R149). -/
def State.fetchPatch (s : State) (tile e : Nat) (st : Strand) : State × Option Instr :=
  let who := s.tileWho tile
  let va := st.pc.toNat
  let seq := (s.engine tile e).seq.toNat
  match st.refusal with
  | some (cause, v) => ((s.setStrand tile e { st with refusal := none }).raiseEngine tile e seq cause v, none)
  | none =>
  match s.fetchWord who 0 needR va with
  | .held l =>
    let w : Wait := .line l va false
    (s.setStrand tile e { st with wait := some w, waited := if st.wait = some w then st.waited else s.cycle }, none)
  | .fault c => (s.raiseEngine tile e seq c va, none)
  | .walk => ((s.askWalk (dieOf tile) who.asid va).setStrand tile e { st with wait := some (.walk va 4) }, none)
  | .ok s w =>
    let s := s.setStrand tile e { st with wait := none }
    match decodePatch w with
    | .ok i => (s, some i)
    | .error _ => (s, some (.illegalInstructionEncoding (BitVec.ofNat 32 w)))

end Sys2Proof.Machine
end

