-- ==== Sys2Proof/Machine/Issue.lean ====
section
/-! DEFINITION. Who acts, and on what: threads that may issue, gangs of proof cores (01 R24-R27, 07 R131), the next thing an
engine does, and the events the hub performs when their conditions hold. The order in which units take their turns is
the model's own (`State.queue`); every order of turns is some queue. -/

namespace Sys2Proof.Machine

/-! ## Threads -/

/-- A thread that may issue now: runnable, of a running wave, on a die that is not held (19 R358). -/
def State.canIssue (s : State) (tid : Nat) : Bool :=
  s.runnable tid && !s.dieHeld (dieOf (unitOf tid))

/-- Executes the words of one instruction in the current thread: prefix words, then the instruction (07 R125). -/
def runWords : List Instr → State → Out
  | [], s => .next s
  | [i], s => exec i s
  | i :: is, s =>
    match exec i s with
    | .next s => runWords is s
    | o => o

/-- A control core's turn: one instruction. -/
def State.controlTurn (s : State) (tid : Nat) : Out :=
  match s.fetch tid with
  | .words s is => runWords is s
  | .fault cause va => .next (s.fetchFault tid cause va)
  | .walk va => .next (s.fetchWalk tid va)
  | .held l va => .next (s.fetchHeld tid l va)

/-! ## Gangs -/

/-- The thread whose PC and group the next gang of a core has: the one the service check chose, or the head of the PC table
(R25, R27). -/
def State.gangLead (s : State) (core : Nat) : Option Nat :=
  let can := (s.coreThreads core).filter s.canIssue
  let served := (s.core core).serve
  if served ≠ 0 ∧ can.contains (served - 1) then some (served - 1)
  else leastBy (fun a b => decide (s.pcKey a < s.pcKey b)) can

/-- The members of the gang of a lead thread, one per lane, by lane: the lead in its own, else the lowest slot (R25). A thread
that takes a fault brought to it (23 R405) takes it alone. -/
def State.gangOf (s : State) (core lead : Nat) : List Nat :=
  let t := s.thread lead
  let same := (s.coreThreads core).filter fun m =>
    s.canIssue m && (s.thread m).gid == t.gid && (s.thread m).pc == t.pc && (s.thread m).refusal.isNone
  if t.refusal.isSome then [lead] else (List.range 32).filterMap fun l => if l = laneOf lead then some lead else same.find? fun m => laneOf m == l

/-- WIDTH of a gang prefix among the words of an instruction; 0 for none. -/
def gangWidth : List Instr → Nat
  | [] => 0
  | .pfx k v :: is => if k = 2#3 ∧ bitsOf v.toNat 24 3 < 5 then bitsOf v.toNat 24 3 else gangWidth is
  | _ :: is => gangWidth is

/-- Whether a gang prefix of a width leaves a lane with the lead's lane (07 R131). -/
def widthKeeps (width lead lane : Nat) : Bool :=
  match width with
  | 0 => true
  | 1 => lane == lead
  | w => lane / 4 / 2 ^ (w - 2) == lead / 4 / 2 ^ (w - 2)

/-- The lanes of a list of threads, as a mask. -/
def lanesOf (ms : List Nat) : Half := ms.foldl (fun x m => x ||| (1#32 <<< laneOf m)) 0

/-- A member of a gang executes an instruction: each does, also one that a lower lane's trap at level S, HALT or YIELD has stopped
meanwhile, which is stopped after it (09 R161). -/
def State.runMember (is : List Instr) (s : State) (m : Nat) : State :=
  let t := s.thread m
  let go := if t.halted then s.setThread m { t with halted := false, haltedAt := 0 } else s
  match runWords is { go with cur := .thread m } with
  | .next u =>
    if t.halted && (u.thread m).live then u.setThread m { u.thread m with halted := true, haltedAt := t.haltedAt } else u
  | _ => s

/-- The members of a gang execute an instruction one after the other, in lane order. So their SEMSIGs reach a block one by one,
each examined before the next, and their RBGETs take blocks from the lowest lane up (R199 and R227 give no order within a
gang; DESIGN CHOICE, log entry 99). -/
def State.runGang (is : List Instr) (ms : List Nat) (s : State) : State := ms.foldl (State.runMember is) s

/-- A member of a gang issues: its wait for service starts again (01 R27). -/
def State.issues (s : State) (m : Nat) : State := s.setThread m { s.thread m with since := s.cycle }

/-- A proof core's turn: one gang issues one instruction. -/
def State.coreTurn (s : State) (core : Nat) : State :=
  match s.gangLead core with
  | none => s
  | some lead =>
    let gang := s.gangOf core lead
    let gid := (s.thread lead).gid
    let s := s.setCore core { s.core core with serve := 0 }
    match s.fetch lead with
    | .fault cause va => gang.foldl (fun s m => s.fetchFault m cause va) s
    | .walk va => gang.foldl (fun s m => s.fetchWalk m va) s
    | .held l va => gang.foldl (fun s m => s.fetchHeld m l va) s
    | .words s is =>
      let gang := gang.filter fun m => widthKeeps (gangWidth is) (laneOf lead) (laneOf m)
      let s := gang.foldl State.issues (s.setCore core { s.core core with gang := lanesOf gang })
      let s := State.runGang is gang s
      let s := s.setCore core { s.core core with gang := 0 }
      if gang.length > 1 then s.settleGroup gid else s

/-! ## Engines -/

/-- The template opcode a command's class and opcode name (Table 7.18). -/
def opcodeInstr (cls opc : Nat) : Option Instr :=
  let ops : List Instr := match cls with
    | 1 => [.wld, .mma, .mmw, .acrd, .acz]
    | 2 => [.vadd, .vsub, .vmul, .vfma, .vmin, .vmax, .vabs, .vcmp, .vsel, .vlog, .vshf, .vidle, .vxop]
    | 3 => [.vexp2, .vlog2, .vrcp, .vrsq, .vsqrt]
    | 4 => [.vcvt, .vpackmx, .vunpk, .vscale, .vsrnd]
    | 5 => [.vred, .vscan, .vperm, .vbcast, .vtrn]
    | 6 => [.cpy, .gath, .scat, .mcst, .halo, .coll, .dpos]
    | _ => []
  if opc = 0 then none else ops[opc - 1]?

/-- The opcodes of an engine's commands: the started ones, then the oldest issued one. -/
def Engine.opcodes (g : Engine) : List Instr :=
  ((g.started.filter (!·.finished)) ++ g.issued.take 1).filterMap fun c => opcodeInstr (imgClass c.image) (imgOpc c.image)

/-- What an engine may do, in the order in which it is tried: completions, returns and intake, then work on its commands. -/
def Engine.candidates (g : Engine) : List Instr :=
  ((g.started ++ g.issued).filter (·.finished)).map (fun c => .commandComplete c.seq)
    ++ [.streamSlotReturn, .sequencerResume, .idleEnd, .vidleEnd, .copyChunkComplete, .portCommandTake] ++ g.opcodes

/-- The state after an instruction; none where an event or an opcode's turn does not happen, so that a unit turns to its next
candidate and an input from outside waits (log entry 8). -/
def attempt (i : Instr) (s : State) : Option State :=
  match i with
  | .idleEnd => onIdleEnd s
  | .sequencerResume => onSequencerResume s
  | .portCommandTake => onPortCommandTake s
  | .vadd => opVadd.turn s
  | .vsub => opVsub.turn s
  | .vmul => opVmul.turn s
  | .vfma => opVfma.turn s
  | .vmin => opVmin.turn s
  | .vmax => opVmax.turn s
  | .vabs => opVabs.turn s
  | .vcmp => opVcmp.turn s
  | .vsel => opVsel.turn s
  | .vlog => opVlog.turn s
  | .vshf => opVshf.turn s
  | .vidle => opVidle.turn s
  | .vidleEnd => onVidleEnd s
  | .vxop => opVxop.turn s
  | .vexp2 => opVexp2.turn s
  | .vlog2 => opVlog2.turn s
  | .vrcp => opVrcp.turn s
  | .vrsq => opVrsq.turn s
  | .vsqrt => opVsqrt.turn s
  | .vcvt => opVcvt.turn s
  | .vpackmx => opVpackmx.turn s
  | .vunpk => opVunpk.turn s
  | .vscale => opVscale.turn s
  | .vsrnd => opVsrnd.turn s
  | .vred => opVred.turn s
  | .vscan => opVscan.turn s
  | .vperm => opVperm.turn s
  | .vbcast => opVbcast.turn s
  | .vtrn => opVtrn.turn s
  | .cpy => (copyOp 0x01).turn s
  | .gath => (copyOp 0x02).turn s
  | .scat => (copyOp 0x03).turn s
  | .mcst => (copyOp 0x04).turn s
  | .halo => (copyOp 0x05).turn s
  | .coll => opColl.turn s
  | .dpos => (copyOp 0x07).turn s
  | .wld => opWld.turn s
  | .mma => opMma.turn s
  | .mmw => opMmw.turn s
  | .acrd => opAcrd.turn s
  | .acz => opAcz.turn s
  | .commandComplete seq => onCommandComplete seq s
  | .copyChunkComplete => onCopyChunkComplete s
  | .streamSlotReturn => onStreamSlotReturn s
  | .semIncrementApply tile => onSemIncrementApply tile s
  | .remoteWaitAdmit tile => onRemoteWaitAdmit tile s
  | .convergenceTest gid => onConvergenceTest gid s
  | .serviceCheck core => onServiceCheck core s
  | .fenceComplete tid => onFenceComplete tid s
  | .ssyncComplete wave => onSsyncComplete wave s
  | .wdoneComplete gid => onWdoneComplete gid s
  | .govrdComplete wave => onGovrdComplete wave s
  | .epochClose wave => onEpochClose wave s
  | .groupEnd gid => onGroupEnd gid s
  | .waveRetire wave => onWaveRetire wave s
  | .queueDrainRound => onQueueDrainRound s
  | .dispatchDecision => onDispatchDecision s
  | .groupStart wave => onGroupStart wave s
  | .preemptDeadline wave => onPreemptDeadline wave s
  | .drainDeadline wave => onDrainDeadline wave s
  | .saveComplete wave => onSaveComplete wave s
  | .tileStopComplete tile => onTileStopComplete tile s
  | .watchdogExpiry unit => onWatchdogExpiry unit s
  | .patternEntryEvictable core => onPatternEntryEvictable core s
  | .replayGateTimeout line => onReplayGateTimeout line s
  | .homeAdmitReadShared line => onHomeAdmitReadShared line s
  | .homeAdmitReadExclusive line => onHomeAdmitReadExclusive line s
  | .homeAdmitUpgrade line => onHomeAdmitUpgrade line s
  | .homeWritebackArrive line unit => onHomeWritebackArrive line unit s
  | .homeInvalidationAck line unit => onHomeInvalidationAck line unit s
  | .homeFetchDataArrive line => onHomeFetchDataArrive line s
  | .homeForwardResponse line => onHomeForwardResponse line s
  | .l1InvalidationReceive line unit => onL1InvalidationReceive line unit s
  | .l1ForwardReceive line unit => onL1ForwardReceive line unit s
  | .l1GrantReceive line unit => onL1GrantReceive line unit s
  | .l1WritebackAck line unit => onL1WritebackAck line unit s
  | .homeAtomicPerform line => onHomeAtomicPerform line s
  | .redirectedAtomicResend tid => onRedirectedAtomicResend tid s
  | .peerReadAtTarget src dst line => onPeerReadAtTarget src dst line s
  | .peerWriteAtTarget src dst line data => onPeerWriteAtTarget src dst line data s
  | .peerInvalidateReceive dst line => onPeerInvalidateReceive dst line s
  | .peerTimeout a => onPeerTimeout a s
  | .companionAccess write pa size value => onCompanionAccess write pa size value s
  | .hostEnqueue desc node => onHostEnqueue desc node s
  | .pageWalkComplete => onPageWalkComplete s
  | .faultReportRelease => onFaultReportRelease s
  | .frameTableWrite idx e => onFrameTableWrite idx e s
  | .recordControlWrite asid e => onRecordControlWrite asid e s
  | .asidEntryWrite asid e => onAsidEntryWrite asid e s
  | .watchQueueRegister va asid => onWatchQueueRegister va asid s
  | .faultQueueRegister base entries head tail => onFaultQueueRegister base entries head tail s
  | .pageFaultReplay tag => onPageFaultReplay tag s
  | .pageFaultRefuse tag => onPageFaultRefuse tag s
  | .shootdown asid lo hi => onShootdown asid lo hi s
  | .freeze pa size => onFreeze pa size s
  | .thaw pa => onThaw pa s
  | .directNodeWrite va asid => onDirectNodeWrite va asid s
  | .preemptRequest wave => onPreemptRequest wave s
  | .fabricDomainRegister pkgs => onFabricDomainRegister pkgs s
  | .scrubWrite pa data => onScrubWrite pa data s
  | .dieQuiesceEnd => onDieQuiesceEnd s
  | .keyCommit v => onKeyCommit v s
  | .energyAllowanceReached m => onEnergyAllowanceReached m s
  | .energyWindowEnd used => onEnergyWindowEnd used s
  | .thermalTrip d => onThermalTrip d s
  | .thermalClear => onThermalClear s
  | .linkMeasureWindow n pctUsed pctLower => onLinkMeasureWindow n pctUsed pctLower s
  | .retrainWindowEnd n => onRetrainWindowEnd n s
  | .linkRetrainFail n => onLinkRetrainFail n s
  | .flitCheckFail n => onFlitCheckFail n s
  | .correctedError d => onCorrectedError d s
  | .uncorrectableError place => onUncorrectableError place s
  | .patrolScrub line => onPatrolScrub line s
  | .powerGood => onPowerGood s
  | .selfTestDone err => onSelfTestDone err s
  | .hbmTrainingDone err => onHbmTrainingDone err s
  | .hbmInitDone err => onHbmInitDone err s
  | .remoteScratchpadAccess tid => onRemoteScratchpadAccess tid s
  | .hostTransactionComplete tid => onHostTransactionComplete tid s
  | .driverPathAccess write poisoned pa data => onDriverPathAccess write poisoned pa data s
  | .nodeDiscard wave => onNodeDiscard wave s
  | .haltedWaveResumeOrDiscard wave resume => onHaltedWaveResumeOrDiscard wave resume s
  | i => match exec i s with
    | .next t => some t
    | _ => none

/-- The first of a list of instructions that happens. -/
def firstNext (s : State) : List Instr → Option State
  | [] => none
  | i :: is => match attempt i s with
    | some s => some s
    | none => firstNext s is

/-- An engine's turn: one event, one piece of work, or one patch word. -/
def State.engineTurn (s : State) (tile e : Nat) : Out :=
  match firstNext s (s.engine tile e).candidates with
  | some s => .next s
  | none =>
    match (s.engine tile e).strand with
    | none => .next s
    | some st =>
      let waits := match st.wait with
        | none => false
        | some (.line l va write) => !s.lineOpen (s.tileWho tile) 0 va l write
        | some _ => true
      if (s.tile tile).stopped || st.idling || (s.engine tile e).full || waits then .next s
      else match s.fetchPatch tile e st with
        | (s, some i) => exec i s
        | (s, none) => .next s

/-! ## The hub -/

/-- The way on of what a thread has sent to a tile, to the host or to another package, or of an atomic that its home has
redirected. -/
def Wait.moves (m : Nat) : Wait → List Instr
  | .access _ => [.remoteScratchpadAccess m, .hostTransactionComplete m, .redirectedAtomicResend m]
  | .redirected _ => [.redirectedAtomicResend m]
  | _ => []

/-- The event that a message is received with. -/
def Msg.event (m : Msg) : Instr :=
  match m.kind with
  | .writeback => .homeWritebackArrive m.line m.unit
  | .invalidate => .l1InvalidationReceive m.line m.unit
  | .invAck => .homeInvalidationAck m.line m.unit
  | .forward _ => .l1ForwardReceive m.line m.unit
  | .fwdResponse _ _ _ => .homeForwardResponse m.line
  | .grant _ => .l1GrantReceive m.line m.unit
  | .wbAck => .l1WritebackAck m.line m.unit

/-- The event with which a home admits a request of a kind. -/
def ReqKind.event (line : Nat) : ReqKind → Instr
  | .readShared => .homeAdmitReadShared line
  | .readExclusive => .homeAdmitReadExclusive line
  | .upgrade => .homeAdmitUpgrade line
  | .atomic => .homeAtomicPerform line

/-- What is under way between units, with the order in which each was sent: walks, messages, requests at homes and lines they
fetch, accesses of threads, and increments of semaphores. -/
def State.underWay (s : State) : List (Nat × Instr) :=
  (s.walks.filter fun w => !s.walkHeld w).take 1 |>.map (fun w => (w.sent, .pageWalkComplete))
  |>.append (s.msgs.map fun m => (m.sent, m.event))
  |>.append (s.home.flatMap fun h => (match h.2.active with
      | some r => [(r.sent, .homeFetchDataArrive h.1)]
      | none => ((s.nextReq h.1).toList.map fun r => (r.sent, r.kind.event h.1))))
  |>.append (s.threads.flatMap fun p => (p.2.wait.toList.flatMap (Wait.moves p.1)).map fun i => (p.2.parkedAt, i))
  |>.append (s.tiles.flatMap fun p => ((p.2.incs.filter fun i => !s.incHeld p.1 i).take 1).map fun i =>
      (i.sent, .semIncrementApply p.1))

/-- What is under way, in the order in which it was sent: so what a link has held moves in that order (25 R411). What a unit cannot
send while the link holds (a fetch, a record it reads, a piece of a copy) it sends in a turn of its own later (the manual does not
order such turns; DESIGN CHOICE, log entry 109). -/
def State.transfers (s : State) : List Instr := (s.underWay.foldr ins []).map (·.2)
where
  /-- Inserts before the first that was sent later. -/
  ins (p : Nat × Instr) : List (Nat × Instr) → List (Nat × Instr)
    | [] => [p]
    | q :: l => if q.1 < p.1 then q :: ins p l else p :: q :: l

/-- Events of threads the hub may perform. -/
def State.threadEvents (s : State) : List Instr :=
  s.threads.flatMap fun p =>
    let m := p.1
    (match p.2.wait with
      | none => []
      | some .fence => [.fenceComplete m]
      | some .fencePort => [.fenceComplete m]
      | some (.access _) => [.peerTimeout (.thread m)]
      | some (.line _ _ _) => [.peerTimeout (.thread m)]
      | some _ => []) ++ [.watchdogExpiry (.thread m)]

/-- Events of tiles. -/
def State.tileEvents (s : State) : List Instr :=
  s.tiles.flatMap fun p =>
    [.remoteWaitAdmit p.1, .tileStopComplete p.1]
      ++ (List.range 10).flatMap fun e => [.watchdogExpiry (.engine p.1 e), .peerTimeout (.engine p.1 e)]

/-- Events of groups and waves. -/
def State.waveEvents (s : State) : List Instr :=
  (s.groups.flatMap fun g => [.convergenceTest g.1, .wdoneComplete g.1, .groupEnd g.1])
    ++ s.waves.flatMap fun w =>
      [.groupStart w.1, .ssyncComplete w.1, .govrdComplete w.1, .epochClose w.1, .waveRetire w.1, .preemptDeadline w.1,
       .drainDeadline w.1, .saveComplete w.1] ++ w.2.ask.toList.map fun a => .peerTimeout (.thread a.tid)

/-- Lines before which something may stand at a closed order gate (21 R375). -/
def State.gateLines (s : State) : List Nat :=
  let line := fun (w : Option Wait) => match w with
    | some (.line l _ _) => if l.space = .hbm then [lineOf l.addr] else []
    | _ => []
  if s.records.isEmpty then []
  else (s.threads.flatMap fun p => line p.2.wait) ++ s.tiles.flatMap fun p =>
    (p.2.engines.flatMap fun g => (g.2.strand.map fun st => line st.wait).getD []) ++
      (s.engine p.1 9).started.flatMap fun c => (s.nextVa p.1 c fun _ _ => true).toList.flatMap fun va =>
        match s.resolve (s.tileWho p.1) needR va.2 c.eb with
        | .at l => if l.space = .hbm then [lineOf l.addr] else []
        | _ => []
  ++ s.waves.flatMap fun w => (w.2.ask.toList.filter (·.gate)).map (·.block)

/-- Order gates that have held something too long. -/
def State.gateEvents (s : State) : List Instr :=
  ((s.home.filter fun h => !h.2.queue.isEmpty).map (·.1) ++ s.gateLines).map fun x => .replayGateTimeout x

/-- Events of proof cores and of links. -/
def State.unitEvents (s : State) : List Instr :=
  (s.cores.flatMap fun c => [.serviceCheck c.1, .patternEntryEvictable c.1])
    ++ (s.links.filter (·.2.retraining)).map fun l => .retrainWindowEnd l.1

/-- The steps of bring-up, when nothing from outside makes one fail (25 R429). -/
def bringUpEvents : List Instr := [.powerGood, .selfTestDone 0, .hbmTrainingDone 0, .hbmInitDone 0]

/-- The hub's turn: an energy window that is over ends (25 R427), or the first event whose condition holds. -/
def State.hubTurn (s : State) : State :=
  let s := { s with cur := .hub }
  let events := if s.host.ready then
      [.faultReportRelease] ++ s.transfers ++ s.gateEvents ++ s.threadEvents ++ s.tileEvents ++ s.waveEvents ++ s.unitEvents
        ++ [.dieQuiesceEnd, .dispatchDecision, .queueDrainRound, .peerTimeout .hub]
    else bringUpEvents
  match (if s.host.ready then onEnergyWindowEnd [] s else none) with
  | some s => s
  | none => (firstNext s events).getD s

/-! ## Turns -/

/-- A unit's turn. One that can do nothing lets its turn pass. -/
def State.turn (s : State) (a : Agent) : Out :=
  match a with
  | .hub => .next s.hubTurn
  | .engine tile e => ({ s with cur := .engine tile e }).engineTurn tile e
  | .thread tid =>
    if isControl tid then
      if s.canIssue tid then ({ s with cur := .thread tid }).controlTurn tid else .next s
    else .next (s.coreTurn (tid / 1024))

/-- A round of turns: every tile with a group and every core with threads, the hub before each. -/
def State.round (s : State) : List Agent :=
  (s.tiles.filter (·.2.group ≠ 0)).flatMap (fun t =>
    [.hub, .thread (controlTid t.1)] ++ ((List.range 10).drop 1).map fun e => .engine t.1 e)
  ++ ((s.threads.filter fun p => !isControl p.1).map (·.1 / 1024)).dedup.flatMap (fun c => [.hub, .thread (c * 1024)])
  ++ [.hub]

/-- One cycle passes once the package is ready (01 R35). A proof thread that stays parked becomes runnable no earlier than the
next (01 R27). -/
def State.tick (t : State) (running : Bool) : State :=
  if running && t.host.ready then
    { t with cycle := t.cycle + 1, threads := t.threads.map fun p =>
        (p.1, if isControl p.1 || t.mayWake p.1 then p.2 else { p.2 with since := t.cycle + 1 }) }
  else t

/-- The order that inputs keep among themselves: what the driver and the companion processor do, but for enqueues, is one sequence,
as are enqueues, and what other packages ask of one line. An input that has to wait holds those after it in its own sequence
only; any other waits for itself (DESIGN CHOICE, log entry 103). -/
def inputOrder : Instr → Option (Nat × Nat)
  | .frameTableWrite _ _ | .recordControlWrite _ _ | .asidEntryWrite _ _ | .watchQueueRegister _ _
  | .faultQueueRegister _ _ _ _ | .pageFaultReplay _ | .pageFaultRefuse _ | .shootdown _ _ _ | .freeze _ _ | .thaw _
  | .directNodeWrite _ _ | .preemptRequest _ | .fabricDomainRegister _ | .scrubWrite _ _ | .driverPathAccess _ _ _ _
  | .companionAccess _ _ _ _ | .keyCommit _ | .hostRegWrite _ _ _ => some (0, 0)
  | .hostEnqueue _ _ => some (0, 1)
  | .peerReadAtTarget _ dst line | .peerWriteAtTarget _ dst line _ => some (dst + 1, line)
  | _ => none

/-- Whether an input that has led from a state to another is not over and stays where it stands: an enqueue of the host parked on
a page (19 R345), a FREEZE that waits for other packages, HEAD still at it (23 R407). -/
def staysInput (i : Instr) (s t : State) : Bool :=
  match i with
  | .hostEnqueue _ _ => t.hostPark.isSome
  | .freeze _ _ => t.host.cring.get 2 == s.host.cring.get 2
  | _ => false

/-- The first of a list of inputs that can take effect; `before` are those that have to wait. -/
def State.takeFrom (s : State) (before : List Instr) : List Instr → Option State
  | [] => none
  | i :: rest =>
    let behind := (inputOrder i).isSome && before.any fun j => inputOrder j == inputOrder i
    match (if behind then none else attempt i { s with inputs := before ++ rest, cur := .hub }) with
    | some t => some (if staysInput i s t then { t with inputs := before ++ i :: rest } else t)
    | none => s.takeFrom (before ++ [i]) rest

/-- The state after an input from outside, when one can take effect. -/
def State.takeInput (s : State) : Option State := s.takeFrom [] s.inputs

end Sys2Proof.Machine
end

