-- ==== Sys2Proof/Machine/Step.lean ====
section
/-! DEFINITION. `step`: an input from outside takes effect, or the unit whose turn it is acts; and `withFetchWord`, which
places one instruction where the next step fetches it. -/

namespace Sys2Proof.Machine

/-- One step of the machine. -/
def step (s : State) : Host.Outcome State Fault Refusal :=
  match s.takeInput with
  | some t => .next (t.tick s.host.ready)
  | none =>
    match (match s.queue with | [] => s.round | q => q) with
    | [] => .next (s.tick s.host.ready)
    | a :: rest =>
      match ({ s with queue := rest }).turn a with
      | .next t => .next (t.tick s.host.ready)
      | o => o

/-- Instructions that only a proof thread executes (07 R140). -/
def proofOnly : Instr → Bool
  | .divb _ _ | .join _ | .vote _ _ _ _ _ _ | .shfl _ _ _ _ _ | .redx _ _ _ _ _ _ | .flrd _ _ | .flcl _ _
  | .gangq _ _ | .rbget _ _ | .rbput _ _ | .xop _ _ _ _ _ _ | .tex _ _ _ _ _ | .texg _ _ _ _ _ _ | .texq _ _ _ _
  | .raybox _ _ _ _ _ | .raytri _ _ _ _ _ | .rast _ _ _ _ | .bary _ _ _ _ => true
  | _ => false

/-- A state in which the instruction of `nbits` bits `w` (its words as the opcode table numbers them, zeros after them) is
what the next step fetches: a package that is up, a wave of one group with one thread at virtual address 0x10000, that
page translated with every permission, and the turn given to the thread's unit: the control core of tile 0, proof core
0 for an instruction only proof threads execute, or engine 5 of tile 0 for a patch word. -/
def State.withFetchWord (s : State) (nbits w : Nat) : State :=
  let va := 0x10000
  let patch := decide (fSel (w % 2 ^ nbits % 2 ^ 32) = 3)
  let proof := (decodeTableWord nbits w).any proofOnly
  let unit := if proof then 96 else 0
  let tid := if proof then 0 else controlTid 0
  let leaf : Word := BitVec.ofNat 64 (va + 0x3F)
  let t : Thread := { (default : Thread) with live := true, gid := 1024, pc := BitVec.ofNat 64 va, fmode := 0 }
  let g : Group := { (default : Group) with unit := unit, placed := true, started := true, threads := 1 }
  let wave : Wave := { (default : Wave) with state := .running, asid := 1, groups := 1, placedOnce := true }
  let e : Engine := { (default : Engine) with strand := some { (default : Strand) with pc := BitVec.ofNat 64 va } }
  let tile : Tile := { (default : Tile) with group := 1025, engines := if patch then SMap.set [] 5 e else [] }
  ({ s with
    threads := SMap.set [] tid t
    groups := SMap.set [] 1024 g
    waves := SMap.set [] 1 wave
    tiles := if proof then [] else SMap.set [] 0 tile
    tlbs := SMap.set [] unit [⟨1, va, 0, leaf⟩]
    inputs := []
    queue := [if patch then .engine 0 5 else .thread tid]
    host := { s.host with
      power := true, ready := true, fack := true, state := 4, facc := BitVec.ofNat 128 Config.offered } }).setBytes
    ⟨.hbm, va⟩ (leBytes 16 (w % 2 ^ nbits))

end Sys2Proof.Machine
end

