-- ==== Sys2Proof/Safety.lean ====
section
/-! DEFINITION. The terms claims are stated in: a thread that stands at an instruction it can execute, the state an
instruction leaves when it changes its thread and completes, engines that work on a command, and the invariant of every
step. -/

namespace Sys2Proof.Machine

/-- The current thread `tid` stands at an instruction it executes: it has the turn and is not stopped; the instruction is
of its core kind and its feature accepted; the prefix words before it are ones the instruction accepts (07 R126,
R127); its level suffices; its guard holds; it holds every register block named, and no register it reads is pending
(21 R367); and it is no handler of a tile where the instruction is barred from handlers (23 R385). -/
structure Able (s : State) (tid : Nat) (x : Spec) : Prop where
  cur : s.cur = .thread tid
  may : s.mayIssue tid = true
  kind : (x.kind = .proof → isControl tid = false) ∧ (x.kind = .control → isControl tid = true)
  feature : x.tat = true → s.feature 3 = true
  prefixes : pfxBad [] (s.thread tid).pfx = none ∧ (s.thread tid).pfx.all (accepts x.accept) = true
  transfer : x.transfer = true → (s.thread tid).pfx = []
  level : x.privileged = true → (s.thread tid).prv = true
  guard : guardOn x.guard (s.thread tid) = true
  held : ∀ r ∈ x.reads ++ x.writes, isControl tid = true ∨ (s.thread tid).unheld r = false
  ready : ∀ r ∈ x.reads, r = 0 ∨ (s.thread tid).pend.get r.toNat = 0
  handler : x.noHandler = true → isControl tid = true → (s.thread tid).prv = false

/-- The PC after an instruction of `n` words at a thread's PC, its prefix words included. -/
def State.after (s : State) (tid n : Nat) : Word :=
  (s.thread tid).pc + BitVec.ofNat 64 (4 * ((s.thread tid).pfx.length + n))

/-- The state after an instruction of `n` words that changes its thread by `f`, nothing else, and completes at the next
word. -/
def State.finish (s : State) (tid n : Nat) (f : Thread → Thread) : State :=
  (s.setThread tid (f (s.thread tid))).complete tid (s.after tid n) (!(s.thread tid).prv)

/-- As `finish`, going to another PC. -/
def State.jumped (s : State) (tid : Nat) (pc : Word) (f : Thread → Thread) : State :=
  (s.setThread tid (f (s.thread tid))).complete tid pc (!(s.thread tid).prv)

/-- A state that is reached from `s` by an instruction of `n` words of thread `tid` completing in state `t`, which may
differ from `s` anywhere but in that thread's level. -/
def State.finishIn (s t : State) (tid n : Nat) : State := t.complete tid (s.after tid n) (!(s.thread tid).prv)

/-- The state after thread `tid` comes to wait for `w` at its instruction of `n` words, having made the changes of `s`: its
PC stays; a new wait counts from this cycle, or, where it counts for the watchdog and the thread was stopped or saved in
such a wait, from what that had lasted; it takes the next place in the order of parking, and a proof thread's group is
due a convergence test (09 R162, 11 R218, 23 R399). -/
def State.waits (s : State) (tid n : Nat) (w : Wait) : State :=
  let t := s.thread tid
  let fresh := decide (t.wait ≠ some w)
  let had := if w.counts then t.hadWaited else 0
  let s1 := s.setThread tid { t with
    wait := some w, resume := s.after tid n, pfx := [], parkedAt := if fresh then s.nextPark else t.parkedAt
    waited := if fresh then max 1 (s.cycle + 1 - had) else t.waited
    parkedIn := if fresh then s.cycle + 1 else t.parkedIn, hadWaited := if fresh && w.counts then 0 else t.hadWaited }
  let s2 := if fresh then { s1 with nextPark := s1.nextPark + 1 } else s1
  if isControl tid then s2 else s2.setGroup t.gid { s2.group t.gid with test := true }

end Sys2Proof.Machine
end

