-- ==== Sys2Proof/Certificates/Slice0/Obligations.lean ====
section
/-! DEFINITION. The statements for the provers. Each docstring says which rules of the manual it formalises; tables that say,
instruction by instruction, what the manual gives stand before the statements that use them. -/

namespace Sys2Proof.Claims

open Sys2Proof.Machine

/-! ## Instructions that complete -/

/-- What the manual gives an instruction that a thread executes to its end: its words, its prologue (guard, core kind,
registers read and written, prefixes accepted, level), what it needs of its operands and surroundings, the state with
its effect, and the PC after it. -/
structure Effect where
  words : Nat
  spec : Spec
  needs : Prop
  state : State
  next : Word

/-- Every instruction a table lists completes, with its effect, for a thread that can execute it: the thread then
stands at the PC after it, and the completion is counted (01 R27, 23 R383, R389). -/
def Completes (table : State → Nat → Instr → Option Effect) : Prop :=
  ∀ (s : State) (tid : Nat) (i : Instr) (e : Effect), table s tid i = some e → wellFormed i = true → Able s tid e.spec →
    e.needs → exec i s = .next (e.state.complete tid e.next (!(s.thread tid).prv))

/-- An effect on the thread alone, going on at the next word. -/
def onThread (s : State) (tid words : Nat) (spec : Spec) (f : Thread → Thread) : Effect :=
  ⟨words, spec, True, s.setThread tid (f (s.thread tid)), s.after tid words⟩

/-- A guarded instruction that reads some registers and writes one. -/
def gives (s : State) (tid words : Nat) (g : Guard) (d : BitVec 6) (rs : List (BitVec 6)) (v : Word)
    (accept : Accept := {}) : Effect :=
  onThread s tid words { guard := some g, reads := rs, writes := [d], accept := accept } (·.wr d v)

/-! ## Register-only integer instructions -/

/-- The prefixes ADD, ADDI, SUB, MUL, MAD and ABS accept: SAT none, signed or unsigned (Table 7.6). -/
def satPrefix : Accept := { arith := true }

/-- An exact result under the SAT kind in force: none wraps, signed and unsigned clamp the exact result of the operands read
as signed or unsigned (R58, R164). -/
def clamped (t : Thread) (signed unsigned : Int) : Word :=
  match t.satKind with
  | 1 => BitVec.ofInt 64 (max (-(2 ^ 63)) (min signed (2 ^ 63 - 1)))
  | 2 => BitVec.ofInt 64 (max 0 (min unsigned (2 ^ 64 - 1)))
  | _ => BitVec.ofInt 64 signed

/-- How many of the first 64 numbers have a property. -/
def count64 (p : Nat → Bool) : Word := BitVec.ofNat 64 ((List.range 64).countP p)

/-- Ones in the places [pos + width - 1 : pos]. -/
def fieldMask (pos width : Nat) : Word := BitVec.ofNat 64 (2 ^ width - 1) <<< pos

/-- The integer instructions of format A that write one general register (R163-R165; Table 3.3 for divisions). -/
def intEffectA (s : State) (tid : Nat) (i : Instr) : Option Effect :=
  let t := s.thread tid
  match i with
  | .add g d a b => some (gives s tid 1 g d [a, b]
      (clamped t ((t.rd a).toInt + (t.rd b).toInt) ((t.rd a).toNat + (t.rd b).toNat)) satPrefix)
  | .sub g d a b => some (gives s tid 1 g d [a, b]
      (clamped t ((t.rd a).toInt - (t.rd b).toInt) ((t.rd a).toNat - (t.rd b).toNat)) satPrefix)
  | .mul g d a b => some (gives s tid 1 g d [a, b]
      (clamped t ((t.rd a).toInt * (t.rd b).toInt) ((t.rd a).toNat * (t.rd b).toNat)) satPrefix)
  | .mad g d a b => some (gives s tid 1 g d [a, b, d]
      (clamped t ((t.rd a).toInt * (t.rd b).toInt + (t.rd d).toInt)
        ((t.rd a).toNat * (t.rd b).toNat + (t.rd d).toNat)) satPrefix)
  | .abs g d a => some (gives s tid 1 g d [a] (clamped t |(t.rd a).toInt| |(t.rd a).toInt|) satPrefix)
  | .mulh g d a b => some (gives s tid 1 g d [a, b]
      ((((t.rd a).signExtend 128 * (t.rd b).signExtend 128) >>> 64).setWidth 64))
  | .mulhu g d a b => some (gives s tid 1 g d [a, b]
      ((((t.rd a).setWidth 128 * (t.rd b).setWidth 128) >>> 64).setWidth 64))
  | .div g d a b => some (gives s tid 1 g d [a, b] (if t.rd b = 0 then BitVec.allOnes 64 else (t.rd a).sdiv (t.rd b)))
  | .divu g d a b => some (gives s tid 1 g d [a, b] (if t.rd b = 0 then BitVec.allOnes 64 else t.rd a / t.rd b))
  | .rem g d a b => some (gives s tid 1 g d [a, b] (if t.rd b = 0 then t.rd a else (t.rd a).srem (t.rd b)))
  | .remu g d a b => some (gives s tid 1 g d [a, b] (if t.rd b = 0 then t.rd a else t.rd a % t.rd b))
  | .min g d a b => some (gives s tid 1 g d [a, b] (if (t.rd a).sle (t.rd b) then t.rd a else t.rd b))
  | .max g d a b => some (gives s tid 1 g d [a, b] (if (t.rd a).sle (t.rd b) then t.rd b else t.rd a))
  | .minu g d a b => some (gives s tid 1 g d [a, b] (if t.rd a ≤ t.rd b then t.rd a else t.rd b))
  | .maxu g d a b => some (gives s tid 1 g d [a, b] (if t.rd a ≤ t.rd b then t.rd b else t.rd a))
  | .sel q d a b => some (onThread s tid 1 { reads := [a, b], writes := [d] }
      (·.wr d (if t.guard q then t.rd a else t.rd b)))
  | .and g d a b => some (gives s tid 1 g d [a, b] (t.rd a &&& t.rd b))
  | .or g d a b => some (gives s tid 1 g d [a, b] (t.rd a ||| t.rd b))
  | .xor g d a b => some (gives s tid 1 g d [a, b] (t.rd a ^^^ t.rd b))
  | .andn g d a b => some (gives s tid 1 g d [a, b] (t.rd a &&& ~~~(t.rd b)))
  | .shl g d a b => some (gives s tid 1 g d [a, b] (t.rd a <<< ((t.rd b).toNat % 64)))
  | .shr g d a b => some (gives s tid 1 g d [a, b] (t.rd a >>> ((t.rd b).toNat % 64)))
  | .sar g d a b => some (gives s tid 1 g d [a, b] ((t.rd a).sshiftRight ((t.rd b).toNat % 64)))
  | .rotl g d a b => some (gives s tid 1 g d [a, b]
      (t.rd a <<< ((t.rd b).toNat % 64) ||| t.rd a >>> (64 - (t.rd b).toNat % 64)))
  | .clz g d a => some (gives s tid 1 g d [a] (count64 fun k => decide ((t.rd a).toNat < 2 ^ k)))
  | .ctz g d a => some (gives s tid 1 g d [a] (count64 fun k => decide ((t.rd a).toNat % 2 ^ (k + 1) = 0)))
  | .popc g d a => some (gives s tid 1 g d [a] (count64 fun k => (t.rd a).getLsbD k))
  | .brev g d a => some (gives s tid 1 g d [a] (t.rd a).reverse)
  | .mov g d a => some (gives s tid 1 g d [a] (t.rd a))
  | .leaIndexed g sz d a b => some (gives s tid 1 g d [a, b] (t.rd a + t.rd b * BitVec.ofNat 64 (2 ^ sz.toNat)))
  | _ => none

/-- The integer instructions with an immediate that write one general register, and RNGB (R163, R166, R167, R208). -/
def intEffectB (s : State) (tid : Nat) (i : Instr) : Option Effect :=
  let t := s.thread tid
  match i with
  | .addi d a imm => some (onThread s tid 1 { reads := [a], writes := [d], accept := satPrefix }
      (·.wr d (clamped t ((t.rd a).toInt + imm.toInt) ((t.rd a).toNat + imm.toInt))))
  | .addiWide g d a imm => some (gives s tid 2 g d [a]
      (clamped t ((t.rd a).toInt + imm.toInt) ((t.rd a).toNat + imm.toInt)) satPrefix)
  | .leaImm g d a imm => some (gives s tid 2 g d [a] (t.rd a + imm.signExtend 64))
  | .movi d imm => some (onThread s tid 1 { writes := [d] } (·.wr d (imm.signExtend 64)))
  | .moviWide g d imm => some (gives s tid 2 g d [] (imm.signExtend 64))
  | .moviHi g d imm => some (gives s tid 2 g d [d] (imm ++ (t.rd d).setWidth 32))
  | .extb g d a pos width => some (gives s tid 2 g d [a] ((t.rd a &&& fieldMask pos.toNat width.toNat) >>> pos.toNat))
  | .extbSx g d a pos width => some (gives s tid 2 g d [a]
      ((t.rd a <<< (64 - pos.toNat - width.toNat)).sshiftRight (64 - width.toNat)))
  | .insb g d a pos width => some (gives s tid 2 g d [a, d]
      ((t.rd d &&& ~~~(fieldMask pos.toNat width.toNat)) ||| ((t.rd a <<< pos.toNat) &&& fieldMask pos.toNat width.toNat)))
  | .rngb d a imm => some (onThread s tid 1 { reads := [a], writes := [d] }
      (·.wr d (BitVec.ofNat 64 (qcg t.rkey.toNat (t.rd a).toNat imm.toNat))))
  | _ => none

/-- Both tables. -/
def intEffect (s : State) (tid : Nat) (i : Instr) : Option Effect := intEffectA s tid i <|> intEffectB s tid i

/-! ## Instructions that write one predicate -/

/-- The conditions of Table 7.9 on two words. -/
def condition (c : BitVec 3) (x y : Word) : Bool :=
  match c.toNat with
  | 0 => x == y
  | 1 => x != y
  | 2 => x.slt y
  | 3 => !x.slt y
  | 4 => x.ult y
  | 5 => !x.ult y
  | 6 => x &&& y != 0
  | _ => x &&& y == 0

/-- The integer compares and QOP (R168, R169). -/
def predEffect (s : State) (tid : Nat) (i : Instr) : Option Effect :=
  let t := s.thread tid
  let cmp (g : Guard) (a b p : BitVec _) (v : Bool) : Effect :=
    onThread s tid 1 { guard := some g, reads := [a, b] } (·.setPred p v)
  match i with
  | .cmp g c p a b => some (cmp g a b p (condition c (t.rd a) (t.rd b)))
  | .cmpAnd g c p a b => some (cmp g a b p (t.pred p && condition c (t.rd a) (t.rd b)))
  | .cmpOr g c p a b => some (cmp g a b p (t.pred p || condition c (t.rd a) (t.rd b)))
  | .cmpXor g c p a b => some (cmp g a b p (t.pred p ^^ condition c (t.rd a) (t.rd b)))
  | .cmpi c p a imm => some (onThread s tid 1 { reads := [a] } (·.setPred p (condition c (t.rd a) (imm.signExtend 64))))
  | .qop g p qa qb tt => some (onThread s tid 2 { guard := some g }
      (·.setPred p ((tt >>> (2 * (t.pred qa).toNat + (t.pred qb).toNat)).getLsbD 0)))
  | _ => none

/-! ## Float instructions -/

/-- The format a core float instruction's f field names: FP32, FP16 or BF16 (R137). -/
def coreFormat (f : BitVec 2) : FloatFmt := match f.toNat with | 0 => fp32 | 1 => fp16 | _ => bf16

/-- RM, SAT and FTZ all accepted (Table 7.6). -/
def roundPrefix : Accept := { rm := true, arith := true, unit := true, ftz := true }
/-- SAT and FTZ accepted, no rounding mode (Table 7.6). -/
def tablePrefix : Accept := { arith := true, unit := true, ftz := true }

/-- A float instruction that writes gd its result, saturated and zero-extended, and raises its flags (R57, R160, R170). -/
def floats (s : State) (tid : Nat) (g : Guard) (f : BitVec 2) (d : BitVec 6) (rs : List (BitVec 6)) (accept : Accept)
    (r : FRes) : Effect :=
  let t := s.thread tid
  onThread s tid 1 { guard := some g, reads := rs, writes := [d], accept := accept }
    fun u => (u.wr d (BitVec.ofNat 64 (satF (coreFormat f) t.satKind r.bits))).raise r.fl

/-- The core float instructions (R171-R176): the operation of their format on the low bits of their operands, in the
rounding mode and flush setting in force. -/
def floatEffect (s : State) (tid : Nat) (i : Instr) : Option Effect :=
  let t := s.thread tid
  let x (f : BitVec 2) (r : BitVec 6) : Nat := (t.rd r).toNat % 2 ^ (coreFormat f).width
  match i with
  | .fadd g f d a b => some (floats s tid g f d [a, b] roundPrefix (addF (coreFormat f) t.rm t.ftz (x f a) (x f b)))
  | .fsub g f d a b => some (floats s tid g f d [a, b] roundPrefix (subF (coreFormat f) t.rm t.ftz (x f a) (x f b)))
  | .fmul g f d a b => some (floats s tid g f d [a, b] roundPrefix (mulF (coreFormat f) t.rm t.ftz (x f a) (x f b)))
  | .fdiv g f d a b => some (floats s tid g f d [a, b] roundPrefix (divF (coreFormat f) t.rm t.ftz (x f a) (x f b)))
  | .ffma g f d a b => some (floats s tid g f d [a, b, d] roundPrefix
      (fmaF (coreFormat f) t.rm t.ftz (x f a) (x f b) (x f d)))
  | .fsqrt g f d a => some (floats s tid g f d [a] roundPrefix (sqrtF (coreFormat f) t.rm t.ftz (x f a)))
  | .frnd g f d a => some (floats s tid g f d [a] roundPrefix (rndF (coreFormat f) t.rm t.ftz (x f a)))
  | .fmin g f d a b => some (floats s tid g f d [a, b] {} (minMaxF (coreFormat f) t.ftz false (x f a) (x f b)))
  | .fmax g f d a b => some (floats s tid g f d [a, b] {} (minMaxF (coreFormat f) t.ftz true (x f a) (x f b)))
  | .fabs g f d a => some (floats s tid g f d [a] {} ⟨x f a % 2 ^ ((coreFormat f).width - 1), 0⟩)
  | .fneg g f d a => some (floats s tid g f d [a] {}
      ⟨(x f a + 2 ^ ((coreFormat f).width - 1)) % 2 ^ (coreFormat f).width, 0⟩)
  | .fclass g f d a => some (floats s tid g f d [a] {} ⟨classF (coreFormat f) (x f a), 0⟩)
  | .fcmp g f c p a b =>
      let r := cmpF (coreFormat f) t.ftz c.toNat (x f a) (x f b)
      some (onThread s tid 1 { guard := some g, reads := [a, b] } fun u => (u.setPred p r.1).raise r.2)
  | .frcp g f d a => some (floats s tid g f d [a] tablePrefix (specialF .rcp (coreFormat f) t.ftz (x f a)))
  | .frsq g f d a => some (floats s tid g f d [a] tablePrefix (specialF .rsq (coreFormat f) t.ftz (x f a)))
  | .fexp2 g f d a => some (floats s tid g f d [a] tablePrefix (specialF .exp2 (coreFormat f) t.ftz (x f a)))
  | .flog2 g f d a => some (floats s tid g f d [a] tablePrefix (specialF .log2 (coreFormat f) t.ftz (x f a)))
  | .fsin g f d a => some (floats s tid g f d [a] tablePrefix (trigF (coreFormat f) t.rm t.ftz false (x f a)))
  | .fcos g f d a => some (floats s tid g f d [a] tablePrefix (trigF (coreFormat f) t.rm t.ftz true (x f a)))
  | .fcvt g d a src dst =>
      let r := convert src.toNat dst.toNat t.rm t.satKind t.ftz (t.rd a).toNat
      let accept : Accept := { rm := true, arith := true, unit := (floatOf dst.toNat).isSome, ftz := true }
      some (onThread s tid 2 { guard := some g, reads := [a], writes := [d], accept := accept }
        fun u => (u.wr d (cvtValue dst.toNat r.bits)).raise r.fl)
  | _ => none

end Sys2Proof.Claims

open Sys2Proof Sys2Proof.Machine Sys2Proof.Claims

/-- R163-R167, R208: each register-only integer instruction, the immediate forms, the bit fields and RNGB complete for a thread
that can execute them, and leave their destination with the value the manual gives, under every prefix they accept;
nothing else of the state changes but what completing an instruction changes. -/
def Obligations.IntegerResults : Prop :=
  Completes intEffect


/-- R168, R169: each integer compare and QOP completes and writes its predicate, q0 excepted, and nothing else. -/
def Obligations.PredicateResults : Prop := Completes predEffect

/-- R170-R176, R178: each core float instruction and FCVT completes, writes its result, saturated by the prefix's kind,
and raises the flags of the operation and no other. The underflow of a narrowing FCVT is the model's reading (log
entry 68). -/
def Obligations.FloatResults : Prop := Completes floatEffect

namespace Sys2Proof.Claims

open Sys2Proof.Machine

/-! ## Loads, stores and atomics -/

/-- A load, store, ATOM or CAS as the manual gives it (R184-R191): its words and prologue, its address, bytes and operation,
and the registers that take part. -/
structure MemForm where
  words : Nat
  spec : Spec
  op : AccessOp
  va : Word
  size : Nat
  gd : BitVec 6 := 0
  value : Word := 0
  expected : Word := 0
  /-- it waits for the invalidations of earlier stores to other packages (R103, R104) -/
  release : Bool := false
  /-- the order an ATOM or CAS states in its own word (R189); of a load or store, its prefix's -/
  ord : Option (BitVec 2) := none

/-- Prefixes: acquire and hints before a plain load, release and hints before a plain store, hints before the rest. -/
def loadPrefix : Accept := { mem := true, acq := true }
/-- Before a plain store. -/
def storePrefix : Accept := { mem := true, rel := true }
/-- Before LD.acq, ST.rel, ATOM, CAS and PREF. -/
def hintPrefix : Accept := { mem := true }

/-- A load of a size into gd. -/
def loads (words : Nat) (g : Option Guard) (rs : List (BitVec 6)) (d : BitVec 6) (size : Nat) (sx : Bool) (va : Word)
    (accept : Accept := loadPrefix) : MemForm :=
  { words := words, spec := { guard := g, reads := rs, writes := [d], accept := accept }, op := .load sx
    va := va, size := size, gd := d }

/-- A store of a size of register d, which it reads. -/
def stores (t : Thread) (words : Nat) (g : Option Guard) (rs : List (BitVec 6)) (d : BitVec 6) (size : Nat) (va : Word)
    (accept : Accept := storePrefix) (release : Bool := t.ord == 2) : MemForm :=
  { words := words, spec := { guard := g, reads := d :: rs, accept := accept }, op := .store
    va := va, size := size, value := t.rd d, release := release }

/-- The loads and stores of every addressing form (R184, Tables 7.10-7.12, 9.9). -/
def loadStoreForm (t : Thread) (i : Instr) : Option MemForm :=
  let indexed (sz : BitVec 2) (a b : BitVec 6) : Word := t.rd a + t.rd b * BitVec.ofNat 64 (2 ^ sz.toNat)
  let short (a : BitVec 6) (imm : BitVec 12) : Word := t.rd a + imm.signExtend 64
  let offset (a : BitVec 6) (imm : BitVec 32) : Word := t.rd a + imm.signExtend 64
  match i with
  | .ldIndexed g sz d a b => some (loads 1 g [a, b] d (2 ^ sz.toNat) false (indexed sz a b))
  | .ldSxIndexed g sz d a b => some (loads 1 g [a, b] d (2 ^ sz.toNat) true (indexed sz a b))
  | .stIndexed g sz d a b => some (stores t 1 g [a, b] d (2 ^ sz.toNat) (indexed sz a b))
  | .ldAcqIndexed g sz d a b => some (loads 1 g [a, b] d (2 ^ sz.toNat) false (indexed sz a b) hintPrefix)
  | .stRelIndexed g sz d a b => some (stores t 1 g [a, b] d (2 ^ sz.toNat) (indexed sz a b) hintPrefix true)
  | .ldBShort d a imm => some (loads 1 none [a] d 1 false (short a imm))
  | .ldHShort d a imm => some (loads 1 none [a] d 2 false (short a imm))
  | .ldWShort d a imm => some (loads 1 none [a] d 4 false (short a imm))
  | .ldDShort d a imm => some (loads 1 none [a] d 8 false (short a imm))
  | .ldSxBShort d a imm => some (loads 1 none [a] d 1 true (short a imm))
  | .ldSxHShort d a imm => some (loads 1 none [a] d 2 true (short a imm))
  | .ldSxWShort d a imm => some (loads 1 none [a] d 4 true (short a imm))
  | .stBShort d a imm => some (stores t 1 none [a] d 1 (short a imm))
  | .stHShort d a imm => some (stores t 1 none [a] d 2 (short a imm))
  | .stWShort d a imm => some (stores t 1 none [a] d 4 (short a imm))
  | .stDShort d a imm => some (stores t 1 none [a] d 8 (short a imm))
  | .ldOffset32 g sz d a imm => some (loads 2 g [a] d (2 ^ sz.toNat) false (offset a imm))
  | .ldSxOffset32 g sz d a imm => some (loads 2 g [a] d (2 ^ sz.toNat) true (offset a imm))
  | .stOffset32 g sz d a imm => some (stores t 2 g [a] d (2 ^ sz.toNat) (offset a imm))
  | .ldAcqOffset32 g sz d a imm => some (loads 2 g [a] d (2 ^ sz.toNat) false (offset a imm) hintPrefix)
  | .stRelOffset32 g sz d a imm => some (stores t 2 g [a] d (2 ^ sz.toNat) (offset a imm) hintPrefix true)
  | _ => none

/-- ATOM and CAS (R189, R190): .rel and .ar are releases. -/
def atomicForm (t : Thread) (i : Instr) : Option MemForm :=
  match i with
  | .atom g ord d a b disp dbl op => some
      { words := 2, spec := { guard := g, reads := [a, b], writes := [d], accept := hintPrefix }, op := .atom op.toNat
        va := t.rd a + disp.signExtend 64, size := if dbl then 8 else 4, gd := d, value := t.rd b
        release := ord.toNat ≥ 2, ord := some ord }
  | .cas g ord d a b disp dbl => some
      { words := 2, spec := { guard := g, reads := [a, b, d], writes := [d], accept := hintPrefix }, op := .cas
        va := t.rd a + disp.signExtend 64, size := if dbl then 8 else 4, gd := d, value := t.rd b, expected := t.rd d
        release := ord.toNat ≥ 2, ord := some ord }
  | _ => none

/-- Every load, store and atomic. -/
def memForm (t : Thread) (i : Instr) : Option MemForm := loadStoreForm t i <|> atomicForm t i

/-- The access a form makes at a place. -/
def MemForm.access (f : MemForm) (s : State) (tid : Nat) (l : Loc) : Access :=
  ⟨f.op, f.va.toNat, l, f.size, f.gd.toNat, f.value.toNat, f.expected.toNat, s.after tid f.words, !(s.thread tid).prv,
    (s.thread tid).hint, (f.ord.map BitVec.toNat).getD (s.thread tid).ord⟩

/-- A store that deterministic mode keeps in its group's private buffer (R368): `st` holds what the buffer held, and of each byte
stored the thread's new value in place of its earlier one. -/
def Buffered (s : State) (tid : Nat) (f : MemForm) (l : Loc) (st : SMap (List DetByte)) : Prop :=
  let old := s.storesNow (s.thread tid).gid
  ∀ k, st.get k = if l.key ≤ k ∧ k < l.key + f.size then
      ⟨(s.thread tid).idx, BitVec.ofNat 8 (f.value.toNat / 256 ^ (k - l.key)), f.va.toNat + (k - l.key)⟩ ::
        (old.get k).filter (fun b => decide (b.thread ≠ (s.thread tid).idx))
    else old.get k

/-- The entry of a group's atomic buffer that an atomic of a thread becomes in deterministic mode (R366): the access with its place,
operands and order, who issues it, its place in the program order, and its own number. -/
def entryOf (s : State) (tid : Nat) (a : Access) : AtomEntry :=
  ⟨a, (s.thread tid).gid % 1024, (s.thread tid).idx, tid, (s.thread tid).order, s.nextAtom, 0, 0, false⟩

/-- The state once an entry is in the buffer: its destination is pending, but g0 never (R366, R367). -/
def withEntry (s : State) (tid : Nat) (d : BitVec 6) (e : AtomEntry) : State :=
  let t := s.thread tid
  let g := s.group t.gid
  { (s.setGroup t.gid { g with atoms := g.atoms ++ [e] }).setThread tid { t with
      order := t.order + 1, pend := if d = 0 then t.pend else t.pend.set d.toNat (s.nextAtom + 1) } with
    nextAtom := s.nextAtom + 1 }

/-- What a form needs of its leaf (R401). -/
def MemForm.need (f : MemForm) : Need :=
  match f.op with
  | .load _ => { r := true }
  | .store => { w := true }
  | _ => { r := true, w := true }

/-- Nothing stands in the way of an access of a thread at a place: it is not held in a deterministic-mode buffer, its place
is in the thread's own unit, in device memory, or (of a load) in a line of another package that this package's L2
holds; in device memory, its page is not frozen, its address not watched, and no link, home or message under way
holds it unless the L1 answers by itself. -/
def Immediate (s : State) (tid : Nat) (a : Access) : Prop :=
  (s.det tid = false ∨ a.loc.buffered = false ∨ ∃ sx, a.op = .load sx) ∧ (s.thread tid).holds = 0 ∧
  match a.loc.space with
  | .sp t => t = unitOf tid
  | .gm _ => True
  | .easel _ => True
  | .host => False
  | .peer _ => s.peerHeld a.loc = true ∧ ∃ sx, a.op = .load sx
  | .hbm => s.isFrozen a.loc = false ∧ s.watchedVa (waveOf (s.thread tid).gid) a.va = false ∧
      (s.l1Hit tid a = true ∨ s.blocked (unitOf tid) a.loc = false)

/-- The line was last transferred for the key slot of an address space, under the key in force there, so that no byte changes
on its transfer (R421, R422). -/
def KeyedFor (s : State) (asid : Nat) (l : Loc) : Prop :=
  l.space = .hbm → s.lineSlot.get (lineOf l.addr) = (if asid = 0 then 0 else (s.asidEntry asid).keyslot.toNat) ∧
    s.lineKey.get (lineOf l.addr) = s.keyOf asid

/-- So it was for the address space of a thread. -/
def Keyed (s : State) (tid : Nat) (l : Loc) : Prop := KeyedFor s (s.asidOf tid) l

/-- Every store of a thread is performed: no invalidation of one of them is outstanding in another package (R104). -/
def AllPerformed (s : State) (tid : Nat) : Prop := ∀ p ∈ s.peerInv, p.writer ≠ .thread tid

/-- The byte a read meets at a place: this package's L2 copy of a line of another package it holds (R97), else memory's. -/
def cachedByte (s : State) (l : Loc) : Byte :=
  match l.space with
  | .peer p =>
    let x := s.peerL2.get (peerKey p l.addr)
    if x.held = true then x.bytes.getD (l.addr % 128) 0 else s.byteAt l
  | _ => s.byteAt l

/-- The byte a thread's load sees at a place: its own, where its group's private store buffer holds one of it at the place its
address leads to now (R368, R407). -/
def visibleByte (s : State) (tid : Nat) (l : Loc) : Byte :=
  match ((s.storesNow (s.thread tid).gid).get l.key).find? (fun b => b.thread == (s.thread tid).idx) with
  | some b => b.value
  | none => cachedByte s l

/-- The little-endian number in `n` bytes from a place on, byte by byte (R5). -/
def littleEndian (byte : Loc → Byte) (l : Loc) (n : Nat) : Nat :=
  ((List.range n).map fun k => (byte (l.plus k)).toNat * 256 ^ k).sum

/-- A loaded number of `n` bytes as a register value: sign- or zero-extended (R184). -/
def extended (sx : Bool) (n v : Nat) : Word :=
  if sx ∧ 2 ^ (8 * n - 1) ≤ v then BitVec.ofInt 64 ((v : Int) - 2 ^ (8 * n)) else BitVec.ofNat 64 v

/-- A load's effect on the copies of its line (R93): none outside device memory. -/
def read (s : State) (tid : Nat) (l : Loc) : State :=
  match l.space with
  | .hbm => s.cohRead (unitOf tid) (lineOf l.addr) (s.thread tid).hint
  | _ => s

/-- The hint an atomic's line takes at its home: the L2 keeps it, unless the prefix says that no cache does (R186). -/
def homeHint (s : State) (tid : Nat) : Nat := if (s.thread tid).hint = 2 then 2 else 1

/-- What the home does before an atomic of a thread (R97, R99), whether it then writes or not: the owner's copy is recalled and
every other invalidated, the requester's own and those of other packages included. -/
def recalled (s : State) (tid : Nat) (l : Loc) : State :=
  match l.space with
  | .hbm => (s.cohAtomic (lineOf l.addr) (homeHint s tid)).invalidatePeers (lineOf l.addr) (.thread tid)
  | _ => s

/-- After an acquire the thread's next instruction waits until the invalidations its own atomic sent to other packages have been
received (R103, R104). -/
def acquired (u : State) (tid : Nat) (acquire : Bool) : State :=
  if acquire = true ∧ ∃ v ∈ u.peerInv, v.writer = .thread tid then
    u.setThread tid { u.thread tid with wait := some .fence }
  else u

/-- The result of an ATOM operation on old value m and operand v of `n` bytes (Table 9.10). -/
def atomResult (op n m v : Nat) : Nat :=
  let v := v % 2 ^ (8 * n)
  let signed (x : Nat) : Int := if 2 ^ (8 * n - 1) ≤ x then (x : Int) - 2 ^ (8 * n) else x
  match op with
  | 0 => (m + v) % 2 ^ (8 * n)
  | 1 => m &&& v
  | 2 => m ||| v
  | 3 => m ^^^ v
  | 4 => if signed m ≤ signed v then m else v
  | 5 => if signed m ≤ signed v then v else m
  | 6 => min m v
  | 7 => max m v
  | 8 => v
  | 9 => if m ≥ v then 0 else m + 1
  | 10 => if m = 0 ∨ m > v then v else m - 1
  | _ => (addF fp32 0 false m v).bits

/-! ## Prefetch, fences and monitors -/

/-- The fences, and what each waits for (R103, R104, R188, R207). -/
def fenceEffect (s : State) (tid : Nat) (i : Instr) : Option Effect :=
  let fence (g : Guard) (needs : Prop) (noHandler : Bool) : Effect :=
    ⟨1, { guard := some g, noHandler := noHandler }, needs, s, s.after tid 1⟩
  match i with
  | .fenceFull g => some (fence g (AllPerformed s tid) false)
  | .fenceAcq g => some (fence g True false)
  | .fenceRel g => some (fence g (AllPerformed s tid) false)
  | .fencePort g => some (fence g (∀ p ∈ (s.thread tid).ports, ∀ x ∈ p.2, x.done = true) true)
  | _ => none

/-- Scratchpad bytes of a tile: 24 MiB less 768 KiB for each step of its split (R19). -/
def scratchBytes (s : State) (tile : Nat) : Nat := 24 * 2 ^ 20 - (s.tile tile).sram * (768 * 2 ^ 10)

/-- A leaf that does not allow an access at a level: without R, W or U where the access needs it, or of the memory type that is
none (R88, R401). -/
def LeafRefuses (e : Word) (need : Need) (prv : Bool) : Prop :=
  (need.r = true ∧ e.getLsbD 2 = false) ∨ (need.w = true ∧ e.getLsbD 3 = false) ∨ (prv = false ∧ e.getLsbD 5 = false) ∨
    (e.getLsbD 6 = true ∧ e.getLsbD 7 = true)

end Sys2Proof.Claims

open Sys2Proof Sys2Proof.Machine Sys2Proof.Claims


/-- R93, R97, R184, R185, R194, R368: a load of any form whose place can be read at once and is not poisoned completes and
leaves in its destination the little-endian number of the bytes it sees at its address, sign- or zero-extended; of memory
and the threads, its line's way into the caches changes at most the monitors of lines that leave them. -/
def Obligations.LoadResults : Prop :=
  ∀ (i : Instr) (f : MemForm) (sx : Bool) (s : State) (tid : Nat) (l : Loc), loadStoreForm (s.thread tid) i = some f →
    f.op = .load sx → wellFormed i = true → Able s tid f.spec →
    s.resolve (s.who tid) f.need f.va.toNat f.size = .at l → Immediate s tid (f.access s tid l) → s.poisoned l = false →
    Keyed s tid l →
    let r := read s tid l
    exec i s = .next ((r.setThread tid
      ((r.thread tid).wr f.gd (extended sx f.size (littleEndian (visibleByte r tid) l f.size)))).complete tid
        (s.after tid f.words) (!(s.thread tid).prv)) ∧
    r.mem = s.mem ∧ ∀ m, r.thread m = { s.thread m with mon := (r.thread m).mon }

/-- R184, R368, R376: a store of any form whose place can be written at once completes; the bytes are written, folded into
the store digest, and the thread goes on. In deterministic mode, outside SP, it completes with its bytes kept in the
group's private buffer for its thread, and memory as it was; the store that would make the 16,385th line there raises
ACCESS_FAULT with its address. -/
def Obligations.StoreResults : Prop :=
  ∀ (i : Instr) (f : MemForm) (s : State) (tid : Nat) (l : Loc), loadStoreForm (s.thread tid) i = some f → f.op = .store →
    wellFormed i = true → Able s tid f.spec → (f.release = true → AllPerformed s tid) →
    s.resolve (s.who tid) f.need f.va.toNat f.size = .at l →
    (Immediate s tid (f.access s tid l) →
      exec i s = .next (((s.performWrite (s.who tid) l (leBytes f.size f.value.toNat) (s.thread tid).hint).fold tid
        f.va.toNat f.value.toNat f.size).complete tid (s.after tid f.words) (!(s.thread tid).prv))) ∧
    (s.det tid = true → l.buffered = true → (s.storesNow (s.thread tid).gid).wf = true →
      ∃ st, st.wf = true ∧ Buffered s tid f l st ∧
        exec i s = .next (if (st.map fun p => p.1 / 128).dedup.length ≤ 16384 then
          ((s.setGroup (s.thread tid).gid { s.group (s.thread tid).gid with stores := st }).fold tid f.va.toNat f.value.toNat
            f.size).complete tid (s.after tid f.words) (!(s.thread tid).prv)
        else s.trap tid 0x06 (s.thread tid).pc f.va))

/-- R99, R189, R190: an ATOM or CAS whose place can be updated at once and is not poisoned completes, leaving the old value in
its destination; the home recalls and invalidates every copy first; an ATOM stores the result of its operation, a CAS
its operand when the old value is the expected one, and otherwise nothing. After an acquire the next instruction waits
for the invalidations in other packages (R103). In deterministic mode, outside SP, it completes as an entry of its group's
atomic buffer, its destination pending, and nothing is sent to its home; the 4,097th entry raises ACCESS_FAULT with its
address (R366, R367). -/
def Obligations.AtomicResults : Prop :=
  ∀ (i : Instr) (f : MemForm) (s : State) (tid : Nat) (l : Loc), atomicForm (s.thread tid) i = some f →
    wellFormed i = true → Able s tid f.spec → (f.release = true → AllPerformed s tid) →
    s.resolve (s.who tid) f.need f.va.toNat f.size = .at l →
    (s.det tid = true → l.buffered = true →
      exec i s = .next (if (s.group (s.thread tid).gid).atoms.length < 4096 then
        (withEntry s tid f.gd (entryOf s tid (f.access s tid l))).complete tid (s.after tid f.words) (!(s.thread tid).prv)
      else s.trap tid 0x06 (s.thread tid).pc f.va)) ∧
    (Immediate s tid (f.access s tid l) → s.poisoned l = false → Keyed s tid l →
    let m := littleEndian s.byteAt l f.size
    let stored (v : Nat) : State :=
      (((recalled s tid l).performWrite { s.who tid with unit := 1000 } l (leBytes f.size v) (homeHint s tid)).markFor (s.who tid)
        l).fold tid f.va.toNat v f.size
    let done (u : State) : Host.Outcome State Fault Refusal := .next (acquired ((u.setThread tid
      ((u.thread tid).wr f.gd (BitVec.ofNat 64 m))).complete tid (s.after tid f.words) (!(s.thread tid).prv)) tid
        (f.ord == some 1 || f.ord == some 3))
    (∀ op, f.op = .atom op → exec i s = done (stored (atomResult op f.size m f.value.toNat))) ∧
    (f.op = .cas → m = f.expected.toNat % 2 ^ (8 * f.size) → exec i s = done (stored f.value.toNat)) ∧
    (f.op = .cas → m ≠ f.expected.toNat % 2 ^ (8 * f.size) → exec i s = done (recalled s tid l)))

/-- R5, R184: what a store writes and what it leaves: every byte of the stored range takes its byte of the little-endian
value, and every byte outside it, of every memory, reads as before. -/
def Obligations.StoreBytes : Prop :=
  ∀ (s : State) (w : Who) (l k : Loc) (n v hint : Nat), s.mem.wf = true → KeyedFor s w.asid l →
    (s.performWrite w l (leBytes n v) hint).byteAt k =
      if l.key ≤ k.key ∧ k.key < l.key + n then BitVec.ofNat 8 (v / 256 ^ (k.key - l.key)) else s.byteAt k

/-- R40, R87, R88, R185, R191, R401: the checks of an access come in their order and each raises its own cause, c.tval the address,
and changes nothing but the thread that traps: bits above the address space; alignment; a range of the map that holds
nothing, an offset beyond the scratchpad or beyond the group's own range (which is taken as an offset into that range, log
entry 15); a held translation whose leaf does not allow the access or has no memory type; the window of a tile without a
group or of another address space; and of all but a plain store, a poisoned line. -/
def Obligations.AccessFaults : Prop :=
  ∀ (i : Instr) (f : MemForm) (s : State) (tid : Nat), memForm (s.thread tid) i = some f → wellFormed i = true →
    Able s tid f.spec → (f.release = true → AllPerformed s tid) →
    let va := f.va.toNat
    let raises (cause : Nat) : Prop := exec i s = .next (s.trap tid cause (s.thread tid).pc f.va)
    let own := va - 0x01E0000000000000
    let tile := (va - 0x01F0000000000000) / 0x02000000
    let offset := (va - 0x01F0000000000000) % 0x02000000
    (2 ^ 57 ≤ va → raises 0x06) ∧
    (va < 2 ^ 57 → va % f.size ≠ 0 → raises 0x04) ∧
    (va < 2 ^ 57 → va % f.size = 0 →
      (∀ level e, va < 0x01E0000000000000 → unitOf tid < 160 →
        s.tlbLookup (unitOf tid) (s.asidOf tid) va = some (level, e) → LeafRefuses e f.need (s.thread tid).prv → raises 0x06) ∧
      (0x01E0000000000000 ≤ va → own < 0x02000000 →
        (isControl tid = true → scratchBytes s (unitOf tid) < own + f.size → raises 0x06) ∧
        (isControl tid = false → (s.group (s.thread tid).gid).gmSize < own + f.size → raises 0x06)) ∧
      (0x01E0000002000000 ≤ va → va < 0x01F0000000000000 → raises 0x06) ∧
      (0x01F0000000000000 ≤ va → tile < 96 → scratchBytes s tile < offset + f.size → raises 0x06) ∧
      (0x01F0000000000000 ≤ va → tile < 96 → tile ≠ unitOf tid →
        (s.tile tile).group = 0 ∨ (s.wave (waveOf ((s.tile tile).group - 1))).asid ≠ s.asidOf tid → raises 0x06) ∧
      (0x01F00000C0000000 ≤ va → raises 0x06)) ∧
    ∀ l, f.op ≠ .store → s.resolve (s.who tid) f.need va f.size = .at l → Immediate s tid (f.access s tid l) →
      s.poisoned l = true → raises 0x07

/-- R103, R104, R188, R207: each fence completes once what it waits for is done, and changes nothing else. -/
def Obligations.FenceResults : Prop := Completes fenceEffect

/-- R187, R194: PREF never faults and is never waited for: whatever its address, it completes, and no register and no byte of
memory changes; the line it brings may push another out, whose monitors are then triggered. -/
def Obligations.PrefetchCompletes : Prop :=
  ∀ (k : BitVec 2) (a : BitVec 6) (imm : BitVec 12) (s : State) (tid : Nat), wellFormed (.pref k a imm) = true →
    Able s tid { reads := [a], accept := hintPrefix } →
    ∃ u : State, exec (.pref k a imm) s = .next (u.complete tid (s.after tid 1) (!(s.thread tid).prv)) ∧
      u.mem = s.mem ∧ ∀ m, u.thread m = { s.thread m with mon := (u.thread m).mon }

/-- R193, R194: MON arms the thread's monitor on the aligned 128-byte block that holds its address, with the block's bytes as
the thread's loads see them, once they can be read. MWAIT completes at once, disarming the monitor, when the monitor has
been triggered or is not armed; otherwise the thread waits at it and its PC stays. -/
def Obligations.MonitorResults : Prop :=
  (∀ (g : Guard) (a : BitVec 6) (s : State) (tid : Nat) (l : Loc), wellFormed (.mon g a) = true →
     Able s tid { guard := some g, reads := [a] } →
     let va := ((s.thread tid).rd a).toNat
     let b : Loc := ⟨l.space, l.addr - va % 128⟩
     s.resolve (s.who tid) { r := true } va 1 = .at l → l.space ≠ .host → s.poisoned l = false →
     s.readHeld (s.who tid) b = false → (l.space = .hbm → s.watchedVa (waveOf (s.thread tid).gid) va = false) →
     let r := s.prepareRead (s.who tid) b 0
     exec (.mon g a) s = .next ((r.setThread tid { r.thread tid with
       mon := ⟨true, false, b, va - va % 128, (List.range 128).map fun k => visibleByte r tid (b.plus k)⟩ }).complete tid
         (s.after tid 1) (!(s.thread tid).prv))) ∧
  ∀ (g : Guard) (s : State) (tid : Nat), wellFormed (.mwait g) = true → Able s tid { guard := some g } →
    (((s.thread tid).mon.armed = false ∨ (s.thread tid).mon.triggered = true) →
      exec (.mwait g) s = .next (s.finish tid 1 fun t => { t with mon := ⟨false, false, ⟨.hbm, 0⟩, 0, []⟩ })) ∧
    ((s.thread tid).mon.armed = true → (s.thread tid).mon.triggered = false →
      ∃ u, exec (.mwait g) s = .next u ∧ (u.thread tid).wait = some .mwait ∧ (u.thread tid).pc = (s.thread tid).pc)

namespace Sys2Proof.Claims

open Sys2Proof.Machine

/-! ## Control flow -/

/-- NOP, branches, calls and loops (R179-R181, R120): a target is the instruction's address plus four times the signed offset;
a register target is a multiple of 4. -/
def flowEffect (s : State) (tid : Nat) (i : Instr) : Option Effect :=
  let t := s.thread tid
  let flow (g : Guard) (words : Nat) (needs : Prop) (next : Word) (f : Thread → Thread) (reads writes : List (BitVec 6)) :
      Option Effect :=
    some ⟨words, { guard := some g, transfer := true, reads := reads, writes := writes }, needs,
      s.setThread tid (f t), next⟩
  let near (off : BitVec 18) : Word := t.pc + 4 * off.signExtend 64
  match i with
  | .nop g => some ⟨1, { guard := some g }, True, s, s.after tid 1⟩
  | .bra g off => some ⟨1, { guard := some g, transfer := true }, True, s, near off⟩
  | .call g off => flow g 1 True (near off) (·.wr 14 (s.after tid 1)) [] [14]
  | .callr g d a => flow g 1 ((t.rd a).toNat % 4 = 0) (t.rd a) (·.wr d (s.after tid 1)) [a] [d]
  | .jmpr g a => some ⟨1, { guard := some g, transfer := true, reads := [a] }, (t.rd a).toNat % 4 = 0, s, t.rd a⟩
  | .ret g a => some ⟨1, { guard := some g, transfer := true, reads := [a] }, (t.rd a).toNat % 4 = 0, s, t.rd a⟩
  | .loop g a imm =>
      let lend := t.pc + 4 * imm.signExtend 64
      if t.rd a = 0 then some ⟨2, { guard := some g, transfer := true, reads := [a] }, True, s, lend + 4⟩
      else flow g 2 True (s.after tid 2)
        (fun u => { u with loops := (⟨s.after tid 2, lend, t.rd a⟩ :: u.loops).take 4 }) [a] []
  | .lend g =>
      match t.loops.dropWhile (fun e => e.lend != t.pc) with
      | [] => none
      | e :: rest =>
        if e.count = 1 then flow g 1 True (s.after tid 1) (fun u => { u with loops := rest }) [] []
        else flow g 1 True e.body (fun u => { u with loops := { e with count := e.count - 1 } :: rest }) [] []
  | _ => none

/-! ## CSRs -/

/-- The bits of a CSR that are no reserved field (Table 0.4 and the CSR tables). -/
def csrDefined (n : Nat) : Word :=
  match n with
  | 0x000 => 0x1F
  | 0x001 => 0xFF
  | 0x002 => 0x01FFFFFFFFFFFFFC
  | 0x004 => 0x01FFFFFFFFFFFFFC
  | 0x005 => 0x01FFFFFFFFFFFFC1
  | 0x006 => 0xFFF
  | 0x010 => 0xF
  | 0x011 => 0x1F
  | 0x020 => 0xFFFFFFFF0F
  | 0x040 => 0x01FFFFFFFFFFFFFD
  | 0x041 => 0xFFFF
  | 0x051 => 0xFFFFFFFF807FFFFF
  | 0x060 => 0xFFFF8FFF
  | 0x061 => 0xFFFFFFFF03FF03FF
  | 0x062 => 0xFFFFFFFF0000770F
  | 0x070 => 0x7F
  | _ => 0xFFFFFFFFFFFFFFFF

/-- CSRs written at level S only (R380): the trap registers, c.status, c.tvec, c.tcut, c.asid, c.digest and c.patbase. -/
def csrSystem (n : Nat) : Bool := [0, 1, 2, 3, 4, 5, 6, 0x21, 0x40].contains n

/-- A thread after its RW CSR takes a value, and its W1C field the ones of a value; read-only fields keep theirs. -/
def csrSet (t : Thread) (n : Nat) (v : Word) : Thread :=
  match n with
  | 0x000 => { t with pprv := v.getLsbD 1, step := v.getLsbD 2 }
  | 0x001 => { t with tcause := v.setWidth 8 }
  | 0x002 => { t with tepc := v }
  | 0x003 => { t with tval := v }
  | 0x004 => { t with tvec := v }
  | 0x005 => { t with tcut := v }
  | 0x010 => { t with fmode := v.setWidth 4 }
  | 0x011 => { t with fl := v.setWidth 5 }
  | 0x020 => { t with chkmiss := if v.getLsbD 3 then false else t.chkmiss }
  | 0x021 => { t with digest := v }
  | 0x022 => { t with rkey := v }
  | 0x040 => { t with patbase := v }
  | _ => t

/-- What a CSR that a thread's own registers hold reads as. -/
def csrOwn (t : Thread) (n : Nat) : Option Word :=
  match n with
  | 0x001 => some (t.tcause.setWidth 64)
  | 0x002 => some t.tepc
  | 0x003 => some t.tval
  | 0x004 => some t.tvec
  | 0x005 => some t.tcut
  | 0x010 => some (t.fmode.setWidth 64)
  | 0x011 => some (t.fl.setWidth 64)
  | 0x021 => some t.digest
  | 0x022 => some t.rkey
  | 0x030 => some t.govmask
  | 0x040 => some t.patbase
  | _ => none

/-- The fields of the CSRs that report the machine around a thread, each its lowest bit, width and value (Tables 1.4-1.7, 17.6,
19.10, 21.1, 23.2, 25.6, 25.9): the bits that no field names read zero. -/
def csrFields (s : State) (tid n : Nat) : Option (List (Nat × Nat × Nat)) :=
  let t := s.thread tid
  let w := s.waveOfThread tid
  let ctl := w.node.ctl
  let frame := ctl.extractLsb' 32 32
  let proof := decide (tid < 65536)
  let unit := if proof then tid / 1024 else tid - 65536
  let die := if proof then unit / 32 else unit / 12
  let meter := if proof then 9 + die else 1 + die
  match n with
  | 0x000 => some [(4, 1, w.mark.toNat), (3, 1, (ctl.getLsbD 22).toNat), (2, 1, t.step.toNat), (1, 1, t.pprv.toNat),
      (0, 1, t.prv.toNat)]
  | 0x006 => some [(0, 12, w.asid)]
  | 0x020 => some [(8, 32, (s.group t.gid).epoch), (3, 1, t.chkmiss.toNat), (1, 2, w.recMode.toNat),
      (0, 1, (ctl.getLsbD 23).toNat)]
  | 0x031 =>
      let entry := if s.feature 4 then s.frames.find? fun p => p.2.present && p.2.entry.frame.toNat == frame.toNat else none
      some [(0, 64, match entry with | some p => p.2.entry.deadline.toNat | none => 2 ^ 64 - 1)]
  | 0x041 => some ((List.range 16).map fun k => (k, 1, ((s.group t.gid).patterns.get k).valid.toNat))
  | 0x050 => some [(0, 64, s.cycle)]
  | 0x051 => some [(32, 32, s.energy.window), (31, 1, (s.energy.overdraft.get meter).toNat),
      (0, 23, min (s.energy.used.get meter) (2 ^ 23 - 1))]
  | 0x060 => some [(16, 16, s.host.pkgid.toNat), (15, 1, proof.toNat), (8, 4, die), (0, 8, unit)]
  | 0x061 => some [(32, 32, waveOf t.gid), (16, 10, t.gid), (0, 10, t.idx)]
  | 0x062 => some [(32, 32, frame.toNat), (12, 3, w.prio), (8, 3, w.depth), (0, 4, (ctl.extractLsb' 28 4).toNat)]
  | 0x070 => some ((List.range 7).map fun k => (k, 1, (s.host.facc.getLsbD k).toNat))
  | _ => none

/-- CSRR, CSRW and CSRS (R209, R210): a write needs its reserved bits zero and a rounding mode of c.fmode that exists;
CSRS sets in each read-write field the bits of its operand. -/
def csrEffect (s : State) (tid : Nat) (i : Instr) : Option Effect :=
  let t := s.thread tid
  let put (g : Guard) (a : BitVec 6) (n : Nat) (v : Word) : Effect :=
    ⟨2, { guard := some g, reads := [a], privileged := csrSystem n },
      t.rd a &&& ~~~(csrDefined n) = 0 ∧ (n = 0x010 → v.toNat / 2 ≤ 4), s.setThread tid (csrSet t n v), s.after tid 2⟩
  match i with
  | .csrr g d n => some (gives s tid 2 g d [] (s.csrRead tid n.toNat))
  | .csrw g a n => some (put g a n.toNat (t.rd a))
  | .csrs g a n =>
      let keep : Word := match n.toNat with
        | 0x000 => s.csrRead tid 0 &&& 6
        | 0x020 => 0
        | m => s.csrRead tid m
      some (put g a n.toNat (t.rd a ||| keep))
  | _ => none

/-! ## Semaphores, ports, patterns, flags -/

/-- A tile after one of its counts changes. -/
def State.withCount (s : State) (tile sem : Nat) (f : Nat → Nat) : State :=
  s.setTile tile { s.tile tile with sems := (s.tile tile).sems.upd sem f }

/-- The way from a thread's unit to a tile is open: it is the thread's own, or no link between them holds (R411). -/
def OpenWay (s : State) (tid tile : Nat) : Prop :=
  tile = unitOf tid ∨ (s.linkHeld (unitOf tid) = false ∧ s.linkHeld tile = false)

/-- ENQP, ENQP.nb, DEQP and PORTQ (R202-R205, Tables 9.14-9.16): the port table names the engine; a push joins its queue and
is counted on the port, a result leaves the port. -/
def portEffect (s : State) (tid : Nat) (i : Instr) : Option Effect :=
  let t := s.thread tid
  let entry (p : Nat) : Nat := s.portEntry tid p
  let named (p : Nat) : Nat := bitsOf (entry p) 24 7
  let tile (p : Nat) : Nat := if named p = 0x7F then tileOf tid else named p
  let engine (p : Nat) : Nat := bitsOf (entry p) 20 4
  let usable (p : Nat) : Prop := bitOf (entry p) 31 = true ∧ (named p = 0x7F → isControl tid = true) ∧
    ((isControl tid = true ∧ tile p = tileOf tid) ∨ s.tileOpen (s.who tid) (tile p) = true)
  let pushed (a b p : BitVec 6) : State :=
    let n := p.toNat
    let g := s.engine (tile n) (engine n)
    let cmd : PortCommand := ⟨⟨tid, n, s.nextPush, t.gid, t.rkey, s.asidOf tid⟩, t.rd b ++ t.rd a⟩
    let s1 := s.setEngine (tile n) (engine n) { g with portq := g.portq ++ [cmd] }
    let u := s1.thread tid
    { s1.setThread tid { u with ports := u.ports.upd n (· ++ [⟨s.nextPush, false, 0⟩]) } with nextPush := s.nextPush + 1 }
  match i with
  | .enqp g a b p => some ⟨2, { guard := some g, reads := [a, b] },
      usable p.toNat ∧ (t.ports.get p.toNat).length < 8 ∧ AllPerformed s tid ∧ OpenWay s tid (tile p.toNat), pushed a b p,
      s.after tid 2⟩
  | .enqpNb g q a b p =>
      if (t.ports.get p.toNat).length < 8 then
        let u := pushed a b p
        some ⟨2, { guard := some g, reads := [a, b] }, usable p.toNat ∧ AllPerformed s tid ∧ OpenWay s tid (tile p.toNat),
          u.setThread tid ((u.thread tid).setPred q true), s.after tid 2⟩
      else some ⟨2, { guard := some g, reads := [a, b] }, usable p.toNat, s.setThread tid (t.setPred q false), s.after tid 2⟩
  | .deqp g d p =>
      match t.ports.get p.toNat with
      | [] => none
      | x :: rest => some ⟨1, { guard := some g, writes := [d] },
          bitOf (entry p.toNat) 31 = true ∧ x.done = true ∧ x.result.extractLsb' 32 8 = 0,
          s.setThread tid { t.wr d x.result with ports := t.ports.set p.toNat rest }, s.after tid 1⟩
  | .portq g d p =>
      let l := t.ports.get p.toNat
      some (gives s tid 1 g d [] (BitVec.ofNat 64 (l.length + 16 * (l.takeWhile (·.done)).length
        + 256 * (decide (8 ≤ l.length)).toNat + 512 * (bitOf (entry p.toNat) 31).toNat)))
  | _ => none

/-- PATLD, PATDR, PATQ and XOP (R326-R329) on a slot no command is bound to; PATLD's image has been read already. -/
def tattingEffect (s : State) (tid : Nat) (i : Instr) : Option Effect :=
  let t := s.thread tid
  let slot (k : BitVec 4) : PatSlot := (s.group t.gid).patterns.get k.toNat
  let put (k : BitVec 4) (p : PatSlot) : State :=
    s.setGroup t.gid { s.group t.gid with patterns := (s.group t.gid).patterns.set k.toNat p }
  match i with
  | .patdr g k => some ⟨2, { guard := some g, tat := true },
      (slot k).valid = true ∧ s.slotBound (unitOf tid) k.toNat = false, put k default, s.after tid 2⟩
  | .patq g d k => some ⟨2, { guard := some g, writes := [d], tat := true }, True,
      s.setThread tid (t.wr d (if (slot k).valid then BitVec.ofNat 64 (leNat (((slot k).image.drop 8).take 8)) else 0)),
      s.after tid 2⟩
  | .xop g d a b r k =>
      let img := (slot k).image
      let srcs := [a, b, r].take (patNsrc img)
      let out := patEval img (srcs.map fun x => (t.rd x).toNat)
      let used := put k { slot k with used := true, usedAt := s.cycle }
      let u := used.setThread tid ((used.thread tid).wr d (BitVec.ofNat 64 out.1))
      some ⟨2, { guard := some g, kind := .proof, tat := true, reads := srcs, writes := if patTwo img then [d, d + 1] else [d] },
        (slot k).valid = true ∧ (patTwo img = true → d.getLsbD 0 = false),
        if patTwo img then u.setThread tid ((u.thread tid).wr (d + 1) (BitVec.ofNat 64 out.2)) else u, s.after tid 2⟩
  | _ => none

/-- FLRD, FLCL and GANGQ, and RBGET and RBPUT where no other thread is concerned (R220, R225-R228). -/
def laneEffect (s : State) (tid : Nat) (i : Instr) : Option Effect :=
  let t := s.thread tid
  let own : Half := 1#32 <<< (tid % 32)
  let gang : Half := (s.core (tid / 1024)).gang ||| own
  match i with
  | .flrd g d => some ⟨1, { guard := some g, kind := .proof, writes := [d] }, True,
      s.setThread tid (t.wr d (t.fl.setWidth 64)), s.after tid 1⟩
  | .flcl g a => some ⟨1, { guard := some g, kind := .proof, reads := [a] }, True,
      s.setThread tid { t with fl := t.fl &&& ~~~((t.rd a).setWidth 5) }, s.after tid 1⟩
  | .gangq g d => some ⟨1, { guard := some g, kind := .proof, writes := [d] }, True,
      s.setThread tid (t.wr d (gang.setWidth 64 ||| BitVec.ofNat 64 ((List.range 32).countP gang.getLsbD) <<< 32
        ||| BitVec.ofNat 64 (tid % 1024) <<< 40)), s.after tid 1⟩
  | .rbget g b =>
      if t.held.getLsbD b.toNat then some ⟨1, { guard := some g, kind := .proof }, b.toNat < 6, s, s.after tid 1⟩
      else some ⟨1, { guard := some g, kind := .proof },
        b.toNat < 6 ∧ b.toNat < (s.waveOfThread tid).node.regb ∧ 0 < s.freeBlocks (tid / 1024),
        s.setThread tid (t.takeBlock b.toNat false), s.after tid 1⟩
  | .rbput g b =>
      if t.held.getLsbD b.toNat then none
      else some ⟨1, { guard := some g, kind := .proof }, b.toNat < 6, s, s.after tid 1⟩
  | _ => none

/-! ## The control core's tile -/

/-- A tile with a layout register replaced. -/
def withLayout (s : State) (tile : Nat) (l : BitVec 4) (v : BitVec 128) : State :=
  s.setTile tile { s.tile tile with layouts := (s.tile tile).layouts.set l.toNat v }

/-- The lowest bit and width of a layout field by its number (R266, Table 13.4). -/
def layoutSpan (f : BitVec 6) : Option (Nat × Nat) :=
  [(0, 32), (32, 17), (49, 17), (66, 17), (83, 4), (87, 4), (91, 13), (104, 12), (116, 12)][f.toNat]?

/-- Layout registers, FORK, RDV and TMLD (R246-R249, R266); TMLD's image lies in `img`. -/
def strandEffect (s : State) (tid : Nat) (i : Instr) : Option Effect :=
  let t := s.thread tid
  let tile := tileOf tid
  let lay (l : BitVec 4) : BitVec 128 := (s.tile tile).layouts.get l.toNat
  let eng (n : Nat) : Engine := s.engine tile n
  match i with
  | .lld g l a b => some ⟨1, { guard := some g, kind := .control, reads := [a, b] }, True,
      withLayout s tile l (t.rd b ++ t.rd a), s.after tid 1⟩
  | .lset g l a f =>
      match layoutSpan f with
      | none => none
      | some (lo, w) => some ⟨1, { guard := some g, kind := .control, reads := [a] }, (t.rd a).toNat < 2 ^ w,
          withLayout s tile l ((lay l &&& ~~~(BitVec.ofNat 128 (2 ^ w - 1) <<< lo)) ||| ((t.rd a).setWidth 128 <<< lo)),
          s.after tid 1⟩
  | .lget g d l f =>
      match layoutSpan f with
      | none => none
      | some (lo, w) => some ⟨1, { guard := some g, kind := .control, writes := [d] }, True,
          s.setThread tid (t.wr d (BitVec.ofNat 64 ((lay l).toNat / 2 ^ lo % 2 ^ w))), s.after tid 1⟩
  | .lmov g l m => some ⟨1, { guard := some g, kind := .control }, True, withLayout s tile l (lay m), s.after tid 1⟩
  | .fork g a n =>
      let e := n.toNat
      some ⟨2, { guard := some g, kind := .control, reads := [a], noHandler := true },
        (t.rd a).toNat % 4 = 0 ∧ (e ≤ 4 → (s.hoop tile (e - 1)).present = true) ∧ (eng e).strand = none ∧ AllPerformed s tid,
        s.setEngine tile e { eng e with
          strand := some { (default : Strand) with pc := t.rd a }
          after := ((eng e).after ++ (eng 0).after).dedup }, s.after tid 2⟩
  | .forkToken g n =>
      let e := n.toNat
      some ⟨2, { guard := some g, kind := .control, noHandler := true },
        (s.tile tile).tokenCount 0 e < 15 ∧ AllPerformed s tid,
        s.setTile tile ((s.tile tile).pushToken 0 e (eng 0).after), s.after tid 2⟩
  | .rdv g mask =>
      let p := (s.tile tile).popTokens (mask.toNat * 2) 0
      let e0 := p.1.engine 0
      some ⟨2, { guard := some g, kind := .control, noHandler := true },
        ∀ k < 9, mask.getLsbD k = true → 0 < (s.tile tile).tokenCount (k + 1) 0,
        s.setTile tile (p.1.setEngine 0 { e0 with after := (e0.after ++ p.2).dedup }), s.after tid 2⟩
  | _ => none

end Sys2Proof.Claims

open Sys2Proof Sys2Proof.Machine Sys2Proof.Claims

/-- R120, R179-R181: NOP, each branch, call and loop instruction completes, at the PC and with the link register or loop
stack the manual gives. -/
def Obligations.FlowResults : Prop := Completes flowEffect

/-- R34, R35, R209, R210, R323, R361, R380, R427, R431: CSRR reads a CSR's value, which for a CSR that a thread's own
registers hold is what they hold, and for every other CSR the fields of its table, each at its place; a thread of
sufficient level writes the RW fields of each CSR, whatever the CSR, and changes nothing else. -/
def Obligations.CsrResults : Prop :=
  Completes csrEffect ∧
  (∀ (s : State) (tid n : Nat) (v : Word), csrOwn (s.thread tid) n = some v → s.csrRead tid n = v) ∧
  ∀ (s : State) (tid n : Nat) (fields : List (Nat × Nat × Nat)), tid < 65536 + 96 → csrFields s tid n = some fields →
    s.csrRead tid n = BitVec.ofNat 64 (fields.map fun p => p.2.2 % 2 ^ p.2.1 * 2 ^ p.1).sum


/-- R202-R205: ENQP, ENQP.nb, DEQP and PORTQ complete, with the push, the result or the count the manual gives. That a
command's draws use the pushing thread's key of this moment is the model's choice (log entry 87). -/
def Obligations.PortResults : Prop := Completes portEffect

/-- R327-R329: PATDR, PATQ and XOP complete on a slot no command is bound to. -/
def Obligations.TattingResults : Prop := Completes tattingEffect

/-- R220, R225-R228: FLRD, FLCL and GANGQ complete, as do RBGET of a block that is held or free and RBPUT of one not held.
RBPUT of a held block discards it and completes; blocks that others wait for are granted then. -/
def Obligations.LaneRegisterResults : Prop :=
  Completes laneEffect ∧
  ∀ (g : Guard) (b : BitVec 6) (s : State) (tid : Nat), wellFormed (.rbput g b) = true →
    Able s tid { guard := some g, kind := .proof } → (s.thread tid).held.getLsbD b.toNat = true →
    exec (.rbput g b) s = .next ((s.finish tid 1 (·.dropBlock b.toNat)).regrant (tid / 1024))

/-- R246-R248, R266: the layout-register instructions, FORK of an idle engine, FORK of a token and RDV of tokens that are
there complete, with the change of their tile the manual gives. -/
def Obligations.StrandControlResults : Prop := Completes strandEffect

/-- R249, R326: TMLD of an idle engine completes with the template's working copy loaded from its 32 bytes. PATLD of a legal
image completes, installing it in its slot, where no command is bound to the slot and, on a proof core, the store has
room. -/
def Obligations.ImageLoads : Prop :=
  (∀ (g : Guard) (k a e : BitVec 6) (s r : State) (tid : Nat) (bs : List Byte), wellFormed (.tmld g k a e) = true →
     Able s tid { guard := some g, kind := .control, reads := [a], noHandler := true } → 1 ≤ e.toNat → e.toNat ≤ 9 →
     ((s.thread tid).rd a).toNat % 32 = 0 → (s.engine (tileOf tid) e.toNat).strand = none →
     s.readPlain tid ((s.thread tid).rd a).toNat true 32 = .ok r bs →
     exec (.tmld g k a e) s = .next (((r.setEngine (tileOf tid) e.toNat { r.engine (tileOf tid) e.toNat with
       templates := (r.engine (tileOf tid) e.toNat).templates.set k.toNat (BitVec.ofNat 256 (leNat bs)) })).complete tid
         (s.after tid 1) (!(s.thread tid).prv))) ∧
  ∀ (g : Guard) (a : BitVec 6) (k : BitVec 4) (s r q : State) (tid : Nat) (head rest : List Byte),
    wellFormed (.patld g a k) = true → Able s tid { guard := some g, reads := [a], tat := true } →
    (s.thread tid).wait = none → ((s.thread tid).rd a).toNat % 16 = 0 →
    s.readPlain tid ((s.thread tid).rd a).toNat true 16 = .ok r head →
    r.readPlain tid (((s.thread tid).rd a).toNat + 16) true (patBytes head - 16) = .ok q rest → patCheck (head ++ rest) = none →
    q.slotBound (unitOf tid) k.toNat = false →
    (((q.group (s.thread tid).gid).patterns.get k.toNat).valid = true ∨ (q.group (s.thread tid).gid).unit < 96 ∨
      (q.storeEntries (q.group (s.thread tid).gid).unit).length < 64) →
    let grp := q.group (s.thread tid).gid
    exec (.patld g a k) s = .next ((q.setGroup (s.thread tid).gid { grp with
      patterns := grp.patterns.set k.toNat ⟨true, head ++ rest, q.cycle, q.cycle, false⟩ }).complete tid (s.after tid 2)
        (!(s.thread tid).prv))


/-- R197-R199: SEMWAIT whose count suffices, once the increments that have arrived are applied, completes at once,
taking its threshold from the count when CON is 1; otherwise the thread waits at the block and its PC stays. A
remote wait that finds 32 parked, or others held before it, is outside this (R200). SEMSIG, as a release, adds its
increment when the sum stays below 2^24 and completes; the parked waits are then examined. The order of checks and
the holding of remote waits are the model's reading (log entries 21 and 25). -/
def Obligations.SemaphoreResults : Prop :=
  (∀ (g : Guard) (a b : BitVec 6) (s : State) (tid tile sem : Nat), wellFormed (.semwait g a b) = true →
     Able s tid { guard := some g, reads := [a, b] } →
     s.semName tid ((s.thread tid).rd a).toNat false = .at tile sem → ((s.thread tid).rd b).toNat < 2 ^ 24 →
     OpenWay s tid tile →
     let thr := ((s.thread tid).rd b).toNat
     let con := ((s.thread tid).rd a).getLsbD 16
     let f := s.semFlush tile
     f.semHeld tile (unitOf tid != tile) = false →
     (thr ≤ (f.tile tile).sems.get sem → exec (.semwait g a b) s = .next ((if con then State.withCount f tile sem (· - thr)
       else f).complete tid (s.after tid 1) (!(s.thread tid).prv))) ∧
     ((f.tile tile).sems.get sem < thr → ∃ u, exec (.semwait g a b) s = .next u ∧
       (u.thread tid).wait = some (.semwait tile sem thr con) ∧ (u.thread tid).pc = (f.thread tid).pc)) ∧
  ∀ (g : Guard) (a b : BitVec 6) (s : State) (tid tile sem : Nat), wellFormed (.semsig g a b) = true →
    Able s tid { guard := some g, reads := [a, b] } →
    s.semName tid ((s.thread tid).rd a).toNat true = .at tile sem → AllPerformed s tid → OpenWay s tid tile →
    let n := ((s.thread tid).rd b).toNat
    let f := s.semFlush tile
    (f.tile tile).sems.get sem + n < 2 ^ 24 →
    let u := State.withCount f tile sem (· + n)
    let v := if waveOf ((u.tile tile).group - 1) = waveOf (s.thread tid).gid then u else u.setMark (waveOf (s.thread tid).gid)
    let w := v.complete tid (s.after tid 1) (!(s.thread tid).prv)
    exec (.semsig g a b) s = .next (if n = 0 then w else w.semExamine tile)

namespace Sys2Proof.Claims

open Sys2Proof.Machine

/-! ## Traps -/

/-- What belongs to the instruction in progress is gone: its wait and grant, what it has issued, a refusal, the record it reads,
and its prefix words. -/
def settled (t : Thread) : Thread :=
  { t with
    wait := none, granted := false, issued := false, named := 0, refusal := none, pfx := [], waited := 0, parkedIn := 0
    hadWaited := 0, arrived := 0, holds := 0, erel := none }

/-- A thread that enters a trap at level U (R381): cause, address and value are saved, the level before is kept in PPRV, and
it goes on at level S at c.tvec, or for PATTERN_MISS at the loader of c.patbase when that is enabled (R332). What
belongs to the instruction in progress is gone, but that it has passed its flush point (R353). -/
def trapped (t : Thread) (cause : Nat) (epc val : Word) : Thread :=
  { settled t with
    arrived := t.arrived
    tcause := BitVec.ofNat 8 cause, tepc := epc &&& 0x01FFFFFFFFFFFFFC, tval := val, pprv := false, prv := true
    pc := if cause = 0x08 ∧ t.patbase.getLsbD 0 = true then t.patbase &&& 0x01FFFFFFFFFFFFFC else t.tvec }

/-- State `u` is `s` after thread `tid` alone has become `t`; a control core's tile has stopped with it (R385). -/
def OnlyThread (s u : State) (tid : Nat) (t : Thread) : Prop :=
  u.thread tid = t ∧ (∀ m, m ≠ tid → u.thread m = s.thread m) ∧ u.mem = s.mem ∧ u.groups = s.groups ∧ u.waves = s.waves ∧
  (isControl tid = false → u.tiles = s.tiles) ∧ (isControl tid = true → (u.tile (tileOf tid)).stopped = true)

/-- Every live thread of a group is stopped, its registers, PC and level as they were. -/
def GroupHalted (s u : State) (gid : Nat) : Prop :=
  ∀ m ∈ s.members gid, (u.thread m).halted = true ∧ (u.thread m).g = (s.thread m).g ∧ (u.thread m).q = (s.thread m).q ∧
    (u.thread m).tcause = (s.thread m).tcause ∧ (u.thread m).tepc = (s.thread m).tepc

/-! ## Gathering -/

/-- What a thread waits for at DIVB, JOIN, VOTE, SHFL and REDX (R213, R214, R222-R224), with its words and prologue. -/
def gatherForm (t : Thread) (i : Instr) : Option (Nat × Spec × Wait) :=
  match i with
  | .divb g off => some (1, { kind := .proof, transfer := true }, .divb (t.guard g) (t.pc + 4 * off.signExtend 64))
  | .join g => some (1, { guard := some g, kind := .proof }, .join)
  | .vote g d _ _ kind _ =>
      some (2, { guard := some g, kind := .proof, writes := if kind.toNat < 2 then [] else [d] }, .collective i)
  | .shfl g d a b _ => some (2, { guard := some g, kind := .proof, reads := [a, b], writes := [d] }, .collective i)
  | .redx g d a cls _ _ =>
      some (2, { guard := some g, kind := .proof, reads := if cls = 0 then [a] else [], writes := [d] }, .collective i)
  | _ => none

/-- A thread that issues outside a gang, or as its only member. -/
def Alone (s : State) (tid : Nat) : Prop :=
  (s.core (tid / 1024)).gang = 0 ∨ (s.core (tid / 1024)).gang = 1#32 <<< (tid % 32)

/-- The live thread of the same group in lane l of a thread's lane set, as a collective sees it. -/
def lane (s : State) (tid l : Nat) : Option Thread :=
  if (s.thread (tid / 32 * 32 + l)).live = true ∧ (s.thread (tid / 32 * 32 + l)).gid = (s.thread tid).gid then
    some (s.thread (tid / 32 * 32 + l))
  else none

/-- A lane takes part when the mask names it or it is the thread's own (R221). -/
def takesPart (tid : Nat) (mask : BitVec 32) (l : Nat) : Bool := mask.getLsbD l || l == tid % 32

/-- What a collective leaves in its thread (R222-R224): votes and reductions over the lanes that take part, one without a
live thread counting as false or 0; a shuffle's value from its source lane, 0 where the mask does not name that lane. -/
def collectiveValue (s : State) (tid : Nat) (i : Instr) : Thread → Thread :=
  let part (mask : BitVec 32) : List Nat := (List.range 32).filter (takesPart tid mask)
  match i with
  | .vote _ d idx flag kind mask => fun t =>
      let yes (l : Nat) : Bool := match lane s tid l with
        | some u => if flag then u.fl.getLsbD idx.toNat else u.pred idx
        | none => false
      match kind.toNat with
      | 0 => t.setPred (d.setWidth 3) ((part mask).any yes)
      | 1 => t.setPred (d.setWidth 3) ((part mask).all yes)
      | 2 => t.wr d (BitVec.ofNat 64 (((part mask).filter yes).map (2 ^ ·)).sum)
      | _ => t.wr d (BitVec.ofNat 64 ((part mask).countP yes))
  | .shfl _ d a b mask => fun t =>
      let k := (t.rd b).toNat % 32
      let own := tid % 32
      let src : Option Nat := match (t.rd b).toNat / 32 % 4 with
        | 0 => some k
        | 1 => if own < k then none else some (own - k)
        | 2 => if 31 < own + k then none else some (own + k)
        | _ => some (own ^^^ k)
      match src with
      | none => t.wr d (t.rd a)
      | some l => t.wr d (if mask.getLsbD l = true then ((lane s tid l).map fun u => u.rd a).getD 0 else 0)
  | .redx _ d a cls kind mask => fun t =>
      let value (l : Nat) : Nat := match lane s tid l with
        | none => 0
        | some u =>
          let v := match cls.toNat with
            | 0 => (u.rd a).toNat
            | 1 => (u.pred (a.setWidth 3)).toNat
            | _ => u.fl.toNat
          if 8 ≤ kind.toNat then v % 2 ^ 32 else v
      t.wr d (BitVec.ofNat 64 (reduceTree (redxOp kind.toNat) 0 ((part mask).map value)))
  | _ => id

/-! ## Scheduling instructions -/

/-- A group's control core stands at SSYNC with conditions 1 and 2 of R353: its accesses performed, the commands outstanding
when the SSYNC issued complete. -/
def atSsync (s : State) (g : Nat) : Bool :=
  let tid := controlTid (s.group g).unit
  let t := s.thread tid
  match t.wait with
  | some (.ssync cmds) => t.live && t.gid == g && !t.granted &&
      cmds.all (fun x => !(s.outstanding (s.group g).unit).contains x) && s.peerInv.all fun v => v.writer != .thread tid
  | _ => false

/-- WDONE, SSYNC, DFLUSH, EXIT and YIELD of a wave that neither records nor is deterministic, with nothing outstanding to wait
for; GOVRD of a wave whose frame has no table entry (R351-R353, R356, 01 R39). -/
def lifeEffect (s : State) (tid : Nat) (i : Instr) : Option Effect :=
  let t := s.thread tid
  let plain : Prop := s.recorded tid = false ∧ s.det tid = false
  let counted : State := s.setThread tid { t with ckpt := t.ckpt + 1 }
  match i with
  | .wdone g =>
      if t.wdone then some ⟨2, { guard := some g, noHandler := true }, t.granted = false, s, s.after tid 2⟩
      else some ⟨2, { guard := some g, noHandler := true },
        plain ∧ t.granted = false ∧ (isControl tid = true → s.outstanding (tileOf tid) = []) ∧ AllPerformed s tid,
        (let gid := (counted.thread tid).gid
        let u := counted.setThread tid { counted.thread tid with wdone := true }
        (u.setWave (waveOf gid) { u.wave (waveOf gid) with wdone := true }).checkGroupDone gid),
        s.after tid 2⟩
  | .dflush g => some ⟨1, { guard := some g }, plain, counted, s.after tid 1⟩
  | .govrd g d => some ⟨2, { guard := some g, reads := [d], writes := [d] },
      s.frameOf (s.waveOfThread tid) = none ∧ (t.rd d = BitVec.allOnes 64 ∨ (t.rd d).toNat < 64) ∧ AllPerformed s tid,
      s.setThread tid { t.wr d (BitVec.allOnes 64) with govmask := BitVec.allOnes 64 }, s.after tid 2⟩
  | .yield g => some ⟨1, { guard := some g, transfer := true }, (s.wave (waveOf t.gid)).request = 0, s, s.after tid 1⟩
  | _ => none

/-! ## What an instruction meets before its own effect -/

/-- A prefix word that Table 7.4 refuses on its own: its kind, a value of a field, a reserved bit. -/
def prefixRefused (w : BitVec 32) : Bool :=
  match (w.extractLsb' 27 3).toNat with
  | 0 => w.extractLsb' 24 3 == 5 || w.extractLsb' 24 3 == 6 || w.extractLsb' 0 21 != 0
  | 1 => w.extractLsb' 25 2 == 3 || w.extractLsb' 23 2 == 3 || w.extractLsb' 0 23 != 0
  | 2 => decide (5 ≤ (w.extractLsb' 24 3).toNat) || w.extractLsb' 0 24 != 0
  | _ => true

/-- The first prefix word of a sequence, in ascending address, that is refused on its own, is of the kind of an earlier one, or is
the third (R126 step 3). -/
def firstBadPrefix (ws : List (BitVec 32)) : Option (BitVec 32) :=
  (ws.zipIdx.find? fun p => prefixRefused p.1 || (ws.take p.2).any (fun e => e.extractLsb' 27 3 == p.1.extractLsb' 27 3) ||
    decide (2 ≤ p.2)).map (·.1)

/-- The words and the prologue of an instruction of the tables above. -/
def formOf (s : State) (tid : Nat) (i : Instr) : Option (Nat × Spec) :=
  (intEffect s tid i <|> predEffect s tid i <|> floatEffect s tid i <|> flowEffect s tid i <|> fenceEffect s tid i <|>
    csrEffect s tid i <|> portEffect s tid i <|> tattingEffect s tid i <|> laneEffect s tid i <|> strandEffect s tid i <|>
    lifeEffect s tid i).map (fun e => (e.words, e.spec)) <|>
  (memForm (s.thread tid) i).map (fun f => (f.words, f.spec)) <|> (gatherForm (s.thread tid) i).map (fun p => (p.1, p.2.1))

/-- The prologue of an instruction of the tables above. -/
def prologue (s : State) (tid : Nat) (i : Instr) : Option Spec := (formOf s tid i).map (·.2)

/-- The words of the other guarded instructions of the cores, and what R123 asks of them before the guard: the core kind, the
level, the feature, and of a control transfer that no prefix precedes it. -/
def guardedForm (i : Instr) : Option (Nat × Spec) :=
  match i with
  | .lend g | .trap g _ | .brk g | .exit g => some (1, { guard := some g, transfer := true })
  | .tret g | .halt g => some (1, { guard := some g, transfer := true, privileged := true })
  | .mon g _ | .mwait g | .semwait g _ _ | .semsig g _ _ | .deqp g _ _ => some (1, { guard := some g })
  | .rbput g _ => some (1, { guard := some g, kind := .proof })
  | .tex g _ _ _ _ | .texg g _ _ _ _ _ | .texq g _ _ _ | .raybox g _ _ _ _ | .raytri g _ _ _ _ | .rast g _ _ _
  | .bary g _ _ _ => some (2, { guard := some g, kind := .proof })
  | .halloc g _ _ _ | .hfree g _ | .hrsh g _ _ _ | .eres g _ _ _ | .erel g _ | .eset g _ _ | .tmld g _ _ _ | .lset g _ _ _
  | .lget g _ _ _ => some (1, { guard := some g, kind := .control })
  | .ssync g => some (2, { guard := some g, kind := .control })
  | .spawn g _ | .tenq g _ _ _ => some (2, { guard := some g })
  | .patld g _ _ => some (2, { guard := some g, tat := true })
  | _ => none

/-- A thread comes to execute an instruction of a prologue: the word, the prefixes and the level raise nothing, and the guard
holds (R123 items 1-4). -/
structure Reaches (s : State) (tid : Nat) (x : Spec) : Prop where
  cur : s.cur = .thread tid
  may : s.mayIssue tid = true
  kind : (x.kind = .proof → isControl tid = false) ∧ (x.kind = .control → isControl tid = true)
  feature : x.tat = true → s.feature 3 = true
  prefixes : pfxBad [] (s.thread tid).pfx = none ∧ (s.thread tid).pfx.all (accepts x.accept) = true
  transfer : x.transfer = true → (s.thread tid).pfx = []
  level : x.privileged = true → (s.thread tid).prv = true
  guard : guardOn x.guard (s.thread tid) = true

end Sys2Proof.Claims

open Sys2Proof Sys2Proof.Machine Sys2Proof.Claims

/-- R182, R381: TRAP at level U completes and enters the trap handler with its code, c.tepc the next instruction; BRK at level U
enters it with cause BREAKPOINT, c.tepc its own address and c.tval 0. -/
def Obligations.TrapsEnterHandler : Prop :=
  (∀ (g : Guard) (code : BitVec 6) (s : State) (tid : Nat), wellFormed (.trap g code) = true →
     Able s tid { guard := some g, transfer := true } → (s.thread tid).prv = false →
     ∃ u, exec (.trap g code) s = .next u ∧
       OnlyThread s u tid (trapped { s.thread tid with completed := (s.thread tid).completed + 1, since := s.cycle } 0x12
         (s.after tid 1) (code.setWidth 64))) ∧
  ∀ (g : Guard) (s : State) (tid : Nat), wellFormed (.brk g) = true → Able s tid { guard := some g, transfer := true } →
    (s.thread tid).prv = false →
    ∃ u, exec (.brk g) s = .next u ∧ OnlyThread s u tid (trapped (s.thread tid) 0x11 (s.thread tid).pc 0)


/-- R114, R122, R134, R381: a word no row names, met by a thread at level U, raises ILLEGAL_INSTRUCTION with the word; met by a
strand, it stops the tile with that cause. The number recorded there is the engine's last one, since the word has none
(log entry 18). -/
def Obligations.IllegalEncodingTraps : Prop :=
  ∀ (w : BitVec 32) (s : State),
    (∀ tid, s.cur = .thread tid → s.mayIssue tid = true → (s.thread tid).prv = false →
      ∃ u, exec (.illegalInstructionEncoding w) s = .next u ∧
        OnlyThread s u tid (trapped (s.thread tid) 0x01 (s.thread tid).pc (w.setWidth 64))) ∧
    (∀ tile e, s.cur = .engine tile e → (s.engine tile e).strand.isSome = true →
      ∃ u, exec (.illegalInstructionEncoding w) s = .next u ∧ (u.tile tile).stopped = true ∧
        (u.tile tile).stops = (s.tile tile).stops ++ [.trap e (s.engine tile e).seq.toNat 0x01 w.toNat] ∧
        u.threads = s.threads)

/-- R183, R381: a cause raised at level S saves nothing: every thread of the unit's group is stopped, with its registers, cause
and saved PC as they were (stated of TRAP and BRK). HALT completes and stops every thread of the group, and the tile of
a control core. -/
def Obligations.HaltAndDoubleTrap : Prop :=
  (∀ (i : Instr) (g : Guard) (s : State) (tid : Nat), (i = .brk g ∨ ∃ code, i = .trap g code) → wellFormed i = true →
     Able s tid { guard := some g, transfer := true } → (s.thread tid).prv = true →
     ∃ u, exec i s = .next u ∧ GroupHalted s u (s.thread tid).gid) ∧
  ∀ (g : Guard) (s : State) (tid : Nat), wellFormed (.halt g) = true →
    Able s tid { guard := some g, transfer := true, privileged := true } →
    ∃ u, exec (.halt g) s = .next u ∧ GroupHalted s u (s.thread tid).gid ∧ (u.thread tid).pc = s.after tid 1 ∧
      (isControl tid = true → (u.tile (tileOf tid)).stopped = true)


/-- R382: TRET goes back to c.tepc at the level PPRV holds, and on a tile the engines restart from their cut. -/
def Obligations.TretReturns : Prop :=
  ∀ (g : Guard) (s : State) (tid : Nat), wellFormed (.tret g) = true →
    Able s tid { guard := some g, transfer := true, privileged := true } →
    let t := s.thread tid
    let u := s.setThread tid { settled t with
      pc := t.tepc
      prv := t.pprv, pprv := false, completed := t.completed + 1, since := s.cycle }
    exec (.tret g) s = .next (if isControl tid = true then
      u.setTile (tileOf tid) ((u.tile (tileOf tid)).restart s.cycle) else u)

/-- R121, R125-R127: a prefix word, the first or the second of its sequence, is kept for the instruction it precedes; the PC
stays at the sequence's first word. A sequence with a bad prefix word raises ILLEGAL_PREFIX with the first such word, and one
before a control transfer or before an instruction that does not accept all of it, with the instruction's first word. Every
guarded instruction of the cores whose guard is false, DIVB and SEL apart, completes after its words, whatever prefixes it
accepts precede it, and has no effect of its own. -/
def Obligations.PrefixAndGuard : Prop :=
  (∀ (k : BitVec 3) (v : BitVec 27) (s : State) (tid : Nat), s.cur = .thread tid → s.mayIssue tid = true →
     (s.thread tid).pfx.length < 2 →
     exec (.pfx k v) s = .next (s.setThread tid { s.thread tid with pfx := (s.thread tid).pfx ++ [2#2 ++ k ++ v] })) ∧
  (∀ (i : Instr) (x : Spec) (s : State) (tid : Nat), prologue s tid i = some x → wellFormed i = true →
     s.cur = .thread tid → s.mayIssue tid = true → (x.kind = .proof → isControl tid = false) →
     (x.kind = .control → isControl tid = true) → (x.tat = true → s.feature 3 = true) →
     let t := s.thread tid
     let raises (word : Word) : Prop := exec i s = .next (s.trap tid 0x02 t.pc word)
     (∀ w, firstBadPrefix t.pfx = some w → raises (w.setWidth 64)) ∧
     (firstBadPrefix t.pfx = none → (x.transfer = true ∧ t.pfx ≠ []) ∨ (∃ w ∈ t.pfx, accepts x.accept w = false) →
       raises (BitVec.ofNat 64 ((encode i).headD 0)))) ∧
  ∀ (i : Instr) (n : Nat) (x : Spec) (g : Guard) (s : State) (tid : Nat), formOf s tid i = some (n, x) ∨ guardedForm i = some (n, x) →
    x.guard = some g → wellFormed i = true → s.cur = .thread tid → s.mayIssue tid = true →
    (x.kind = .proof → isControl tid = false) → (x.kind = .control → isControl tid = true) →
    (x.tat = true → s.feature 3 = true) → firstBadPrefix (s.thread tid).pfx = none →
    (∀ w ∈ (s.thread tid).pfx, accepts x.accept w = true) → (x.transfer = true → (s.thread tid).pfx = []) →
    (x.privileged = true → (s.thread tid).prv = true) → (s.thread tid).guard g = false →
    exec i s = .next (s.complete tid (s.after tid n) (!(s.thread tid).prv))

/-- R123, R380: TRET and HALT, and CSRW and CSRS of a CSR of level S, raise PRIVILEGED at level U with the instruction's word;
nothing else happens but the trap. -/
def Obligations.PrivilegedTraps : Prop :=
  ∀ (i : Instr) (s : State) (tid : Nat), wellFormed i = true → s.cur = .thread tid → s.mayIssue tid = true →
    (s.thread tid).pfx = [] → (s.thread tid).prv = false →
    ((∃ g, i = .tret g) ∨ (∃ g, i = .halt g) ∨ (∃ g a n, i = .csrw g a n ∧ csrSystem n.toNat = true) ∨
      ∃ g a n, i = .csrs g a n ∧ csrSystem n.toNat = true) →
    exec i s = .next (s.trap tid 0x03 (s.thread tid).pc (BitVec.ofNat 64 ((encode i).headD 0)))


/-- R212, R329, R367: an instruction that names, as a register it reads or writes, one of a block its proof thread does not hold
raises REGBLOCK_FAULT with the register's number, and one that reads a pending register ILLEGAL_INSTRUCTION with 0x200
plus the number; nothing else happens. Stated of every instruction of the tables above. That REGBLOCK_FAULT comes before
the fault of a pending register is the model's reading (log entry 16), and that of several such registers the first in
the order of the table is named, those read before those written, is its choice (log entry 86). XOP takes R329's order: an
empty slot raises PATTERN_MISS with the slot; then come the registers that its pattern reads, an odd gd of a pattern of
two results, which is ILLEGAL_INSTRUCTION, and the registers it writes (log entry 32). -/
def Obligations.RegisterFaults : Prop :=
  let notHeld (s : State) (tid : Nat) (r : BitVec 6) : Bool :=
    !isControl tid && (decide (16 ≤ r.toNat) && !(s.thread tid).held.getLsbD ((r.toNat - 16) / 8))
  let pending (s : State) (tid : Nat) (r : BitVec 6) : Bool := decide (r ≠ 0) && decide ((s.thread tid).pend.get r.toNat ≠ 0)
  (∀ (i : Instr) (x : Spec) (s : State) (tid : Nat) (r : BitVec 6), prologue s tid i = some x → wellFormed i = true →
    (∀ g d a b c k, i ≠ .xop g d a b c k) → Reaches s tid x →
    ((x.reads ++ x.writes).find? (notHeld s tid) = some r → exec i s = .next (s.trap tid 0x10 (s.thread tid).pc (r.setWidth 64))) ∧
    ((∀ y ∈ x.reads ++ x.writes, notHeld s tid y = false) → x.reads.find? (pending s tid) = some r →
      exec i s = .next (s.trap tid 0x01 (s.thread tid).pc (0x200 + r.setWidth 64)))) ∧
  ∀ (g : Guard) (d a b c : BitVec 6) (k : BitVec 4) (s : State) (tid : Nat) (r : BitVec 6),
    wellFormed (.xop g d a b c k) = true → Reaches s tid { guard := some g, kind := .proof, tat := true } →
    let slot := (s.group (s.thread tid).gid).patterns.get k.toNat
    let srcs := [a, b, c].take (patNsrc slot.image)
    let two := patTwo slot.image
    let raises (cause : Nat) (val : Word) : Prop := exec (.xop g d a b c k) s = .next (s.trap tid cause (s.thread tid).pc val)
    (slot.valid = false → raises 0x08 (k.setWidth 64)) ∧
    (slot.valid = true →
      (srcs.find? (notHeld s tid) = some r → raises 0x10 (r.setWidth 64)) ∧
      ((∀ y ∈ srcs, notHeld s tid y = false) → srcs.find? (pending s tid) = some r → raises 0x01 (0x200 + r.setWidth 64)) ∧
      ((∀ y ∈ srcs, notHeld s tid y = false ∧ pending s tid y = false) →
        (two = true → d.getLsbD 0 = true → raises 0x01 (BitVec.ofNat 64 ((encode (.xop g d a b c k)).headD 0))) ∧
        ((two = true → d.getLsbD 0 = false) → (if two then [d, d + 1] else [d]).find? (notHeld s tid) = some r →
          raises 0x10 (r.setWidth 64))))

/-- R213-R216: a thread that reaches DIVB, JOIN or a lane collective waits there; then whatever its arrival releases in its
group is released. -/
def Obligations.GatheringForms : Prop :=
  ∀ (i : Instr) (n : Nat) (x : Spec) (w : Wait) (s : State) (tid : Nat), gatherForm (s.thread tid) i = some (n, x, w) →
    wellFormed i = true → Able s tid x → Alone s tid → (s.thread tid).granted = false →
    exec i s = .next ((s.waits tid n w).settleGroup (s.thread tid).gid)

/-- R213, R214: when every live thread of the group has reached the same DIVB, each goes on: those whose guard held at their
target, the rest at the next instruction. Outside deterministic mode, when every live thread of the group has reached
the same JOIN, all complete together; each passes a checkpoint. -/
def Obligations.GatheringReleases : Prop :=
  (∀ (g : Guard) (off : BitVec 18) (s : State) (tid : Nat), wellFormed (.divb g off) = true →
     Able s tid { kind := .proof, transfer := true } → Alone s tid → (s.thread tid).granted = false →
     let t := s.thread tid
     let p := s.waits tid 1 (.divb (t.guard g) (t.pc + 4 * off.signExtend 64))
     (∀ m ∈ p.members t.gid, (∃ taken target, (p.thread m).wait = some (.divb taken target)) ∧
       (p.thread m).granted = false ∧ (p.thread m).pc = t.pc) →
     exec (.divb g off) s = .next ((p.members t.gid).foldl (fun u m =>
       u.complete m (match (u.thread m).wait with
         | some (.divb true target) => target
         | _ => (u.thread m).resume) (!(u.thread m).prv)) p)) ∧
  ∀ (g : Guard) (s : State) (tid : Nat), wellFormed (.join g) = true → Able s tid { guard := some g, kind := .proof } →
    Alone s tid → (s.thread tid).granted = false → s.det tid = false → s.recorded tid = false →
    let t := s.thread tid
    let p := s.waits tid 1 .join
    (∀ m ∈ p.members t.gid, (p.thread m).wait = some .join ∧ (p.thread m).granted = false ∧ (p.thread m).pc = t.pc) →
    exec (.join g) s = .next ((p.members t.gid).foldl (fun u m =>
      let v := u.setThread m { u.thread m with ckpt := (u.thread m).ckpt + 1 }
      v.complete m (v.thread m).resume (!(v.thread m).prv)) p)


/-- R216, R221-R224: a VOTE, SHFL or REDX completes in a thread once every live thread its mask names stands at the same
instruction: the thread goes on at the next instruction with the value of its collective over the lanes that take part.
That this is the word after both of its words (PC + 8), where R217 says PC + 4, is the model's reading (log entry 85). -/
def Obligations.CollectiveResults : Prop :=
  ∀ (i : Instr) (x : Spec) (s : State) (tid : Nat), gatherForm (s.thread tid) i = some (2, x, .collective i) →
    wellFormed i = true → Able s tid x → Alone s tid → (s.thread tid).granted = false → (s.thread tid).wdone = false →
    ((s.thread tid).step = false ∨ (s.thread tid).prv = true) →
    (∀ l < 32, takesPart tid (BitVec.ofNat 32 (collectiveMask i)) l = true → l ≠ tid % 32 → ∀ u, lane s tid l = some u →
      u.wait = some (.collective i) ∧ u.pc = (s.thread tid).pc) →
    ∃ u, exec i s = .next u ∧ (u.thread tid).wait = none ∧ (u.thread tid).pc = s.after tid 2 ∧
      (u.thread tid).g = (collectiveValue s tid i (s.thread tid)).g ∧
      (u.thread tid).q = (collectiveValue s tid i (s.thread tid)).q


/-- R351, R352, R356, R365: WDONE, DFLUSH, YIELD, and GOVRD without a frame entry, complete when nothing holds them. A
second WDONE is read as doing nothing at all (log entry 48). -/
def Obligations.LifeResults : Prop := Completes lifeEffect

/-- R353: SSYNC waits for the commands then outstanding on its tile. Once the control core of every group of the wave that has
not ended stands there, its accesses performed and those commands complete (and in deterministic mode its flush made),
SSYNC_COMPLETE completes all of them in one cycle and counts a superstep; a group whose own conditions hold first
reaches its flush point. Where the wave records or replays, each thread makes its checkpoint itself (R377): SSYNC_COMPLETE
lets it go on, and it executes SSYNC again, which then completes. -/
def Obligations.SsyncResults : Prop :=
  (∀ (g : Guard) (s : State) (tid : Nat), wellFormed (.ssync g) = true →
    Able s tid { guard := some g, kind := .control, noHandler := true } → (s.thread tid).granted = false →
    exec (.ssync g) s = .next (s.waits tid 2 (.ssync (s.outstanding (tileOf tid))))) ∧
  (∀ (g : Guard) (s : State) (tid : Nat), wellFormed (.ssync g) = true →
    Able s tid { guard := some g, kind := .control, noHandler := true } → (s.thread tid).granted = true →
    let w := s.waveOfThread tid
    let r := s.records.get w.asid
    let full : Prop := w.recMode = 1 ∧ r.block.diglen.toNat < 32 * (r.digests + 1)
    s.recorded tid = false ∨ full →
    let t := s.thread tid
    let q := if w.recMode = 1 then { s with records := s.records.set w.asid { r with digests := r.digests + 1 } } else s
    let p := q.setThread tid { t with ckpt := t.ckpt + 1 }
    exec (.ssync g) s = .next ((p.setThread tid { p.thread tid with ssyncs := (p.thread tid).ssyncs + 1 }).complete tid
      (s.after tid 2) (!t.prv))) ∧
  ∀ (k : Nat) (s : State), s.openGroups k ≠ [] → (s.wave k).groups ≤ 1024 →
    let ct (g : Nat) : Nat := controlTid (s.group g).unit
    ((∀ g ∈ s.openGroups k, atSsync s g = true ∧ (s.waveDet k = true → (s.thread (ct g)).arrived = 1) ∧
        ((s.thread (ct g)).step = false ∨ (s.thread (ct g)).prv = true)) →
      ∃ u, exec (.ssyncComplete k) s = .next u ∧
        u = ({ s with threads := u.threads } : State).setWave k { s.wave k with ssyncs := (s.wave k).ssyncs + 1 } ∧
        (∀ m, (∀ g ∈ s.openGroups k, m ≠ ct g) → u.thread m = s.thread m) ∧
        ∀ g ∈ s.openGroups k,
          let t := s.thread (ct g)
          u.thread (ct g) = if (s.wave k).recMode = 0 then { settled t with
              pc := t.resume
              completed := t.completed + 1, since := s.cycle, ssyncs := t.ssyncs + 1, ckpt := t.ckpt + 1 }
            else { t with granted := true }) ∧
    (s.waveDet k = true → (∃ g ∈ s.openGroups k, ¬ (atSsync s g = true ∧ (s.thread (ct g)).arrived = 1)) →
      let fresh := (s.openGroups k).filter fun g => atSsync s g && (s.thread (ct g)).arrived == 0 &&
        decide ((s.group g).flushes ≤ (s.group g).epoch)
      fresh ≠ [] → exec (.ssyncComplete k) s = .next (fresh.foldl (fun u g =>
        u.setGroup g { u.group g with flushes := (u.group g).epoch + 1 }) s))

/-- 01 R39, R181: EXIT ends its thread once its port commands are complete, and a control core's engines idle. -/
def Obligations.ExitEndsThread : Prop :=
  ∀ (g : Guard) (s : State) (tid : Nat), wellFormed (.exit g) = true →
    Able s tid { guard := some g, transfer := true, noHandler := true } → s.recorded tid = false →
    (∀ p ∈ (s.thread tid).ports, ∀ x ∈ p.2, x.done = true) → (isControl tid = true → s.tileIdle (tileOf tid) = true) →
    exec (.exit g) s = .next ((s.setThread tid { s.thread tid with ckpt := (s.thread tid).ckpt + 1 }).endThread tid)

/-- R347: SPAWN of a readable, legal record enters it as a wave one level deeper, sets the side-effect mark and completes. -/
def Obligations.SpawnEntersNode : Prop :=
  ∀ (g : Guard) (a : BitVec 6) (s r : State) (tid : Nat) (bs : List Byte), wellFormed (.spawn g a) = true →
    Able s tid { guard := some g, reads := [a] } → (s.thread tid).wait = none →
    ((s.thread tid).rd a).toNat % 128 = 0 → (s.waveOfThread tid).depth ≠ 7 → AllPerformed s tid →
    s.readPlain tid ((s.thread tid).rd a).toNat true 640 = .ok r bs →
    let n := parseNode bs
    let w := waveOf (s.thread tid).gid
    r.reason1 n = false → n.reason2 = false → n.reason3 = false → n.reason5 = false → r.poolReason n = none →
    r.waves.length < 4096 →
    exec (.spawn g a) s = .next (((r.enterNode n (r.asidOf tid) ((r.wave w).depth + 1)).setMark w).complete tid
      (s.after tid 2) (!(s.thread tid).prv))

/-- R99, R345: TENQ of a descriptor in device memory with room stores the node's address in the ring at the old tail, advances
the tail, leaves the old tail in gd and sets the side-effect mark; a full queue gives all ones and a refused capacity all
ones less one, and nothing is stored. As before any atomic, the home recalls and invalidates every copy of the
descriptor's line. In deterministic mode TENQ completes as an entry of its group's atomic buffer, its destination pending; the
4,097th entry raises ACCESS_FAULT with the descriptor's address (R366, R367). -/
def Obligations.TenqResults : Prop :=
  ∀ (g : Guard) (d a b : BitVec 6) (s : State) (tid : Nat) (l : Loc), wellFormed (.tenq g d a b) = true →
    Able s tid { guard := some g, reads := [a, b], writes := [d] } → AllPerformed s tid → unitOf tid < 160 →
    let t := s.thread tid
    let node := (t.rd b).toNat
    t.rd a &&& 0x7F = 0 → node % 128 = 0 → node < 2 ^ 57 →
    s.resolve (s.who tid) { r := true, w := true } (t.rd a).toNat 8 = .at l →
    (s.det tid = true → (l.space = .hbm ∨ ∃ p, l.space = .peer p) →
      exec (.tenq g d a b) s = .next (if (s.group t.gid).atoms.length < 4096 then
        (withEntry s tid d (entryOf s tid ⟨.tenq, (t.rd a).toNat, l, 8, d.toNat, node, 0, s.after tid 2, !t.prv, t.hint,
          t.ord⟩)).complete tid (s.after tid 2) (!t.prv)
      else s.trap tid 0x06 t.pc (t.rd a))) ∧
    (l.space = .hbm → s.det tid = false →
    t.holds = 0 → s.watchedVa (waveOf t.gid) (t.rd a).toNat = false → s.blocked (unitOf tid) l = false →
    s.poisoned l = false → Keyed s tid l →
    let head := s.numAt l 8
    let tail := s.numAt (l.plus 8) 8
    let ring := s.numAt (l.plus 16) 8
    let cap := s.numAt (l.plus 24) 4
    let done (u : State) (v : Nat) : Host.Outcome State Fault Refusal :=
      .next ((u.setThread tid ((u.thread tid).wr d (BitVec.ofNat 64 v))).complete tid (s.after tid 2) (!t.prv))
    let legal : Prop := ∃ n, 4 ≤ n ∧ n ≤ 20 ∧ cap = 2 ^ n
    let home : Who := { s.who tid with unit := 1000 }
    let u := recalled s tid l
    let h := homeHint s tid
    (¬ legal → exec (.tenq g d a b) s = done u (2 ^ 64 - 2)) ∧
    (legal → head + cap ≤ tail → exec (.tenq g d a b) s = done u (2 ^ 64 - 1)) ∧
    (legal → tail < head + cap → tail < 2 ^ 64 - 2 →
      let va := (ring + tail % cap * 8) % 2 ^ 64
      ∀ r, s.resolve (s.who tid) { w := true } va 8 = .at r → (r.space = .hbm → s.watchedVa (waveOf t.gid) va = false) →
      (lineOf r.key = lineOf l.key ∨
        (u.blocked 1000 r = false ∧ (r.space.foreign = true → s.peerAnswered (.thread tid) r = true))) →
      exec (.tenq g d a b) s = done ((((u.performWrite home r (leBytes 8 node) 1).dropAnswers (.thread tid)).performWrite home
        (l.plus 8) (leBytes 8 (tail + 1)) h).setMark (waveOf t.gid)) tail))

namespace Sys2Proof.Claims

open Sys2Proof.Machine

/-! ## Hoops and the easel -/

/-- A legal request word (R292): a shape, a named position only when bit 3 is set, and one the shape has. -/
def legalRequest (req : Nat) : Prop :=
  req < 64 ∧ if req / 8 % 2 = 1 then req / 16 ∈ shapePositions (req % 8) else req / 16 = 0

/-- Bits [37:0] of an easel record that ERES and ESET accept for a range of `len` units (R300, Table 15.7): bit 0 clear, BLK
below 6, a FMT that names a format (R48), a row stride, and SOFS inside the range. -/
def legalRecord (v len : Nat) : Prop :=
  v < 2 ^ 38 ∧ v % 2 = 0 ∧ v / 2 ^ 21 % 2 ^ 4 < 14 ∧ v / 2 ^ 18 % 8 < 6 ∧ v / 2 % 2 ^ 14 ≠ 0 ∧ v / 2 ^ 25 % 2 ^ 13 < len

/-- A new hoop's accumulator words at +0 and the hoop on its queue, without weights. -/
def withHoop (s : State) (h : HoopAt) : State := (s.clearRegions [h] []).installHoop h

/-- A state with a new record at place i of a tile's easel. -/
def withRecord (s : State) (tile i : Nat) (r : BitVec 64) : State :=
  s.setTile tile { s.tile tile with easel := (s.tile tile).easel.set i r }

/-- HALLOC, HFREE, HRSH, ERES, EREL and ESET that complete (R292, R293, R296-R302). EREL waits for the commands that named
its record when it began, and for no later one. -/
def hoopEffect (s : State) (tid : Nat) (i : Instr) : Option Effect :=
  let t := s.thread tid
  let tile := tileOf tid
  let form (g : Guard) (rs ws : List (BitVec 6)) (noHandler : Bool) (needs : Prop) (u : State) : Effect :=
    ⟨1, { guard := some g, kind := .control, reads := rs, writes := ws, noHandler := noHandler }, needs, u, s.after tid 1⟩
  let put (u : State) (f : Thread → Thread) : State := u.setThread tid (f (u.thread tid))
  match i with
  | .halloc g p d a => some (form g [a] [d] false (legalRequest (t.rd a).toNat)
      (match placeHoop (s.waveTiles (waveOf t.gid)) s.allHoops tile (t.rd a).toNat with
        | none => put s fun t => (t.wr d 0).setPred p false
        | some h => put (withHoop s h) fun t =>
            (t.wr d (BitVec.ofNat 64 (((withHoop s h).hoop tile h.queue).ident h.queue))).setPred p true))
  | .hfree g a => match s.currentQueue tile (t.rd a).toNat with
    | none => none
    | some q => some (form g [a] [] true (s.drained tile q = true) (s.releaseHoop tile q))
  | .hrsh g d a b =>
      let olds := (slots16 (t.rd a)).filter (· ≠ 0)
      let queues := olds.filterMap (s.currentQueue tile)
      let old := queues.map fun q => (⟨tile, q, (s.hoop tile q).shape, (s.hoop tile q).pos⟩ : HoopAt)
      let needs : Prop := (∀ x ∈ olds, (s.currentQueue tile x).isSome = true) ∧ olds.Nodup ∧
        (∀ x ∈ slots16 (t.rd b), 2 ^ 15 ≤ x → legalRequest (x - 2 ^ 15)) ∧ (∀ q ∈ queues, s.drained tile q = true)
      some (form g [a, b] [d] true needs
        (match placeAll (s.waveTiles (waveOf t.gid)) tile (s.allHoops.filter fun h => !old.contains h) (slots16 (t.rd b)) with
          | none => put s (·.wr d 0)
          | some placed =>
            let fresh := placed.filterMap id
            let u := fresh.foldl State.installHoop ((queues.foldl (fun u q => u.releaseHoop tile q) s).clearRegions fresh old)
            let ident (k : Nat) : Nat := match placed.getD k none with
              | some h => (u.hoop tile h.queue).ident h.queue
              | none => 0
            put u (·.wr d (BitVec.ofNat 64 (ident 0 + 2 ^ 16 * ident 1 + 2 ^ 32 * ident 2 + 2 ^ 48 * ident 3)))))
  | .eres g d a b =>
      let len := ((t.rd a).toNat + 255) / 256
      let rs := (s.tile tile).easel
      let needs : Prop := t.rd a ≠ 0 ∧ (t.rd a).toNat ≤ 1572864 ∧ legalRecord (t.rd b).toNat len
      some (form g [a, b] [d] false needs
        (match (List.range 64).find? (fun i => recLen (rs.get i) == 0), lowestBase rs len with
          | some i, some base =>
            if (rs.map fun r => recLen r.2).sum + len ≤ ((s.waveOfThread tid).node.mem.toNat % 2 ^ 21 + 255) / 256 then
              put (withRecord s tile i (BitVec.ofNat 64 (base * 2 ^ 51 + len * 2 ^ 38 + (t.rd b).toNat)))
                (·.wr d (BitVec.ofNat 64 (i + 1)))
            else put s (·.wr d 0)
          | _, _ => put s (·.wr d 0)))
  | .erel g a =>
      let h := (t.rd a).toNat
      let free : Prop := match t.erel with
        | some (_, before) => ∀ id ∈ before, ((s.engine tile (id / 2 ^ 32)).command (id % 2 ^ 32)).isNone = true
        | _ => ∀ e ∈ [1, 2, 3, 4], ∀ c ∈ (s.engine tile e).issued ++ (s.engine tile e).started, c.namesRecord (h - 1) = false
      some (form g [a] [] true ((s.easelRecord tile h).isSome = true ∧ free) (withRecord s tile (h - 1) 0))
  | .eset g a b => match s.easelRecord tile (t.rd a).toNat with
    | none => none
    | some r => some (form g [a, b] [] false (legalRecord (t.rd b).toNat (recLen r))
        (withRecord s tile ((t.rd a).toNat - 1) (BitVec.ofNat 64 (r.toNat / 2 ^ 38 * 2 ^ 38 + (t.rd b).toNat))))
  | _ => none

/-- No quarter of a panel is in two hoops (R288). -/
def HoopsApart (hs : List HoopAt) : Prop :=
  hs.Pairwise fun a b => ∀ q ∈ hoopQuarters a.shape a.pos a.tile, q ∉ hoopQuarters b.shape b.pos b.tile

/-! ## Texture, ray and rasterisation assists -/

/-- The prologue of an assist: a proof core's, guarded. -/
def assist (g : Guard) (rs ws : List (BitVec 6)) : Spec := { guard := some g, kind := .proof, reads := rs, writes := ws }

/-- The state after an assist of thread `tid` of `s` that has read its memory, leaving `r`, and changes its thread by `f`. -/
def assisted (s r : State) (tid : Nat) (f : Thread → Thread) : State :=
  (r.setThread tid (f (r.thread tid))).complete tid (s.after tid 2) (!(s.thread tid).prv)

/-- Four FP32 values in gd and gd + 1, the first in the low half. -/
def fourIn (d : BitVec 6) (a b c e : Nat) (t : Thread) : Thread :=
  (t.wr d (BitVec.ofNat 64 (a + b * 2 ^ 32))).wr (d + 1) (BitVec.ofNat 64 (c + e * 2 ^ 32))

end Sys2Proof.Claims

open Sys2Proof Sys2Proof.Machine Sys2Proof.Claims

/-- R292, R293, R296-R302: the hoop allocator's and the easel's instructions complete with the identifiers, handles and
records the manual gives; a request that cannot be placed leaves 0. The order of the refusals is the model's reading
(log entry 42). -/
def Obligations.HoopResults : Prop := Completes hoopEffect

/-- R288, R293: HALLOC and HFREE keep every quarter of a panel in one hoop at most. -/
def Obligations.HoopsStayApart : Prop :=
  ∀ (s : State), HoopsApart s.allHoops → s.tiles.wf = true → (∀ p ∈ s.tiles, p.2.hoops.wf = true) →
    (∀ (tiles : List Nat) (tile req : Nat) (h : HoopAt), placeHoop tiles s.allHoops tile req = some h →
      HoopsApart (withHoop s h).allHoops) ∧
    (∀ tile q, HoopsApart (s.releaseHoop tile q).allHoops)

/-- R230-R237: TEX, TEXG and TEXQ whose descriptor and texels can be read complete: the filtered texel, the four texels of a
channel, or the size of a level, in their destinations. -/
def Obligations.TextureResults : Prop :=
  ∀ (g : Guard) (d a b l : BitVec 6) (s r : State) (tid : Nat) (bs : List Byte) (x : Texture),
    ((s.thread tid).rd a).toNat % 16 = 0 → s.readPlain tid ((s.thread tid).rd a).toNat true 16 = .ok r bs →
    textureOf (leNat bs) = some x →
    let t := s.thread tid
    let u := (t.rd b).toNat % 2 ^ 32
    let v := (t.rd b).toNat / 2 ^ 32
    let lq := levelFixed x ((t.rd l).toNat % 2 ^ 32)
    (wellFormed (.tex g d a b l) = true → Able s tid (assist g [a, b, l] [d, d + 1]) →
      let k := if x.mip = 0 then 0 else if x.mip = 1 then (lq + 128) / 256 else lq / 256
      let lf := if x.mip = 2 then lq % 256 else 0
      ∀ (r0 r1 : State) (v0 v1 : List (List Nat)), State.readTexels tid x k false (x.taps k u v) r = .ok r0 v0 →
        State.readTexels tid x (k + 1) false (if lf = 0 then [] else x.taps (k + 1) u v) r0 = .ok r1 v1 →
        let channel (ch : Nat) : Nat :=
          if x.nch ≤ ch then (if ch = 3 then 0x3F800000 else 0)
          else if x.mip = 2 then mipJoin (filterChannel x.filt (x.taps k u v) v0 ch)
            (filterChannel x.filt (if lf = 0 then [] else x.taps (k + 1) u v) v1 ch) lf
          else filterChannel x.filt (x.taps k u v) v0 ch
        exec (.tex g d a b l) s = .next (assisted s r1 tid (fourIn d (channel 0) (channel 1) (channel 2) (channel 3)))) ∧
    (∀ ch : BitVec 2, wellFormed (.texg g d a b l ch) = true → Able s tid (assist g [a, b, l] [d, d + 1]) →
      let k := if x.mip = 0 then 0 else (lq + 128) / 256
      ∀ (r0 : State) (x0 x1 y0 y1 : List Nat), State.readTexels tid x k true (x.bilinear k u v) r = .ok r0 [x0, x1, y0, y1] →
        let pick (c : List Nat) : Nat := if x.nch ≤ ch.toNat then (if ch = 3 then 0x3F800000 else 0) else c.getD ch.toNat 0
        exec (.texg g d a b l ch) s = .next (assisted s r0 tid (fourIn d (pick x0) (pick x1) (pick y0) (pick y1)))) ∧
    (wellFormed (.texq g d a b) = true → Able s tid (assist g [a, b] [d]) →
      let k := (t.rd b).toNat
      let size := if x.lvm1 < k then 0 else x.wk k + x.hk k * 2 ^ 32
      exec (.texq g d a b) s = .next (assisted s r tid (·.wr d (BitVec.ofNat 64 (size + (x.lvm1 + 1) * 2 ^ 56)))))

/-- R238-R244: RAYBOX, RAYTRI, RAST and BARY whose record can be read complete: a hit sets the predicate and the results, a miss
clears the predicate and leaves the registers; RAST gives coverage, BARY the two coordinates, NaN for a flat triangle. -/
def Obligations.RayAndRasterResults : Prop :=
  ∀ (g : Guard) (d a b : BitVec 6) (p : BitVec 3) (s r : State) (tid : Nat) (bs : List Byte),
    let t := s.thread tid
    let va := (t.rd a).toNat
    (wellFormed (.raybox g d a b p) = true → Able s tid (assist g [a, b, b + 1, b + 2, b + 3] [d]) → va % 16 = 0 →
      s.readPlain tid va true 24 = .ok r bs →
      exec (.raybox g d a b p) s = .next (match rayBox (rayWords t b) ((List.range 6).map (word32 bs)) with
        | some tn => assisted s r tid fun t => (t.wr d (BitVec.ofNat 64 tn)).setPred p true
        | none => assisted s r tid (·.setPred p false))) ∧
    (wellFormed (.raytri g d a b p) = true → Able s tid (assist g [a, b, b + 1, b + 2, b + 3] [d, d + 1]) → va % 16 = 0 →
      s.readPlain tid va true 36 = .ok r bs →
      exec (.raytri g d a b p) s = .next (match rayTri (rayWords t b) ((List.range 9).map (word32 bs)) with
        | some (x, u, v) => assisted s (r.setThread tid ((r.thread tid).setPred p true)) tid (fourIn d x u v 0)
        | none => assisted s r tid (·.setPred p false))) ∧
    (wellFormed (.rast g a b p) = true → Able s tid (assist g [a, b] []) → va % 8 = 0 → s.readPlain tid va true 24 = .ok r bs →
      exec (.rast g a b p) s = .next (assisted s r tid (·.setPred p (rastIn bs (t.rd b)).covered))) ∧
    (wellFormed (.bary g d a b) = true → Able s tid (assist g [a, b] [d]) → va % 8 = 0 → s.readPlain tid va true 24 = .ok r bs →
      let x := rastIn bs (t.rd b)
      let w (i : Nat) : Nat := if x.area = 0 then 0x7FC00000 else quot32 0 (x.f i x.p) x.area
      exec (.bary g d a b) s = .next (assisted s r tid (·.wr d (BitVec.ofNat 64 (w 1 + w 2 * 2 ^ 32)))))

namespace Sys2Proof.Claims

open Sys2Proof.Machine

/-! ## Patch words -/

/-- The engine whose turn it is fetches the patch word its strand `st` stands at: its tile runs, and neither an IDLE, nor
sixteen waiting commands, nor a translation holds its sequencer (07 R149, 13 R251, R256). -/
structure Fetching (s : State) (tile e : Nat) (st : Strand) : Prop where
  cur : s.cur = .engine tile e
  strand : (s.engine tile e).strand = some st
  running : (s.tile tile).stopped = false
  busy : st.idling = false ∧ (s.engine tile e).full = false ∧ st.wait = none

/-- The strand gone on to its next word. -/
def wentOn (s : State) (tile e : Nat) (st : Strand) : State :=
  s.setEngine tile e { s.engine tile e with strand := some st.advance }

/-- A working copy of a template replaced. -/
def withTemplate (s : State) (tile e k : Nat) (img : BitVec 256) : State :=
  s.setEngine tile e { s.engine tile e with templates := (s.engine tile e).templates.set k img }

/-- The template with what a patch word changes in it, none where the word is refused (R144, R145, Table 7.16); and whether
the word issues it. -/
def patched (i : Instr) (templates : SMap (BitVec 256)) : Option (Nat × Option (BitVec 256) × Bool) :=
  match i with
  | .amend t f v => some (t.toNat, amended (templates.get t.toNat) f.toNat v.toNat, false)
  | .issueField t f v => some (t.toNat, amended (templates.get t.toNat) f.toNat v.toNat, true)
  | .issue t => some (t.toNat, some (templates.get t.toNat), true)
  | .issueAdd t f v => some (t.toNat, added (templates.get t.toNat) f.toNat v, true)
  | _ => none

/-- The command an engine's next issue makes: the template's copy, the next sequence number, the tile's layout registers
and its control core's random key as they stand (R143, 13 R250). -/
def nextCommand (s : State) (tile e : Nat) (img : BitVec 256) : Command :=
  { (default : Command) with
    seq := (s.engine tile e).seq + 1, waited := s.cycle, image := img, rkey := (s.thread (controlTid tile)).rkey
    lays := (s.tile tile).layouts, after := (s.engine tile e).after }

/-! ## Commands at work -/

/-- The engine's one started command `c` of a class and opcode can go on: its tile runs, it is not finished, waits for
nothing, and no fault that a walk or the driver's refusal brought it is still to be raised. -/
structure Working (s : State) (tile e : Nat) (c : Command) (cls opc : Nat) : Prop where
  cur : s.cur = .engine tile e
  running : (s.tile tile).stopped = false
  started : (s.engine tile e).started = [c]
  row : imgClass c.image = cls ∧ imgOpc c.image = opc
  going : c.finished = false ∧ c.wait = none ∧ c.refusal = none

/-- The end of a piece of work: the command's wait is counted from now. -/
def workDone (u : State) (tile e : Nat) (c : Command) : State :=
  match (u.engine tile e).command c.seq.toNat with
  | some d => u.setCommand tile e { d with waited := u.cycle }
  | none => u

/-- The FP32 a float element stands for, computed on and given back in FMTO with its saturation (R274). -/
def inFp32 (c : Command) (a : Nat) (f : FVal → Nat) : Nat :=
  match floatOf c.fmt, floatOf c.fmto with
  | some x, some o => satF o c.sat (deliver o 0 false (decodeF fp32 (f (decodeF x a)))).bits
  | _, _ => 0

/-- An element-wise template opcode (R270, R272-R275): class, opcode, the bits of A, B and C, and the result of element n from its
operands' bits. -/
def elementRow (i : Instr) (c : Command) : Option (Nat × Nat × (Nat × Nat × Nat) × (Nat → Nat → Nat → Nat → Nat)) :=
  let w := fmtBits c.fmt
  let int (x : Nat) : Int := intValue c.fmt x
  let sum (ff : FloatFmt → Nat) (fi : Int) : Nat := match floatOf c.fmt with
    | some f => satF f c.sat (ff f)
    | none => satInt c.sat (fmtBits c.fmto) fi
  match i with
  | .vadd => some (2, 0x01, (w, w, w), fun _ a b _ => sum (fun f => (addF f c.rm false a b).bits) (int a + int b))
  | .vsub => some (2, 0x02, (w, w, w), fun _ a b _ => sum (fun f => (subF f c.rm false a b).bits) (int a - int b))
  | .vmul => some (2, 0x03, (w, w, w), fun _ a b _ => sum (fun f => (mulF f c.rm false a b).bits) (int a * int b))
  | .vfma => some (2, 0x04, (w, w, w), fun _ a b x =>
      sum (fun f => (fmaF f c.rm false a b x).bits) (int a * int b + int x))
  | .vmin => some (2, 0x05, (w, w, w), fun _ a b _ => match floatOf c.fmt with
      | some f => (minMaxF f false false a b).bits
      | none => if int a ≤ int b then a else b)
  | .vmax => some (2, 0x06, (w, w, w), fun _ a b _ => match floatOf c.fmt with
      | some f => (minMaxF f false true a b).bits
      | none => if int a ≤ int b then b else a)
  | .vabs => some (2, 0x07, (w, w, w), fun _ a _ _ => match floatOf c.fmt with
      | some f => satF f c.sat (a % 2 ^ (f.width - 1))
      | none => satInt c.sat w |int a|)
  | .vcmp => some (2, 0x08, (w, w, w), fun _ a b _ =>
      if (match floatOf c.fmt with
        | some f => (cmpF f false (c.sub % 8) a b).1
        | none => condInt 64 (c.sub % 8) (wrapInt 64 (int a)) (wrapInt 64 (int b))) then 1 else 0)
  | .vsel => some (2, 0x09, (w, w, 8), fun _ a b x => if x = 0 then b else a)
  | .vlog => some (2, 0x0A, (w, w, w), fun _ a b _ => ((List.range w).map fun k =>
      if c.sub.testBit (2 * (a.testBit k).toNat + (b.testBit k).toNat) then 2 ^ k else 0).sum)
  | .vshf => some (2, 0x0B, (w, w, w), fun _ a b _ => match c.sub % 4 with
      | 0 => a * 2 ^ (b % w) % 2 ^ w
      | 1 => a / 2 ^ (b % w)
      | 2 => wrapInt w (sextNat w a / (2 ^ (b % w) : Nat))
      | _ => (a * 2 ^ (b % w) + a / 2 ^ (w - b % w)) % 2 ^ w)
  | .vexp2 => some (3, 0x01, (w, w, w), fun _ a _ _ => inFp32 c a fun v => (special32 .exp2 v).bits)
  | .vlog2 => some (3, 0x02, (w, w, w), fun _ a _ _ => inFp32 c a fun v => (special32 .log2 v).bits)
  | .vrcp => some (3, 0x03, (w, w, w), fun _ a _ _ => inFp32 c a fun v => (special32 .rcp v).bits)
  | .vrsq => some (3, 0x04, (w, w, w), fun _ a _ _ => inFp32 c a fun v => (special32 .rsq v).bits)
  | .vsqrt => some (3, 0x05, (w, w, w), fun _ a _ _ => sqrtTo c a)
  | .vcvt => some (4, 0x01, (w, w, w), fun _ a _ _ => convertSat c.fmt c.fmto c.rm c.sat a)
  | .vscale => some (4, 0x04, (w, 32, 0), fun _ a b _ => match floatOf c.fmt, floatOf c.fmto with
      | some f, some o => satF o c.sat (toFmt c.fmto c.rm (scaleBy (decodeF f a) (sextNat 32 b)))
      | _, _ => 0)
  | .vsrnd => some (4, 0x05, (w, 0, 0), fun n a _ _ => match floatOf c.fmt, floatOf c.fmto with
      | some f, some o => satF o c.sat (
          if c.sub = 0 then stoTo c.fmto (decodeF f a) (drawOf c n)
          else if drawOf c n < c.draw.toNat / 2 ^ 96 % 2 ^ 32 then 0
          else toFmt c.fmto c.rm (mulV (decodeF f a) (decodeF fp32 (c.draw.toNat / 2 ^ 128 % 2 ^ 32))).1)
      | _, _ => 0)
  | _ => none

/-- The template opcodes that work on more than one element at a time: class, opcode, and a piece of their work. -/
def pieceRow (i : Instr) : Option (Nat × Nat × (State → Nat → Nat → Command → Eng State)) :=
  match i with
  | .vxop => some (2, 0x0D, opVxopWork)
  | .vpackmx => some (4, 0x02, packWork)
  | .vunpk => some (4, 0x03, unpackWork)
  | .vred => some (5, 0x01, redWork)
  | .vscan => some (5, 0x02, scanWork)
  | .vperm => some (5, 0x03, permWork)
  | .vbcast => some (5, 0x04, bcastWork)
  | .vtrn => some (5, 0x05, trnWork)
  | .wld => some (1, 0x01, wldWork)
  | .mma => some (1, 0x02, mmaWork)
  | .mmw => some (1, 0x03, mmaWork)
  | .acrd => some (1, 0x04, acrdWork)
  | .cpy => some (6, 0x01, copyWork)
  | .gath => some (6, 0x02, copyWork)
  | .scat => some (6, 0x03, copyWork)
  | .mcst => some (6, 0x04, copyWork)
  | .halo => some (6, 0x05, copyWork)
  | .coll => some (6, 0x06, collWork)
  | .dpos => some (6, 0x07, copyWork)
  | _ => none

/-! ## Pieces of work whose elements depend on one another -/

/-- A started command of a class and opcode that has a vector left, whose inputs are there. -/
structure VectorDue (s : State) (tile e : Nat) (c : Command) (cls opc : Nat) : Prop where
  works : Working s tile e c cls opc
  left : c.cursor < c.vectors
  ready : s.inputsReady tile e c = true

/-- `n` scratchpad bytes at an offset read as `v`. -/
def Reads (s : State) (tile at_ n v : Nat) : Prop := ∃ l, s.spAt tile at_ n = .ok l ∧ s.engRead l at_ n = .ok v

/-- The operation of a reduction or a scan (R77, R275, R282): 0 a sum, 1 the least, 2 the greatest, floats at FP32 and integers at
their own width. -/
def joined (fmt op a b : Nat) : Nat :=
  let least (x y : Nat) : Nat := if intValue fmt x ≤ intValue fmt y then x else y
  let most (x y : Nat) : Nat := if intValue fmt x ≤ intValue fmt y then y else x
  match (floatOf fmt).isSome, op with
  | true, 0 => rne32 (addV 0 (decodeF fp32 a) (decodeF fp32 b)).1
  | true, k => (minMaxF fp32 false (k == 2) a b).bits
  | false, 0 => (a + b) % 2 ^ fmtBits fmt
  | false, k => if k = 2 then most a b else least a b

/-- An element as a reduction takes it in: a float at FP32. -/
def entering (c : Command) (a : Nat) : Nat := match floatOf c.fmt with
  | some f => widen32 f a
  | none => a
/-- A reduction's result as it is written: a float rounded once to FMTO. -/
def leaving (c : Command) (a : Nat) : Nat :=
  if (floatOf c.fmt).isSome then toFmt c.fmto 0 (decodeF fp32 a) else a

/-- One vector of VXOP (R330), VPERM, VBCAST, VTRN, VSCAN and VRED (R77, R275). The part of a list that ends in a later vector
waits in the command; so do results until 192 of them make a vector of a stream. -/
def VectorPieces : Prop :=
  ∀ (s u v : State) (tile e : Nat) (c : Command) (a b x : Nat → Nat),
    let es := c.vecElems c.cursor
    let w := fmtBits c.fmt
    let reads (k bits : Nat) (f : Nat → Nat) : Prop := ∀ n ∈ es, s.operand tile e c k bits n = .ok (f n)
    let la := c.opLay (c.word 0)
    let ld := c.opLay c.wd
    let len := if c.sub / 4 % 2 = 1 then la.x else c.count
    let kept := tagged c 0
    let all := kept ++ es.map fun n => entering c (a n)
    let lists := all.length / len
    let result (j : Nat) : Nat := leaving c (reduceTree (joined c.fmt (c.sub % 4)) 0 ((all.drop (len * j)).take len))
    let results := (List.range lists).map result
    let rest := tagLists (all.drop (len * lists))
    let waiting := tagged c 1
    let source (n : Nat) : Nat := if c.sub / 4 % 2 = 1 then n / ld.x else 0
    let last (n : Nat) : Bool := decide (c.vectors ≤ n)
    (VectorDue s tile e c 2 0x0D → reads 0 w a → reads 1 w b → reads 2 w x →
      s.deliverElems tile e c es (es.map fun n => (patEval c.pattern [a n, b n, x n]).1) = .ok u →
      (if patTwo c.pattern then
        u.deliverElems tile e c (es.map (· + c.count)) (es.map fun n => (patEval c.pattern [a n, b n, x n]).2) = .ok v
       else v = u) →
      exec .vxop s = .next (workDone (v.nextVector tile e c) tile e c)) ∧
    (VectorDue s tile e c 5 0x03 → reads 0 w a → reads 1 32 b →
      s.deliverElems tile e c es (es.map fun n =>
        if b n < 192 ∧ 192 * c.cursor + b n < c.count then a (192 * c.cursor + b n) else 0) = .ok u →
      exec .vperm s = .next (workDone (u.nextVector tile e c) tile e c)) ∧
    (VectorDue s tile e c 5 0x05 → reads 0 w a →
      s.spPutAll tile (es.map fun n =>
        let j := la.index n
        ((ld.place (c.opStart c.wd) (fmtBits c.fmto) 32 (j.2.1, j.1, j.2.2), fmtBits c.fmto, false), a n)) = .ok u →
      exec .vtrn s = .next (workDone (u.nextVector tile e c) tile e c)) ∧
    (VectorDue s tile e c 5 0x02 → reads 0 w a → kept.length < len →
      s.deliverElems tile e c es ((List.range es.length).map fun k =>
        let p := kept.length + k
        let list := (all.drop (p / len * len)).take (p % len + 1)
        leaving c ((scanTree (joined c.fmt (c.sub % 4)) (Nat.log2 list.length + 1) 1 list).getLastD 0)) = .ok u →
      exec .vscan s = .next (workDone (u.nextVector tile e { c with partials := rest [] }) tile e c)) ∧
    (VectorDue s tile e c 5 0x01 → reads 0 w a → kept.length < len → c.dst = 1 →
      s.deliverElems tile e c ((List.range lists).map (c.sent + ·)) results = .ok u →
      let r := u.freeInputs tile e { c with partials := rest [], sent := c.sent + lists }
      exec .vred s = .next (workDone
        (r.1.setCommand tile e { r.2 with cursor := c.cursor + 1, finished := last (c.cursor + 1) }) tile e c)) ∧
    (VectorDue s tile e c 5 0x01 → reads 0 w a → kept.length < len → c.dst ≠ 1 → waiting.length < 192 →
      let r := s.freeInputs tile e { c with partials := rest (waiting ++ results) }
      exec .vred s = .next (workDone (r.1.setCommand tile e { r.2 with
        cursor := c.cursor + 1, finished := last (c.cursor + 1) && (waiting ++ results).isEmpty }) tile e c)) ∧
    (Working s tile e c 5 0x01 → c.dst ≠ 1 → 192 ≤ waiting.length ∨ (last c.cursor = true ∧ waiting ≠ []) →
      s.deliverElems tile e c [] (waiting.take 192) = .ok u →
      exec .vred s = .next (workDone (u.setCommand tile e { c with
        partials := tagLists kept (waiting.drop 192), sent := c.sent + 192 }) tile e c)) ∧
    (Working s tile e c 5 0x04 → c.cursor < c.vectors → (∀ n ∈ es, s.operand tile e c 0 w (source n) = .ok (a (source n))) →
      s.deliverElems tile e c es (es.map fun n => a (source n)) = .ok u →
      let past : Prop := c.cursor + 1 < c.vectors ∧ ∃ i ∈ c.inputs, c.freed.get i < source (192 * (c.cursor + 1)) / 192
      let next (r : State × Command) : State := r.1.setCommand tile e { r.2 with
        cursor := c.cursor + 1, finished := last (c.cursor + 1) && c.inputs.isEmpty }
      (past → exec .vbcast s = .next (workDone (next (u.freeInputs tile e c)) tile e c)) ∧
      (¬ past → exec .vbcast s = .next (workDone (next (u, c)) tile e c))) ∧
    (Working s tile e c 5 0x04 → c.vectors ≤ c.cursor → s.inputsReady tile e c = true →
      (∃ i ∈ c.inputs, c.freed.get i < c.vectors) →
      let r := s.freeInputs tile e c
      exec .vbcast s = .next (workDone (r.1.setCommand tile e r.2) tile e c))

/-- One vector of VPACKMX: blocks of 32, each packed by R62 with its scale where R265 places it; and of VUNPK, from an MX
block (R61) and from a Picot-8 index and its scale (R65, R275). -/
def PackPieces : Prop :=
  ∀ (s u : State) (tile e : Nat) (c : Command) (a sc : Nat → Nat),
    let es := c.vecElems c.cursor
    let blocks := List.range (es.length / 32)
    let block (b : Nat) : List Nat := (List.range 32).map (192 * c.cursor + 32 * b + ·)
    let w := fmtBits c.fmt
    let l := c.opLay (c.word 0)
    let from_ := c.opStart (c.word 0)
    let done : Host.Outcome State Fault Refusal := .next (workDone (u.nextVector tile e c) tile e c)
    (∀ f, floatOf c.fmt = some f → VectorDue s tile e c 4 0x02 → c.count % 32 = 0 →
      (∀ n ∈ es, s.operand tile e c 0 w n = .ok (a n)) →
      let d := c.opLay c.wd
      let start := c.opStart c.wd
      let out := fmtBits c.fmto
      let packed (b : Nat) : Nat × List Nat := mxPack c.fmto (if c.rm = 5 then some ((block b).map (drawOf c)) else none)
        ((block b).map fun n => decodeF f (a n))
      let first (b : Nat) : Nat := 192 * c.cursor + 32 * b
      s.spPutAll tile (blocks.flatMap fun b => ((block b).map (d.cell start out)).zip (packed b).2 ++
        [((d.scale start out (first b) (first b % d.x / 32), 8, false), (packed b).1)]) = .ok u →
      exec .vpackmx s = done) ∧
    (Working s tile e c 4 0x03 → c.cursor < c.vectors → c.fmt ≠ 13 →
      (∀ n ∈ es, s.spElem tile l from_ w n = .ok (a n) ∧ Reads s tile (l.scale from_ w n (n % l.x / 32)) 1 (sc n)) →
      s.deliverElems tile e c es (es.map fun n =>
        toFmt c.fmto c.rm (decodeF fp32 (rne32 (scaleE8 (sc n) (mxElem c.fmt (a n)))))) = .ok u →
      exec .vunpk s = done) ∧
    (Working s tile e c 4 0x03 → c.cursor < c.vectors → c.fmt = 13 →
      let len := 8 * 2 ^ (c.sub - 2)
      (∀ n ∈ es, Reads s tile (l.place from_ 2 32 ((l.index n).1 / 8 * 8, (l.index n).2)) 2 (a n) ∧
        Reads s tile (l.scale from_ 2 n (n % l.x / len * 2)) 2 (sc n)) →
      s.deliverElems tile e c es (es.map fun n => toFmt c.fmto c.rm
        (decodeF fp32 (rne32 (mulV (picotValue (a n) ((l.index n).1 % 8)) (decodeF bf16 (sc n))).1))) = .ok u →
      exec .vunpk s = done)

/-! ## The matrix commands -/

/-- The weight of K position `k` and column `n` reads as `v`: an easel's column is a row of its record; Picot-8 is read as the
index that holds it (R303-R305). -/
def WeightIs (s : State) (tile : Nat) (c : Command) (k n v : Nat) : Prop :=
  let l := c.hlay c.bw
  let i := if c.tb then k * l.x + n else n * l.x + k
  if c.bk = 2 then v = s.easelElem tile (c.easelOp 1 c.bw) n k
  else if l.fmt = 13 then Reads s tile (l.place (c.hstart c.bw) 2 32 ((l.index i).1 / 8 * 8, (l.index i).2)) 2 v
  else s.spElem tile l (c.hstart c.bw) (fmtBits l.fmt) i = .ok v

/-- The scale of the block that holds it reads as `v` (R265, R303, R308). -/
def ScaleIs (s : State) (tile : Nat) (c : Command) (k n v : Nat) : Prop :=
  let l := c.hlay c.bw
  let o := c.easelOp 1 c.bw
  let i := n * l.x + k
  if c.bk = 2 then v = s.easelScale tile o n (k / o.blen)
  else if l.fmt = 13 then Reads s tile (l.scale (c.hstart c.bw) 2 i (i % l.x / (8 * 2 ^ c.pbl) * 2)) 2 v
  else Reads s tile (l.scale (c.hstart c.bw) (fmtBits l.fmt) i (i % l.x / 32)) 1 v

/-- The hoop with the scales of the eights of K positions from `lo` up to `hi` loaded, eight by eight, one of each column. -/
def scalesIn (s : State) (tile e : Nat) (c : Command) (lo hi : Nat) (sc : Nat → Nat → Nat) : State :=
  ((List.range (hi - lo)).map (lo + ·)).foldl (fun u b =>
    let h := u.hoop tile (e - 1)
    u.setHoop tile (e - 1) { h with scales := SMap.setMany h.scales (b * 384) ((List.range c.ncols).map (sc b)) }) s

/-- The hoop with the weights of the K positions from `lo` up to `hi` loaded, position by position, a row of N columns each. -/
def weightsIn (s : State) (tile e : Nat) (c : Command) (lo hi : Nat) (w : Nat → Nat → Nat) : State :=
  ((List.range (hi - lo)).map (lo + ·)).foldl (fun u k =>
    let h := u.hoop tile (e - 1)
    u.setHoop tile (e - 1) { h with weights := SMap.setMany h.weights (k * 384) ((List.range c.ncols).map (w k)) }) s

/-- The weight state after a load of `count` K positions (R308). -/
def stateIn (s : State) (tile e : Nat) (c : Command) (count : Nat) : State :=
  s.setHoop tile (e - 1) { s.hoop tile (e - 1) with
    loaded := true, wfmt := c.bfmtNow, wblk := c.bblk, wk := count, wn := c.ncols }

/-- WLD: the scales of its extent first, then the weights, then the weight state (R308). A load that meets a byte it cannot read
has loaded everything before its K position, and its cursor stands there, where the cause is raised (R19, Table 15.13). -/
def WeightPieces : Prop :=
  ∀ (s : State) (tile e : Nat) (c : Command) (w sc : Nat → Nat → Nat), Working s tile e c 1 0x01 →
    (s.hoop tile (e - 1)).present = true →
    let next (u : State) (d : Command) : Host.Outcome State Fault Refusal := .next (workDone (u.setCommand tile e d) tile e c)
    let lo := c.cursor / 8
    let rows := if c.bblk = 0 then 0 else (c.kext + 7) / 8
    let scaled (m : Nat) : Prop := ∀ b, lo ≤ b → b < m → ∀ n < c.ncols, ScaleIs s tile c (8 * b) n (sc b n)
    let loaded (m : Nat) : Prop := ∀ k, c.cursor ≤ k → k < m → ∀ n < c.ncols, WeightIs s tile c k n (w k n)
    (c.cursor2 = 0 → scaled rows → exec .wld s = next (scalesIn s tile e c lo rows sc) { c with cursor := 0, cursor2 := 1 }) ∧
    (∀ m, c.cursor2 = 0 → lo < m → m < rows → scaled m → (∃ n < c.ncols, ∀ v, ¬ ScaleIs s tile c (8 * m) n v) →
      exec .wld s = next (scalesIn s tile e c lo m sc) { c with cursor := c.cursor + 8 * (m - lo) }) ∧
    (c.cursor2 ≠ 0 → c.cursor < c.kext → loaded c.kext →
      exec .wld s = next (weightsIn s tile e c c.cursor c.kext w) { c with cursor := c.kext }) ∧
    (∀ m, c.cursor2 ≠ 0 → c.cursor < m → m < c.kext → loaded m → (∃ n < c.ncols, ∀ v, ¬ WeightIs s tile c m n v) →
      exec .wld s = next (weightsIn s tile e c c.cursor m w) { c with cursor := m }) ∧
    (c.cursor2 ≠ 0 → c.kext ≤ c.cursor → exec .wld s = next (stateIn s tile e c c.kext) { c with finished := true })

/-- A pixel of an MMW's window: row m, column k (R311). One that PAD zero leaves out has no element; one that mirroring leaves
outside the image has no value in the manual (log entry 41). -/
def pixelIs (s : State) (tile : Nat) (c : Command) (m k : Nat) (v : Option Nat) : Prop :=
  let l := c.hlay c.aw
  let n := c.window
  let q := c.bw + m
  let y : Int := ((n.y0 + q / n.ow * n.s + k / l.x / n.kw * n.dil : Nat) : Int) - n.ph
  let x : Int := ((n.x0 + q % n.ow * n.s + k / l.x % n.kw * n.dil : Nat) : Int) - n.pw
  let within (i : Int) (size : Nat) : Prop := 0 ≤ i ∧ i < size
  let moved (i : Int) (size : Nat) : Int := if within i size then i else if n.pad = 1 then min (max i 0) ((size : Int) - 1)
    else if i < 0 then -i else 2 * (size : Int) - 2 - i
  if n.pad = 0 ∧ ¬ (within y l.z ∧ within x l.y) then v = none
  else
    let y := moved y l.z
    let x := moved x l.y
    if within y l.z ∧ within x l.y then ∃ p, v = some p ∧
      s.spElem tile l (c.hstart c.aw) (fmtBits l.fmt) ((y.toNat * l.y + x.toNat) * l.x + k % l.x) = .ok p
    else v = some ((Config.freeWord (s.free + m * c.kext + k)).toNat % 2 ^ fmtBits l.fmt)

/-- A's element of row m and K position k enters the hoop as `v` (R303-R305, R309, R311). -/
def ElementIs (s : State) (tile : Nat) (c : Command) (m k : Nat) (v : Option Nat) : Prop :=
  let l := c.hlay c.aw
  if imgOpc c.image = 3 then pixelIs s tile c m k v
  else if c.ak = 2 then v = some (s.easelElem tile (c.easelOp 0 c.aw) m k)
  else ∃ x, v = some x ∧
    s.spElem tile l (c.hstart c.aw) (fmtBits l.fmt) (if c.ta then k * l.x + m else m * l.x + k) = .ok x

/-- The scale byte of A's block that holds row m and K position k. -/
def AScaleIs (s : State) (tile : Nat) (c : Command) (m k v : Nat) : Prop :=
  let l := c.hlay c.aw
  let i := m * l.x + k
  if c.ak = 2 then v = s.easelScale tile (c.easelOp 0 c.aw) m (k / 32)
  else Reads s tile (l.scale (c.hstart c.aw) (fmtBits l.fmt) i (i % l.x / 32)) 1 v

/-- The scaled sum of one group of sixteen products (R66-R70): a fixed tree, every addition and product rounded to FP32, with
A's scale byte where A is MX, and the scales of the weight blocks that hold the group. -/
def groupTotal (p : Nat → FVal) (ea : Option Nat) (blk s0 s1 : Nat) (beyond : Bool) : FVal :=
  let round (v : FVal) : FVal := decodeF fp32 (rne32 v)
  let add (x y : FVal) : FVal := round (addV 0 x y).1
  let half (o : Nat) : FVal :=
    add (add (add (p o) (p (o + 1))) (add (p (o + 2)) (p (o + 3)))) (add (add (p (o + 4)) (p (o + 5))) (add (p (o + 6)) (p (o + 7))))
  let scaled (x : FVal) (b : Nat) : FVal := round (mulV x (decodeF bf16 b)).1
  let byA (v : FVal) : FVal := match ea with
    | some x => scaleE8 x v
    | none => v
  if blk = 0 then round (byA (add (half 0) (half 8)))
  else if blk = 1 then round (scaleE8 s0 (byA (add (half 0) (half 8))))
  else if blk = 2 then round (byA (add (scaled (half 0) s0) (if beyond then .fin false 0 0 else scaled (half 8) s1)))
  else round (byA (scaled (add (half 0) (half 8)) s0))

/-- What a row of `len` elements adds to the accumulator of column n (R71, R72): INT8 products modulo 2^32, or the groups of
sixteen in ascending K order, products beyond the extent and padded ones +0. -/
def accumulated (c : Command) (h : Hoop) (len : Nat) (a : Nat → Option Nat) (ea : Nat → Nat) (n acc : Nat) : Nat :=
  if c.iacc then
    wrapInt 32 ((List.range len).foldl (fun (r : Int) k => match a k with
      | some x => r + sextNat 8 x * sextNat 8 (h.weights.get (k * 384 + n))
      | none => r) (acc : Int))
  else
    let product (k : Nat) : FVal := if k < len then
        match a k with
        | some x => (mulV (mxElem c.afmtNow x) (weightValue h k n)).1
        | none => .fin false 0 0
      else .fin false 0 0
    (List.range ((len + 15) / 16)).foldl (fun x g => rne32 (addV 0 (decodeF fp32 x) (groupTotal (fun i => product (16 * g + i))
      (if c.amx then some (ea (g / 2)) else none) h.wblk (h.scales.get (2 * g * 384 + n)) (h.scales.get ((2 * g + 1) * 384 + n))
      (decide (len ≤ 16 * g + 8)))).1) acc

/-- Capture (R310): the row's elements, and its scale bytes, at their places of the easel operand DW. -/
def capturedRow (s : State) (tile : Nat) (c : Command) (m k0 len : Nat) (a : Nat → Option Nat) (ea : Nat → Nat) : State :=
  let o := c.easelOp 2 c.dw
  if c.cap = false then s
  else
    let u := (List.range len).foldl (fun x i => x.easelPut tile o m (k0 + i) ((a i).getD 0)) s
    (List.range (if c.amx then (len + 31) / 32 else 0)).foldl (fun x b => x.setNum ⟨.easel tile, o.scale m (k0 / 32 + b)⟩ 1 (ea b)) u

/-- MMA and MMW (R309-R311): with B of its own, each pass of P K positions gives up the weights that are there, in a turn of its
own, and loads its own; then the rows enter in ascending order, those of a transposed A together up to one that cannot be
read, and every column's accumulator takes its sum; then the next pass, or the end. -/
def MatrixPieces : Prop :=
  ∀ (i : Instr) (opc : Nat) (s : State) (tile e p : Nat) (c : Command) (w sc : Nat → Nat → Nat) (a : Nat → Nat → Option Nat)
    (ea : Nat → Nat → Nat), ((i = .mma ∧ opc = 2) ∨ (i = .mmw ∧ opc = 3 ∧ c.bk = 0)) → Working s tile e c 1 opc →
    (s.hoop tile (e - 1)).present = true → (c.bk ≠ 0 → pairRate c.afmtNow c.amx c.bfmtNow c.bmx = some p) →
    let h := s.hoop tile (e - 1)
    let pass := (shapeDims h.shape).1 * p
    let j := c.cursor2 / 2
    let k0 := if c.bk = 0 then 0 else j * pass
    let k1 := if c.bk = 0 then c.kext else min ((j + 1) * pass) c.kext
    let next (u : State) (d : Command) : Host.Outcome State Fault Refusal := .next (workDone (u.setCommand tile e d) tile e c)
    let ends : Host.Outcome State Fault Refusal :=
      next (if opc = 3 then { s with free := s.free + c.mrows * c.kext } else s) { c with finished := true }
    let rows := if c.ta ∧ c.ak = 1 then (List.range (c.mrows - c.cursor)).map (c.cursor + ·) else [c.cursor]
    let row (u : State) (m : Nat) : State := (List.range c.ncols).foldl (fun x n =>
      let word := accWord h.shape h.pos tile (c.arow + m) n
      x.setAcc word (BitVec.ofNat 32 (accumulated c h (k1 - k0) (a m) (ea m) n
        (if c.ovw = true ∧ j = 0 then 0 else (x.accAt word).toNat)))) (capturedRow u tile c m k0 (k1 - k0) (a m) (ea m))
    (c.mrows = 0 ∨ c.kext ≤ k0 → exec i s = ends) ∧
    (c.mrows ≠ 0 → k0 < c.kext →
      (c.bk ≠ 0 → c.cursor2 % 2 = 0 → h.loaded = true →
        exec i s = .next (workDone (s.setHoop tile (e - 1) { h with loaded := false, weights := [], scales := [] }) tile e c)) ∧
      (c.bk ≠ 0 → c.cursor2 % 2 = 0 → h.loaded = false →
        (∀ b < (k1 - k0 + 7) / 8, ∀ n < c.ncols, c.bblk ≠ 0 → ScaleIs s tile c (k0 + 8 * b) n (sc b n)) →
        (∀ k < k1 - k0, ∀ n < c.ncols, WeightIs s tile c (k0 + k) n (w k n)) →
        let v := scalesIn s tile e c 0 (if c.bblk = 0 then 0 else (k1 - k0 + 7) / 8) sc
        exec i s = next (stateIn (weightsIn v tile e c 0 (k1 - k0) w) tile e c (k1 - k0)) { c with cursor2 := c.cursor2 + 1 }) ∧
      (c.bk = 0 ∨ c.cursor2 % 2 = 1 → c.cursor < c.mrows →
        let reads (m : Nat) : Prop := (∀ k < k1 - k0, ElementIs s tile c m (k0 + k) (a m k)) ∧
          (c.amx = true → ∀ b < (k1 - k0 + 31) / 32, AScaleIs s tile c m (k0 + 32 * b) (ea m b))
        let readable (m : Nat) : Prop := (∀ k < k1 - k0, ∃ v, ElementIs s tile c m (k0 + k) v) ∧
          (c.amx = true → ∀ b < (k1 - k0 + 31) / 32, ∃ v, AScaleIs s tile c m (k0 + 32 * b) v)
        ((∀ m ∈ rows, reads m) → exec i s = next (rows.foldl row s) { c with cursor := c.cursor + rows.length }) ∧
        ∀ done m later, rows = done ++ m :: later → done ≠ [] → (∀ x ∈ done, reads x) → ¬ readable m →
          exec i s = next (done.foldl row s) { c with cursor := c.cursor + done.length }) ∧
      (c.bk = 0 ∨ c.cursor2 % 2 = 1 → c.mrows ≤ c.cursor →
        (c.bk ≠ 0 → k1 < c.kext → exec i s = next s { c with cursor := 0, cursor2 := 2 * (j + 1) }) ∧
        (c.bk = 0 ∨ c.kext ≤ k1 → exec i s = ends)))

/-- ACRD and ACZ (R312): a row of accumulator words converted, saturated and written to the destination's row, and cleared
where CLR says so; ACZ clears its row's words. -/
def AccumulatorPieces : Prop :=
  ∀ (s u : State) (tile e : Nat) (c : Command), c.cursor < c.mrows →
    let h := s.hoop tile (e - 1)
    let word (n : Nat) : Nat × Nat × Nat := accWord h.shape h.pos tile (c.arow + c.cursor) n
    let cleared (x : State) : State := (List.range c.ncols).foldl (fun y n => y.setAcc (word n) 0) x
    let next (x : State) : Host.Outcome State Fault Refusal :=
      .next (workDone (x.setCommand tile e { c with cursor := c.cursor + 1 }) tile e c)
    let l := c.hlay c.dw
    (Working s tile e c 1 0x04 →
      s.spPutAll tile ((List.range c.ncols).map fun n => (l.cell (c.hstart c.dw) (fmtBits l.fmt) (c.cursor * l.x + n),
        convertSat (if c.iacc then 9 else 0) l.fmt c.hrm c.hsat (s.accAt (word n)).toNat)) = .ok u →
      exec .acrd s = next (if c.clr then cleared u else u)) ∧
    (Working s tile e c 1 0x05 → exec .acz s = next (cleared s))

/-! ## The copy engine -/

/-- A copy command's element i reads as `v`, and leaves the state `u`: from scratchpad, from a stream's lane, or as one access
at its virtual address, which for GATH its row's index leads to (R276, R277, R279, R283). -/
def SourceIs (tile e : Nat) (c : Command) (s : State) (i : Nat) (u : State) (v : Nat) : Prop :=
  let va := bitsOf c.src 0 57
  if imgOpc c.image = 2 then ∃ r, Reads s tile ((c.ls.base + 4 * (i / c.ld.x)) % 2 ^ 32) 4 r ∧
    s.vaElem tile (va + r * 16 * c.ls.p1 + i % c.ld.x * c.eb) c.eb = .ok (u, v)
  else if opKind c.src = 3 then u = s ∧ s.spElem tile c.ls (c.ls.base + c.src % 2 ^ 28) c.ebits i = .ok v
  else if opKind c.src = 4 then u = s ∧ ∃ x, (s.engine tile e).vectorAt (c.src % 4) (i / 192 - c.freed.get (c.src % 4)) = .ok x ∧
    v = (SMap.get x (i % 192)).toNat % 2 ^ c.ebits
  else s.vaElem tile (if opKind c.src = 1 then va + i * (c.ebits / 8) else c.ls.elem va c.ebits 64 i) c.eb = .ok (u, v)

/-- A list of elements read one after another. -/
def SourcesAre (tile e : Nat) (c : Command) : State → List Nat → State → List Nat → Prop
  | s, [], u, vs => u = s ∧ vs = []
  | s, i :: is, u, vs => ∃ r v ws, vs = v :: ws ∧ SourceIs tile e c s i r v ∧ SourcesAre tile e c r is u ws

/-- Where element i of a destination goes: a scratchpad offset of the target tile, or a virtual address, which for SCAT its row's
index leads to. -/
def DestIs (s : State) (tile target : Nat) (c : Command) (i : Nat) (d : CopyDst) : Prop :=
  let va := bitsOf c.cdst 0 57
  if imgOpc c.image = 3 then ∃ r, Reads s tile ((c.ld.base + 4 * (i / c.ls.x)) % 2 ^ 32) 4 r ∧
    d = .va (va + r * 16 * c.ld.p1 + i % c.ls.x * c.eb)
  else if opKind c.cdst = 3 ∨ opKind c.cdst = 5 then d = .sp target (c.ld.elem (c.ld.base + c.cdst % 2 ^ 28) c.ebits 32 i)
  else d = .va (if opKind c.cdst = 1 then va + i * (c.ebits / 8) else c.ld.elem va c.ebits 64 i)

/-- The tile the chunk at the cursor goes to: the own one, a multicast's next group's, a neighbour's, or the one whose window
a DPOS writes (R280, R281, R283). -/
def GoesTo (s : State) (tile : Nat) (c : Command) (target : Nat) : Prop :=
  let unit (g : Nat) : Nat := (s.group (waveOf ((s.tile tile).group - 1) * 1024 + g)).unit
  match imgOpc c.image with
  | 4 => c.cursor2 < (mcstGroups c).length ∧ target = unit (bitsOf c.cdst 50 10 + c.cursor2 * bitsOf c.cdst 32 8)
  | 5 => ∃ g, haloGroup (s.waveOfThread (controlTid tile)).node.place.toNat ((s.tile tile).group.pred % 1024) (c.csub % 8) = some g ∧
      target = unit g
  | 7 => target = (windowTile (bitsOf c.cdst 0 57)).getD tile
  | _ => target = tile

/-- The template opcodes of the copy engine but COLL. -/
def copyRow (i : Instr) : Option Nat :=
  match i with
  | .cpy => some 1
  | .gath => some 2
  | .scat => some 3
  | .mcst => some 4
  | .halo => some 5
  | .dpos => some 7
  | _ => none

/-- A chunk of CPY, GATH, SCAT, MCST, HALO and DPOS (R276-R281, R283, R284): its elements are read in order and written at
their destinations, and it waits to be counted; DPOS counts its bytes in the same step. To a stream, 192 elements go
out as a vector. A HALO at the edge, and a command past its last chunk, is finished. -/
def CopyPieces : Prop :=
  ∀ (i : Instr) (opc : Nat) (s r u : State) (tile e target : Nat) (c : Command) (vals : List Nat) (d : Nat → CopyDst)
    (l : Nat → Loc), copyRow i = some opc → Working s tile e c 6 opc → c.phase = 0 →
    let next (x : State) (k : Command) : Host.Outcome State Fault Refusal := .next (workDone (x.setCommand tile e k) tile e c)
    let per := 256 / c.eb
    let es := (List.range (min per (c.count - per * c.cursor))).map (per * c.cursor + ·)
    let total := c.count * c.eb
    let left : Prop := c.cursor < (total + 255) / 256
    let counted := if opc = 4 ∨ opc = 5 ∨ opc = 7 then target else if c.ctile = 0x7F then tile else c.ctile
    let reaches (t : Nat) : Prop := tile = t ∨ s.tileOpen (s.tileWho tile) t = true
    let sends := (List.range (min 192 (c.count - c.sent))).map (c.sent + ·)
    let sent := decide (c.count ≤ c.sent) || decide (min total (256 * (c.cursor + 1)) ≤ c.sent * c.eb)
    (¬ left → exec i s = next s { c with finished := true }) ∧
    (left → opc = 5 → opKind c.cdst ≠ 4 →
      haloGroup (s.waveOfThread (controlTid tile)).node.place.toNat ((s.tile tile).group.pred % 1024) (c.csub % 8) = none →
      exec i s = next s { c with finished := true }) ∧
    (left → opKind c.cdst ≠ 4 → GoesTo s tile c target → (opc = 4 ∨ opc = 5 ∨ opc = 7 → reaches target) →
      (c.cen = true → reaches counted) → SourcesAre tile e c s es r vals →
      (∀ n ∈ es, DestIs r tile target c n (d n) ∧ r.dstPlace tile (.command tile e c.seq.toNat) c.eb (d n) = .ok (l n)) →
      r.copyWrite tile e c c.eb ((es.map fun n => (d n, l n)).zip vals) = .ok u →
      (opc ≠ 7 → exec i s = next u { c with phase := 1 }) ∧
      (opc = 7 → (∀ n ∈ es, ∀ a, d n = .va a → windowTile a = some target ∧ windowTile (a + c.eb - 1) = some target) →
        (∀ n ∈ es, ∃ a, d n = .va a) →
        windowTile (bitsOf c.cdst 0 57) = some target → (u.tile target).sems.get c.csem + es.length * c.eb < 2 ^ 24 →
        exec i s = .next (workDone (((u.setTile target { u.tile target with
          sems := (u.tile target).sems.upd c.csem (· + es.length * c.eb) }).setCommand tile e { c with phase := 3 }).semExamine
            target) tile e c))) ∧
    (left → opKind c.cdst = 4 → sent = false → SourcesAre tile e c s sends r vals →
      r.sendVector tile e (c.cdst % 16) vals = .ok u → exec i s = next u { c with sent := c.sent + 192 }) ∧
    (left → opKind c.cdst = 4 → sent = true →
      (c.cen = true → reaches (if opc = 4 ∨ opc = 5 ∨ opc = 7 ∨ c.ctile = 0x7F then tile else c.ctile)) →
      exec i s = next s { c with phase := 1 })

/-- One result of a COLL (R77, R282): the ranks' elements reduced in rank order by the source format's operation, and rounded
once to the destination's; a format with no reduction, and a format with no conversion, have a result the manual leaves open
(log entry 29). -/
def combined (c : Command) (vs : List Nat) : Nat :=
  let f := c.ls.fmt
  let join (a b : Nat) : Nat := if f = 6 ∨ f = 13 then Config.freeReduce f a b else joined f c.csub a b
  let rounded (src r : Nat) : Nat :=
    if src = 6 ∨ src = 13 ∨ c.ld.fmt = 6 ∨ c.ld.fmt = 13 then Config.freeConvert src c.ld.fmt r % 2 ^ fmtBits c.ld.fmt
    else (convert src c.ld.fmt 0 0 false r).bits
  match floatOf f with
  | some g => rounded 0 (reduceTree join 0 (vs.map (widen32 g)))
  | none =>
    let r := reduceTree join 0 vs
    if f = c.ld.fmt then r else rounded f r

/-- COLL (R282, R284): the rank's contribution is read chunk by chunk; once every rank of the wave has given all of its own, the
packages whose ranks take part have answered, and no link between the ranks' dies holds (R411), every rank holds the results,
reduced in rank order or gathered, and with other packages' ranks between, whose values come from outside; and the results
are written chunk by chunk. Ranks that differ are all marked, and each raises ILLEGAL_INSTRUCTION in its own next turn, its
value the model's choice (log entry 112). -/
def CollPieces : Prop :=
  ∀ (s r u : State) (tile e : Nat) (c : Command) (vals : List Nat) (l : Nat → Loc), Working s tile e c 6 0x06 →
    let next (x : State) (k : Command) : Host.Outcome State Fault Refusal := .next (workDone (x.setCommand tile e k) tile e c)
    let w := waveOf ((s.tile tile).group - 1)
    let unit (g : Nat) : Nat := (s.group (w * 1024 + g)).unit
    let chunk (n : Nat) (k : Nat) : List Nat := (List.range (min (256 / c.eb) (n - 256 / c.eb * k))).map (256 / c.eb * k + ·)
    let ranks := (List.range (s.wave w).groups).map unit
    let full (ds : List Command) : Prop := (∀ d ∈ ds, d.count ≤ d.contrib.length) ∧
      List.Forall₂ (fun t d => (s.tile t).group ≠ 0 ∧ (s.engine t 9).started = [d] ∧ imgOpc d.image = 6 ∧
        d.matchNo = c.matchNo) ranks ds ∧ ∀ g < (s.wave w).groups, (s.tile (unit g)).group = w * 1024 + g + 1
    let alike (d : Command) : Prop :=
      d.count = c.count ∧ d.csub = c.csub ∧ d.ls.fmt = c.ls.fmt ∧ d.ld.fmt = c.ld.fmt
    let domain := (s.waveOfThread (controlTid tile)).node.domain.toNat
    let packages := if c.xpk then max 1 (bitsOf domain 16 16) else 1
    let ordinal := if packages = 1 then 0 else bitsOf domain 0 16
    let held := (c.partials.drop 1).map (·.2)
    let ready : Prop := (packages ≤ 1 ∨ ∀ p ∈ s.domain, p ≠ s.pkg →
        ⟨.command tile 9 c.seq.toNat, (⟨.peer p, 0⟩ : Loc).key / 128⟩ ∈ s.answers) ∧
      ((∀ t ∈ ranks, s.linkHeld t = false) ∨ ∀ t ∈ ranks, dieOf t = dieOf tile)
    let give (ds : List Command) (ps : List (Nat × Nat)) (x : State) : State := (ranks.zip ds).foldl (fun y d =>
      (y.setCommand d.1 9 { d.2 with partials := ps }).dropAnswers (.command d.1 9 d.2.seq.toNat)) x
    (c.contrib.length < c.count → SourcesAre tile e c s (chunk c.count c.cursor) r vals →
      exec .coll s = next r { c with contrib := c.contrib ++ vals, cursor := c.cursor + 1 }) ∧
    (∀ ds, c.count ≤ c.contrib.length → c.partials = [] → full ds → ready → (∀ d ∈ ds, alike d) →
      ∃ all : List (List Nat), all.length = packages * ds.length ∧
        (ordinal < packages → ∀ g < ds.length, all[ordinal * ds.length + g]? = (ds.map (·.contrib))[g]?) ∧
        let results := if c.csub = 3 then all.flatten else (List.range c.count).map fun n => combined c (all.map (·.getD n 0))
        ∃ x : State, (x = s ∨ (c.xpk = true ∧ ∃ free, x = ({ s with free := free } : State).setMark w)) ∧
          exec .coll s = .next (workDone (give ds ((1, 0) :: results.map (1, ·)) x) tile e c)) ∧
    (∀ ds, c.count ≤ c.contrib.length → c.partials = [] → full ds → ready → (∃ d ∈ ds, ¬ alike d) →
      exec .coll s = .next (workDone (give ds [(2, 0)] s) tile e c)) ∧
    (c.count ≤ c.contrib.length → c.partials = [(2, 0)] →
      exec .coll s = .next (s.failCommand tile e c 0x01 (imgWord c.image 0))) ∧
    (c.count ≤ c.contrib.length → c.partials ≠ [] → c.partials ≠ [(2, 0)] → c.phase = 0 → c.cursor2 < (held.length * c.eb + 255) / 256 →
      (c.cen = true → c.ctile = 0x7F ∨ tile = c.ctile ∨ s.tileOpen (s.tileWho tile) c.ctile = true) →
      (∀ n ∈ chunk held.length c.cursor2,
        s.spAt tile (c.ld.elem (c.ld.base + c.cdst % 2 ^ 28) c.ebits 32 n) c.eb = .ok (l n)) →
      s.copyWrite tile e c c.eb ((chunk held.length c.cursor2).map fun n => ((.sp tile (l n).addr, l n), held.getD n 0)) = .ok u →
      exec .coll s = next u { c with phase := 1 }) ∧
    (c.count ≤ c.contrib.length → c.partials ≠ [] → c.partials ≠ [(2, 0)] → c.phase = 0 → (held.length * c.eb + 255) / 256 ≤ c.cursor2 →
      exec .coll s = next s { c with finished := true })

/-- The template opcodes whose start reads operands or state, and what it does; any other starts as it is. -/
def startOf (i : Instr) (s : State) (tile e : Nat) (c : Command) : Eng (State × Command) :=
  match i with
  | .vidle => .ok (s, { c with cursor := s.cycle + c.count })
  | .wld => wldStart s tile e c
  | .mma => mmaStart s tile e c
  | .mmw => mmaStart s tile e c
  | .coll => collStart s tile e c
  | _ => .ok (s, c)

/-- The ranges of a command's scratchpad operands, each its lowest byte, one past its highest, and whether it is written (R371): of a
VIDLE none. -/
def footOf (s : State) (tile : Nat) (c : Command) : List (Nat × Nat × Bool) :=
  match imgClass c.image with
  | 1 => hoopFoot s tile c
  | 6 => copyFoot s tile c
  | _ => if imgClass c.image = 2 ∧ imgOpc c.image = 0x0C then [] else stripFoot s tile c

/-- Class and opcode of a template row (07 Table 7.18). -/
def templateRow (i : Instr) : Option (Nat × Nat) :=
  match i with
  | .vidle => some (2, 0x0C)
  | .acz => some (1, 0x05)
  | i => match pieceRow i with
    | some (cls, opc, _) => some (cls, opc)
    | none => (elementRow i default).map fun r => (r.1, r.2.1)

end Sys2Proof.Claims

open Sys2Proof Sys2Proof.Machine Sys2Proof.Claims

/-- R143-R149, R257: AMEND and the three ISSUEs: in a valid slot the template takes its change, and an ISSUE that passes its
checks enters as the engine's next command; in a slot that is not valid nothing happens; the strand goes on either way. A
refused field, value or template stops the tile before the word, and of an ISSUE that is refused nothing of its change is
applied. The number recorded with the cause is the engine's last one, since a refused word takes none (log entry 18). -/
def Obligations.PatchWordResults : Prop :=
  ∀ (i : Instr) (s : State) (tile e k : Nat) (st : Strand) (img : Option (BitVec 256)) (issues : Bool),
    Fetching s tile e st → patched i (s.engine tile e).templates = some (k, img, issues) →
    (∀ x, img = some x → st.valid = false → exec i s = .next (wentOn s tile e st)) ∧
    (∀ x, img = some x → st.valid = true → issues = false →
      exec i s = .next (wentOn (withTemplate s tile e k x) tile e st)) ∧
    (∀ x c, img = some x → st.valid = true → issues = true → s.issueCheck tile e (nextCommand s tile e x) = .ok c →
      exec i s = .next (wentOn ((withTemplate s tile e k x).enterCommand tile e c) tile e st)) ∧
    (img = none → exec i s =
      .next (s.raiseEngine tile e (s.engine tile e).seq.toNat 0x01 ((encode i).headD 0))) ∧
    (∀ x cause val, img = some x → st.valid = true → issues = true →
      s.issueCheck tile e (nextCommand s tile e x) = .error (cause, val) →
      exec i s = .next (s.raiseEngine tile e (s.engine tile e).seq.toNat cause (val.getD ((encode i).headD 0))))

/-- R256, R257: IDLE holds its sequencer until the count has passed; SLOOP enters its loop at the last stage's first word, or with
no trips goes past its body; SDONE ends the strand. That IDLE_END with no IDLE to end changes nothing (log entry 8), and
that the end cycle of an IDLE that has ended stays (log entry 45), are the model's choices. -/
def Obligations.StrandWordResults : Prop :=
  ∀ (s : State) (tile e : Nat) (st : Strand), Fetching s tile e st →
    let onEngine (x : Option Strand) : Host.Outcome State Fault Refusal :=
      .next (s.setEngine tile e { s.engine tile e with strand := x })
    (∀ v : BitVec 16, exec (.idle v) s =
      onEngine (some { st with idling := true, idleUntil := s.cycle + v.toNat }.advance)) ∧
    (∀ (b : BitVec 6) (k : BitVec 3) (n : BitVec 13), st.loop = none → b ≠ 0 → b.toNat % (k.toNat + 1) = 0 →
      (n = 0 → exec (.sloop b k n) s =
        onEngine (some { st with pc := st.pc + BitVec.ofNat 64 (4 + 4 * b.toNat) })) ∧
      (n ≠ 0 → exec (.sloop b k n) s = onEngine (some { st with
        pc := st.pc + BitVec.ofNat 64 (4 + 4 * (k.toNat * (b.toNat / (k.toNat + 1))))
        loop := some ⟨st.pc, b.toNat, k.toNat + 1, n.toNat, 0, k.toNat, 0⟩ }))) ∧
    (st.loop = none → exec .sdone s = onEngine none) ∧
    exec .idleEnd s = .next s

/-- R257: a loop of `b` words in `m` stages with `n` trips runs through every stage of every one of its n + m - 1 rounds, b words
each, and leaves after its last word. -/
def Obligations.LoopRunsThrough : Prop :=
  ∀ (st : Strand) (a : Word) (b m n : Nat), 0 < b → 0 < m → b % m = 0 → 0 < n →
    let l : StrandLoop := ⟨a, b, m, n, 0, m - 1, 0⟩
    Nat.iterate Strand.advance (b * (n + m - 1)) { st with pc := l.word (m - 1) 0, loop := some l } =
      { st with pc := a + BitVec.ofNat 64 (4 + 4 * b), loop := none }

/-- R104, R251, R253-R256, R260, R278, Table 13.11: the engines' own events happen when they are due: the end of an IDLE and
of a VIDLE, the restart of a full sequencer, the taking of a port command, the completion of a command and of a chunk
of a copy once their writes are performed, and the return of a stream slot. A completed command pushes a token onto
every queue its PUSH names, or with one of them full none, and raises TOKEN_FAULT; a completed chunk of a command with
CEN = 1 sends its byte count to its counting semaphore. The model's own are: an event that is not due changes nothing (log
entry 8), the end cycle of an IDLE that has ended stays (log entry 45), a port command draws under the c.rkey of its
push (log entry 87), the number of a refused port command (log entry 36), that a command which finds a queue full stays
with its engine until the stop records it, and that of several full queues the lowest engine's is named (log entry 101). -/
def Obligations.EngineEvents : Prop :=
  ∀ (s : State) (tile e : Nat), s.cur = .engine tile e →
    let g := s.engine tile e
    (∀ st, g.strand = some st → st.idling = true → (s.tile tile).stopped = false → st.idleUntil ≤ s.cycle →
      exec .idleEnd s = .next (s.setEngine tile e { g with strand := some { st with idling := false } })) ∧
    (g.full = true → g.issued.length < 16 → exec .sequencerResume s = .next (s.setEngine tile e { g with full := false })) ∧
    (∀ c, (s.tile tile).stopped = false → g.started = [c] → imgClass c.image = 2 → imgOpc c.image = 0x0C → c.finished = false →
      c.cursor ≤ s.cycle →
      exec .vidleEnd s = .next (s.setCommand tile e { c with finished := true, cursor := 0 })) ∧
    (∀ p rest c, g.portq = p :: rest → (s.tile tile).stopped = false → g.full = false → portWordOk p.word = true →
      let u := s.setEngine tile e { g with portq := rest }
      u.issueCheck tile e { nextCommand u tile e (portImage (g.templates.get (p.word.toNat % 64)) p.word) with
        rkey := p.src.rkey, port := some p.src, after := g.order } = .ok c →
      exec .portCommandTake s = .next (u.enterCommand tile e c)) ∧
    (∀ p rest, g.portq = p :: rest → (s.tile tile).stopped = false → g.full = false → portWordOk p.word = false →
      let u := s.setEngine tile e { g with portq := rest }
      let n := (u.engine tile e).seq + 1
      exec .portCommandTake s = .next ((u.setEngine tile e { u.engine tile e with seq := n }).deliverResult p.src
        (BitVec.ofNat 64 (0x01 * 2 ^ 32 + n.toNat)))) ∧
    (∀ c, (s.tile tile).stopped = false → g.started = [c] → (∀ d ∈ g.issued, d.seq ≠ c.seq) → c.finished = true →
      (∀ v ∈ s.peerInv, v.writer ≠ .command tile e c.seq.toNat) →
      let u := s.setEngine tile e { g with
        started := [], issued := if e ≤ 4 then g.issued.map fun d => { d with waited := s.cycle } else g.issued }
      let marked := (u.tile tile).footprints.map fun f =>
        if f.engine = e ∧ f.seq = c.seq.toNat then { f with complete := true } else f
      let v := u.setTile tile { u.tile tile with footprints := marked }
      let pushes := (List.range 10).filter fun n => (imgPush c.image).testBit n
      let full (n : Nat) : Bool := decide (15 ≤ (s.tile tile).tokenCount e n)
      (∀ p, c.port = some p → exec (.commandComplete c.seq) s =
        .next (v.deliverResult p (resultElement (resultValue c) c.cause c.seq.toNat))) ∧
      (c.port = none → pushes.find? full = none → exec (.commandComplete c.seq) s = .next (v.setTile tile (pushes.foldl
        (fun t n => t.pushToken e n ((e * 2 ^ 32 + c.seq.toNat) :: c.after)) (v.tile tile)))) ∧
      (∀ n, c.port = none → pushes.find? full = some n →
        exec (.commandComplete c.seq) s = .next (s.raiseEngine tile e c.seq.toNat 0x0B (e * 2 ^ 8 + n)))) ∧
    (∀ c, (s.tile tile).stopped = false → g.started = [c] → imgClass c.image = 6 → c.finished = false → c.phase = 1 →
      (∀ v ∈ s.peerInv, v.writer ≠ .command tile e c.seq.toNat) →
      (c.cen = false → exec .copyChunkComplete s = .next (s.advanceChunk tile e c (copyOrds c))) ∧
      ∀ target, c.cen = true → GoesTo s tile c target →
        let opc := imgOpc c.image
        let at_ := if opc = 4 ∨ opc = 5 ∨ opc = 7 then target else if c.ctile = 0x7F then tile else c.ctile
        let bytes := if opc = 6 then (c.partials.length - 1) * c.eb - 256 * c.cursor2 else c.count * c.eb - 256 * c.cursor
        let rank := if at_ = tile then e else 16 + sharerBit tile
        let u := s.setCommand tile e { c with phase := 2 }
        exec .copyChunkComplete s = .next { u.setTile at_ { u.tile at_ with
          incs := (u.tile at_).incs ++ [⟨rank, c.csem, min 256 bytes, .engine tile e, c.seq.toNat, s.nextPark⟩] } with
            nextPark := s.nextPark + 1 }) ∧
    (∀ i < 4, (∀ j < i, g.returns.get j = 0) → 0 < g.returns.get i →
      let u := s.setEngine tile e { g with returns := g.returns.upd i (· - 1) }
      let p := (producersOf e).getD i 0
      exec .streamSlotReturn s = .next (u.setEngine tile p
        { u.engine tile p with used := (u.engine tile p).used.upd (e * 4 + i) (· - 1) }))

/-- R263-R265, R269-R275: an element-wise strip command takes one vector of up to 192 elements at a time: when its
operands are there and its results have room, each element's result is that of its opcode, and the command goes on
to the next vector, finished after the last. Readings it rests on: log entries 14, 27 and 44. -/
def Obligations.ElementwiseResults : Prop :=
  ∀ (i : Instr) (s u : State) (tile e cls opc : Nat) (w : Nat × Nat × Nat) (f : Nat → Nat → Nat → Nat → Nat) (c : Command)
    (a b x : Nat → Nat), elementRow i c = some (cls, opc, w, f) → Working s tile e c cls opc → c.cursor < c.vectors →
    s.inputsReady tile e c = true →
    (∀ n ∈ c.vecElems c.cursor, s.operand tile e c 0 w.1 n = .ok (a n) ∧
      (w.2.1 ≠ 0 → s.operand tile e c 1 w.2.1 n = .ok (b n)) ∧ (w.2.2 ≠ 0 → s.operand tile e c 2 w.2.2 n = .ok (x n))) →
    s.deliverElems tile e c (c.vecElems c.cursor) ((c.vecElems c.cursor).map fun n => f n (a n) (b n) (x n)) = .ok u →
    exec i s = .next (workDone (u.nextVector tile e c) tile e c)

/-- 01 R19, 03 R62, R66-R72, R77, 13 R275-R284, 15 R308-R312, 17 R330: a started command of any other template opcode does a
piece of its work when its turn comes and nothing stalls it: what each piece reads, and the values and the places it
leaves them at. One piece of work a turn is the model's choice (log entries 30 and 33), and so is when a reduction frees
its stream slot (log entry 83) and that one of nothing writes nothing (log entry 100); values left open are free (log
entries 29 and 41). -/
def Obligations.CommandWork : Prop :=
  (∀ (i : Instr) (s u : State) (tile e cls opc : Nat) (work : State → Nat → Nat → Command → Eng State) (c : Command),
    pieceRow i = some (cls, opc, work) → Working s tile e c cls opc → work s tile e c = .ok u →
    exec i s = .next (workDone u tile e c)) ∧
  VectorPieces ∧ PackPieces ∧ WeightPieces ∧ MatrixPieces ∧ AccumulatorPieces ∧ CopyPieces ∧ CollPieces

/-- R252, R371, R372: an engine with nothing started starts its oldest issued command once its tokens are popped and its gate is
passed; on a hoop queue (R307, R371) every later command of the same engine is then ordered after it. In deterministic mode a
command with scratchpad operands first meets the overlap checker: where 256 commands' footprints are kept, that of the oldest
completed one goes and CHKMISS is set, or with none complete the start waits; a footprint that is left, of a command it is not
ordered after, and that meets one of its own with a write in either, raises OVERLAP with that command's engine and number;
otherwise its own are kept beside them. That a place is made before the comparison is the model's reading (log entry 24). -/
def Obligations.CommandStarts : Prop :=
  ∀ (i : Instr) (s u v : State) (tile e cls opc : Nat) (c d x : Command) (rest : List Command),
    templateRow i = some (cls, opc) → s.cur = .engine tile e → (s.tile tile).stopped = false →
    (s.engine tile e).started = [] → (s.engine tile e).issued = c :: rest → imgClass c.image = cls → imgOpc c.image = opc →
    s.dieHeld (dieOf tile) = false → s.popFor tile e c = some (u, d) → (imgGen d.image = false ∨ d.passed = true) →
    startOf i (u.setCommand tile e d) tile e d = .ok (v, x) →
    let order (l : List Nat) : List Nat := if e ≤ 4 then (l ++ (e * 2 ^ 32 + x.seq.toNat) :: x.after).dedup else l
    let starts (y : State) : Prop :=
      let g := y.engine tile e
      exec i s = .next (y.setEngine tile e { g with
        issued := rest.map fun z => { z with after := order z.after, waited := y.cycle }
        started := g.started ++ [{ x with started := true, waited := y.cycle }], after := order g.after, order := order g.order })
    let foot := footOf v tile x
    let checked : Prop := v.det (controlTid tile) = true ∧ foot ≠ []
    let kept := (v.tile tile).footprints
    let id (f : Footprint) : Nat := f.engine * 2 ^ 32 + f.seq
    let full : Prop := 256 ≤ (kept.map id).dedup.length
    let meets (f : Footprint) : Bool := decide (id f ∉ x.after) &&
      foot.any fun p => decide (f.lo < p.2.1) && decide (p.1 < f.hi) && (f.write || p.2.2)
    let raises (f : Footprint) : Prop := exec i s = .next ((u.setCommand tile e d).failCommand tile e d 0x0A (id f))
    let joins (y : State) (l : List Footprint) : State := y.setTile tile { y.tile tile with
      footprints := l ++ foot.map fun p => ⟨e, x.seq.toNat, p.1, p.2.1, p.2.2, false⟩ }
    (¬ checked → starts v) ∧
    (checked → ¬ full →
      (∀ f, kept.find? meets = some f → raises f) ∧ (kept.find? meets = none → starts (joins v kept))) ∧
    (checked → full → (∀ f ∈ kept, f.complete = false) → exec i s = .next s) ∧
    (∀ old, checked → full → kept.find? (·.complete) = some old →
      let left := kept.filter fun f => decide (¬ (f.engine = old.engine ∧ f.seq = old.seq))
      let missed := v.setThread (controlTid tile) { v.thread (controlTid tile) with chkmiss := true }
      (∀ f, left.find? meets = some f → raises f) ∧ (left.find? meets = none → starts (joins missed left)))

namespace Sys2Proof.Claims

open Sys2Proof.Machine

/-! ## Events -/

/-- Every event a table lists happens when what it needs holds, and leaves the state the table gives. -/
def Happens (table : State → Instr → Option (Prop × State)) : Prop :=
  ∀ (s t : State) (i : Instr) (needs : Prop), table s i = some (needs, t) → needs → exec i s = .next t

/-! ## The coherence protocol -/

/-- The requests a home admits (R93). -/
def admission (i : Instr) : Option (Nat × ReqKind) :=
  match i with
  | .homeAdmitReadShared line => some (line, .readShared)
  | .homeAdmitReadExclusive line => some (line, .readExclusive)
  | .homeAdmitUpgrade line => some (line, .upgrade)
  | .homeAtomicPerform line => some (line, .atomic)
  | _ => none

/-- The oldest message of one direction between a home and an L1 about a line: messages keep their order (R94). -/
def oldest (s : State) (line unit : Nat) (down : Bool) : Option Msg :=
  s.msgs.find? fun m => m.line == line && m.unit == unit && m.kind.down == down

/-- The state after a message has been taken in. -/
def taken (s : State) (m : Msg) : State := { s with msgs := s.msgs.erase m }

/-- A line leaves a unit's L1, and the monitors of that unit on it are triggered (R194). -/
def leaves (s : State) (unit line : Nat) : State :=
  let u := s.setL1 unit line .i
  { u with threads := u.threads.map fun p => (p.1,
      if p.2.mon.armed && (unitOf p.1 == unit && p.2.mon.loc.space == .hbm && p.2.mon.loc.addr / 128 == line) then
        { p.2 with mon := { p.2.mon with triggered := true } } else p.2) }

/-- The state a home's record rests in: OW with an owner, SH with sharers, U (Table 5.5). -/
def resting (owner : Nat) (sharers : BitVec 40) : DirState := if owner ≠ 0 then .ow else if sharers = 0 then .u else .sh

/-- Whether a request is for a change of ownership. -/
def exclusive (r : Option Request) : Bool := r.any fun r => r.kind != .readShared

/-- The requester a gate waits for has sent nothing for 2^20 hub cycles, of 2.4 GHz against 1.9 GHz (R375): the gate has
admitted none of its requests since, and none is on its way to the slice, whose log can be read now. -/
def silent (s : State) (asid slice arrived : Nat) : Bool :=
  decide (2 ^ 20 * 19 ≤ (s.cycle - max arrived ((s.records.get asid).sentAt.get slice)) * 24) && !s.gateBlind asid slice &&
    !((s.gateNext asid slice).any fun next => s.asks slice next.1)

/-- What an L1 and a home do with the oldest message there is for them, over a link that does not hold (R94-R96, R411, Tables
5.5 and 5.6). -/
def messageEvent (s : State) (i : Instr) : Option (Prop × State) :=
  match i with
  | .l1InvalidationReceive line unit => match oldest s line unit true with
    | some ⟨_, _, .invalidate, t, o⟩ => some (s.linkHeld unit = false,
        (leaves (taken s ⟨line, unit, .invalidate, t, o⟩) unit line).send ⟨line, unit, .invAck, 0, 0⟩)
    | _ => none
  | .l1ForwardReceive line unit => match oldest s line unit true with
    | some ⟨_, _, .forward excl, t, o⟩ =>
        let held := s.l1.get (l1Key unit line)
        let left : Moesi := if excl then .i else match held.st with
          | .m => .o
          | .o => .o
          | .e => .s
          | .s => .s
          | .i => .i
        let u := taken s ⟨line, unit, .forward excl, t, o⟩
        some (s.linkHeld unit = false, (if left = .i then leaves u unit line else u.setL1 unit line left).send
          ⟨line, unit, .fwdResponse excl left (held.st == .i && held.wb), 0, 0⟩)
    | _ => none
  | .l1GrantReceive line unit => match oldest s line unit true with
    | some ⟨_, _, .grant st, t, o⟩ =>
        let u := taken s ⟨line, unit, .grant st, t, o⟩
        let v := if st = .m ∨ (s.l1.get (l1Key unit line)).st = .i then (u.setL1 unit line st).evictFor unit line else u
        match t with
        | 0 => some (s.linkHeld unit = false, v)
        | n + 1 => match v.waitingAt n line with
          | some a => some (s.linkHeld unit = false, v.settleAccess n a)
          | none => some (s.linkHeld unit = false, v)
    | _ => none
  | .l1WritebackAck line unit => match oldest s line unit true with
    | some ⟨_, _, .wbAck, t, o⟩ =>
        let u := taken s ⟨line, unit, .wbAck, t, o⟩
        some (s.linkHeld unit = false, { u with l1 := u.l1.upd (l1Key unit line) fun x => { x with wb := false } })
    | _ => none
  | .homeInvalidationAck line unit => match oldest s line unit false with
    | some ⟨_, _, .invAck, t, o⟩ =>
        let u := (taken s ⟨line, unit, .invAck, t, o⟩).clearSharer unit line
        let h := { u.homeLine line with acks := (u.homeLine line).acks.filter (· ≠ unit) }
        some (s.linkHeld unit = false, match h.active with
          | some r => if h.acks = [] ∧ h.state = .inv then (u.setHome line h).grant line r false else u.setHome line h
          | none => u.setHome line h)
    | _ => none
  | .homeWritebackArrive line unit => match oldest s line unit false with
    | some ⟨_, _, .writeback, t, o⟩ =>
        let u := taken s ⟨line, unit, .writeback, t, o⟩
        let h := u.homeLine line
        let v := u.clearSharer unit line
        let g := v.homeLine line
        some (s.linkHeld unit = false, (if h.owner = unit + 1 ∧ h.state = .fwd then
            u.setHome line { h with dirty := h.dirty || !exclusive h.active }
          else if h.owner = unit + 1 then v.setHome line { g with
            owner := 0, dirty := true, state := if g.active.isSome then g.state else resting 0 g.sharers }
          else u).send ⟨line, unit, .wbAck, 0, 0⟩)
    | _ => none
  | .homeForwardResponse line =>
      match s.msgs.find? (fun m => m.line == line && (match m.kind with | .fwdResponse _ _ _ => true | _ => false)) with
      | some ⟨_, unit, .fwdResponse excl left buffer, t, o⟩ =>
          let m : Msg := ⟨line, unit, .fwdResponse excl left buffer, t, o⟩
          let u := if left = Moesi.i then (taken s m).clearSharer unit line else taken s m
          let h := { u.homeLine line with
            owner := if (u.homeLine line).owner = unit + 1 ∧ left ≠ Moesi.o then 0 else (u.homeLine line).owner
            dirty := (u.homeLine line).dirty || (buffer && !excl) }
          some (oldest s line unit false = some m ∧ s.linkHeld unit = false, match h.active with
            | some r => if h.acks = [] then (u.setHome line h).grant line r (buffer && !excl)
                else (u.setHome line h).setHome line { h with state := .inv }
            | none => u.setHome line h)
      | _ => none
  | .homeFetchDataArrive line => match (s.homeLine line).active with
    | some r => some ((s.homeLine line).state = .fetch ∧ s.memHeld line = false, s.grant line r false)
    | none => none
  | .replayGateTimeout line =>
      let slice := homeSlice (line * 128)
      match (s.homeLine line).queue.find? fun r =>
          r.trip != .held && !s.gateOpen line r && silent s (s.asidOf (r.tid - 1)) slice r.arrived with
      | some r =>
          let u := s.setHome line { s.homeLine line with queue := (s.homeLine line).queue.erase r }
          some (True, u.trap (r.tid - 1) 0x13 (s.thread (r.tid - 1)).pc (BitVec.ofNat 64 slice))
      | none => none
  | _ => none

/-! ## Accesses under way -/

/-- No access of the same gang, to the same line of the same space, was made by a lower home lane and is still to be performed,
redirected or not (R161). -/
def FirstOfGang (s : State) (tid : Nat) (a : Access) : Prop :=
  ∀ p ∈ s.threads, p.1 ≠ tid → p.2.live = true → unitOf p.1 = unitOf tid → p.2.parkedIn = (s.thread tid).parkedIn →
    p.2.parkedAt < (s.thread tid).parkedAt → ∀ b, p.2.wait = some (.access b) ∨ p.2.wait = some (.redirected b) →
    ¬ (b.loc.space = a.loc.space ∧ lineOf b.loc.addr = lineOf a.loc.addr)

/-- The unit of a thread still holds a translation that leads an access to its place. -/
def Leads (s : State) (tid : Nat) (a : Access) : Prop :=
  ∃ level e, s.tlbLookup (s.who tid).unit (s.who tid).asid a.va = some (level, e) ∧ leafPlace s level e a.va = .at a.loc

/-- Our L2 takes a copy of a line of another package, in the place of one of its set where sixteen are there (R4, R97). -/
def copied (s : State) (pkg line : Nat) : State :=
  ({ s with peerL2 := s.peerL2.set (pkg * 2 ^ 45 + line) ⟨true, s.bytesAt ⟨.peer pkg, line * 128⟩ 128⟩ }).l2MakeRoom
    (l2Set line) none (some (pkg * 2 ^ 45 + line))

/-- The fabric as maker of writes, and the home that makes them for it. -/
def outsider (unit : Nat) : Who := ⟨unit, 0, 0, true, .other⟩

/-- The companion processor as maker of accesses. -/
def companion : Who := ⟨198, 0, 0, true, .host⟩

/-- What another package's home does to the L2 and the requests of this one: a writer that waits for it has its answer, and a
command waits no longer. -/
def answered (s : State) (a : PeerAnswer) : State :=
  let u := { s with answers := s.answers ++ [a] }
  match a.writer with
  | .command t e seq => match (u.engine t e).command seq with
    | some c => u.setCommand t e { c with waited := u.cycle }
    | none => u
  | _ => u

/-- The report of an absent page, one for each absent entry (R404): the state and its tag. -/
def reported (u : State) (asid va level acc wave unit : Nat) : State × Nat :=
  let page := va / levelSize level * levelSize level
  match u.parks.find? fun p => p.asid == asid && p.level == level && p.page == page with
  | some p => (u, p.tag)
  | none =>
    let v := u.report (mkReport 1 asid acc 0 u.nextTag va wave unit level)
    ({ v with parks := v.parks ++ [⟨u.nextTag, asid, page, level⟩], nextTag := u.nextTag + 1 }, u.nextTag)

/-- A cut record that cannot be written: the unit's group stops with a report, as for a double trap (R389). -/
def cutLost (s : State) (tile cause : Nat) : State :=
  let ct := 65536 + tile
  let t := s.thread ct
  let u := s.setTile tile { s.tile tile with stops := [], cutRefused := false, cutSince := 0 }
  ((u.setThread ct (settled t)).haltGroup t.gid).haltReport ct cause t.pc.toNat

/-- A unit that a home records as owner has the line, or the grant of it on its way (Table 5.5). -/
def OwnsStill (s : State) (line unit : Nat) : Prop :=
  (s.l1.get (l1Key unit line)).st ≠ .i ∨ ∃ m ∈ s.msgs, m.line = line ∧ m.unit = unit ∧ ∃ st, m.kind = .grant st

/-- No cache but a unit's holds the line or is being granted it, no agent of the hub is recorded, and no other package has a
copy (R93, R97). -/
def NoOtherCopy (s : State) (line unit : Nat) : Prop :=
  (∀ p ∈ s.l1, p.1 % 2 ^ 45 = line → p.1 / 2 ^ 45 ≠ unit → p.2.st = .i) ∧
  (∀ m ∈ s.msgs, m.line = line → m.unit ≠ unit → ∀ st, m.kind ≠ .grant st) ∧ (s.homeLine line).sharers.toNat / 2 ^ 32 = 0 ∧
  (s.homeLine line).peers = [] ∧ (s.homeLine line).allPeers = false

/-- A home gives up an admitted request: its record rests, and the grant is on its way to the requester's L1 (R93, R95). Upgrades
that waited behind a grant of ownership become read-exclusives, and the copies of other packages are invalidated (R97). -/
def grants (s : State) (line : Nat) (r : Request) (st : Moesi) (rest : DirState) (owner : Nat) (sharers : BitVec 40) : State :=
  let h := s.homeLine line
  let g := (s.setHome line { h with
    active := none, acks := [], held := true, state := rest, owner := owner, sharers := sharers
    queue := if st = .m then h.queue.map fun q =>
      if q.kind = .upgrade ∧ q.unit ≠ r.unit then { q with kind := .readExclusive } else q else h.queue }).send
    ⟨line, r.unit, .grant st, r.tid, 0⟩
  (if st = .m then g.invalidatePeers line (if r.tid = 0 then .other else .thread (r.tid - 1)) else g).l2Room line

/-- What happens to accesses that travel, at other tiles, the host and other packages, and to what waits at a semaphore block or
for a walk (R97, R99, R100, R112, R161, R188, R200, R207, R278, R345, R403, R411, R424, R425). -/
def travelEvent (s : State) (i : Instr) : Option (Prop × State) :=
  let sent (tid : Nat) : Option Access := match (s.thread tid).wait with
    | some (.access a) => some a
    | _ => none
  let pkg := s.host.pkgid.toNat
  let calm (line : Nat) : Prop := line * 128 < 768 * 2 ^ 30 ∧ s.blocked 199 ⟨.hbm, line * 128⟩ = false
  match i with
  | .remoteScratchpadAccess tid => match sent tid with
    | some a => match a.loc.space with
      | .sp tile => some ((s.thread tid).live = true ∧ tile ≠ unitOf tid ∧ FirstOfGang s tid a ∧
          s.linkHeld (unitOf tid) = false ∧ s.linkHeld tile = false,
          if s.tileOpen (s.who tid) tile = true ∧ a.loc.addr + a.size ≤ scratchBytes s tile then s.settleAccess tid a
          else s.trap tid 0x06 (s.thread tid).pc (BitVec.ofNat 64 a.va))
      | _ => none
    | none => none
  | .hostTransactionComplete tid => match sent tid with
    | some a => some ((s.thread tid).live = true ∧ a.loc.space = .host ∧ FirstOfGang s tid a ∧ s.linkHeld (unitOf tid) = false,
        s.settleAccess tid a)
    | none => none
  | .redirectedAtomicResend tid =>
      let again := s.setThread tid { s.thread tid with wait := none, since := s.cycle }
      match (s.thread tid).wait with
      | some (.redirected a) => some ((s.thread tid).live = true ∧ ¬ (Leads s tid a ∧ s.isFrozen a.loc = true) ∧
          FirstOfGang s tid a, again)
      | some (.access a) => some ((s.thread tid).live = true ∧ (∃ p, a.loc.space = .peer p) ∧ ¬ Leads s tid a ∧
          FirstOfGang s tid a, again)
      | _ => none
  | .fenceComplete tid =>
      some ((s.thread tid).live = true ∧ (((s.thread tid).wait = some .fence ∧ AllPerformed s tid) ∨
        ((s.thread tid).wait = some .fencePort ∧ ∀ p ∈ (s.thread tid).ports, ∀ x ∈ p.2, x.done = true)),
        s.setThread tid { s.thread tid with wait := none, since := s.cycle })
  | .peerReadAtTarget src dst line =>
      if src = pkg ∧ dst ≠ pkg then match s.peerWaiter dst line true with
        | some m => match sent m with
          | some a => some (dst ∈ s.domain, s.settleAccess m a)
          | none => none
        | none =>
          if s.lineWanted dst line then some (dst ∈ s.domain ∧ line < 2 ^ 45, copied s dst line)
          else (s.tiles.findSome? fun p => (s.collAwaits p.1 dst).map fun c => (p.1, c)).map fun q => (dst ∈ s.domain,
            answered s ⟨.command q.1 9 q.2.seq.toNat, (⟨.peer dst, 0⟩ : Loc).key / 128⟩)
      else
        let comes : Prop := dst = pkg ∧ src ≠ pkg ∧ s.feature 5 = true ∧ pkg ∈ s.domain
        if s.isFrozen ⟨.hbm, line * 128⟩ then some (comes, s)
        else (s.admitAgent 199 ⟨.hbm, line * 128⟩).map fun v =>
          if v.watchers line ≠ [] then (comes ∧ calm line, v.cohRead 199 line 2)
          else
            let u := v.cohRead 199 line 1
            let h := u.homeLine line
            (comes ∧ calm line, u.setHome line { h with
              peers := if h.allPeers = true ∨ (src ∉ h.peers ∧ 4 ≤ h.peers.length) then []
                else if src ∈ h.peers then h.peers else h.peers ++ [src]
              allPeers := h.allPeers || (decide (src ∉ h.peers) && decide (4 ≤ h.peers.length)) })
  | .peerWriteAtTarget src dst line data =>
      if src = pkg ∧ dst ≠ pkg then match s.peerWaiter dst line false with
        | some m => match sent m with
          | some a => some (dst ∈ s.domain, s.settleAccess m a)
          | none => none
        | none => match s.farWriter dst line with
          | some a => some (dst ∈ s.domain, answered s a)
          | none => (s.closeWaiter dst line).map fun k => (dst ∈ s.domain, s.setWave k { s.wave k with
              ask := none, answered := (s.wave k).answered ++ ((s.wave k).ask.map (·.block)).toList })
      else if dst ≠ pkg then some (dst < 4096 ∧ line < 2 ^ 45 ∧ (∀ d ∈ data, d.1 < 128), data.foldl (fun u d =>
        (u.setBytes ⟨.peer dst, line * 128 + d.1⟩ [d.2]).trigger ⟨.peer dst, line * 128 + d.1⟩ 1) s)
      else
        let comes : Prop := src ≠ pkg ∧ s.feature 5 = true ∧ pkg ∈ s.domain
        if s.isFrozen ⟨.hbm, line * 128⟩ then some (comes, s)
        else (s.admitAgent 199 ⟨.hbm, line * 128⟩).map fun v => match peerAtomic data with
          | none => (comes ∧ calm line ∧ (∀ d ∈ data, d.1 < 128), data.foldl (fun u d =>
              u.performWrite (outsider 199) ⟨.hbm, line * 128 + d.1⟩ [d.2] (u.agentHint ⟨.hbm, line * 128⟩)) v)
          | some a =>
              let l : Loc := ⟨.hbm, line * 128 + a.offset⟩
              let hint := v.agentHint l
              let u := ((v.rekey 0 l).cohWrite 1000 (lineOf l.addr) hint).invalidatePeers (lineOf l.addr) .other
              (comes ∧ calm line,
                if v.poisoned l then v
                else match a.result (u.numAt l a.size) with
                  | some x => u.performWrite (outsider 1000) l (leBytes a.size x) hint
                  | none => u)
  | .peerInvalidateReceive dst line =>
      if dst = pkg then
        let u := { s with peerL2 := s.peerL2.set line default }
        some (True, if (s.peerL2.get line).held = false then s else { u with threads := u.threads.map fun p => (p.1,
          if p.2.mon.armed && (match p.2.mon.loc.space with
            | .peer k => k * 2 ^ 45 + p.2.mon.loc.addr / 128 == line
            | _ => false) then { p.2 with mon := { p.2.mon with triggered := true } } else p.2) })
      else match s.peerInv.find? fun v => v.pkg == dst && v.line == line with
        | some v => some (True, { s with peerInv := s.peerInv.erase v })
        | none => none
  | .peerTimeout (.engine tile e) =>
      if e = 0 then some ((s.tile tile).cutSince ≠ 0 ∧ (s.tile tile).cutSince + 3800000 ≤ s.cycle + 1, cutLost s tile 0x06)
      else if e = 9 then match s.foreignColl tile, s.peerCopy tile with
        | some c, _ => some (c.waited + 3800000 ≤ s.cycle ∧ (s.tile tile).stopped = false,
            State.failCommand { s with free := s.free + 1 } tile 9 c 0x06 (Config.freeWord s.free).toNat)
        | none, some (c, _, a) => some (c.waited + 3800000 ≤ s.cycle ∧ (s.tile tile).stopped = false,
            s.failCommand tile 9 c 0x06 a)
        | none, none => none
      else match (s.engine tile e).strand with
        | some st => match st.wait with
          | some (.line l va _) => some ((∃ p, l.space = .peer p) ∧ st.waited + 3800000 ≤ s.cycle ∧
              (s.tile tile).stopped = false, s.raiseEngine tile e (s.engine tile e).seq.toNat 0x06 va)
          | _ => none
        | none => none
  | .peerTimeout .hub =>
      let late (q : WatchedQueue) : Bool := q.parked == 0 && q.line.isSome && decide (q.waited + 3800000 ≤ s.cycle)
      match s.direct.find? late with
      | some q => some (True, ({ s with direct := s.direct.erase q } : State).refuseNode default q.asid q.va 7)
      | none =>
          let r := s.watched.foldl (fun (p : State × List WatchedQueue) q =>
            if late q then ((p.1.visit q false true).1, p.2 ++ [(p.1.visit q false true).2.1]) else (p.1, p.2 ++ [q])) (s, [])
          some (∃ q ∈ s.watched, late q = true, { r.1 with watched := r.2 })
  | .peerTimeout (.thread tid) =>
      let ends (l : Loc) (va : Nat) : Prop × State := ((s.thread tid).live = true ∧ (∃ p, l.space = .peer p) ∧
        (s.thread tid).waited + 3800000 ≤ s.cycle + 1,
        (s.trap tid 0x06 (s.thread tid).pc (BitVec.ofNat 64 va)).dropAnswers (.thread tid))
      match s.closeSilent tid with
      | some (k, a) => some (True, s.setWave k { s.wave k with
          ask := none, lost := (s.wave k).lost ++ [⟨tid, a.va / 128, 0x06, a.va⟩] })
      | none => match (s.thread tid).wait with
        | some (.access a) => some (ends a.loc a.va)
        | some (.line l va _) => some (ends l (if (s.thread tid).named = 0 then va else (s.thread tid).named - 1))
        | _ => none
  | .companionAccess write pa size value =>
      let l : Loc := ⟨.hbm, pa⟩
      if size ∉ [1, 2, 4, 8] ∨ pa % size ≠ 0 then some (True, s)
      else if 2 ^ 52 ≤ pa ∧ pa < 2 ^ 53 then
        some (True, if write then s.setBytes ⟨.host, pa - 2 ^ 52⟩ (leBytes size value) else s)
      else if 768 * 2 ^ 30 ≤ pa then some (True, s)
      else if s.isFrozen ⟨.hbm, pa / 128 * 128⟩ then some (s.host.ready = true, s)
      else (s.admitAgent 198 l).map fun v =>
        let u := if write then v.performWrite companion l (leBytes size value) (v.agentHint l)
          else v.prepareRead companion l (v.agentHint l)
        let h := u.homeLine (pa / 128)
        let sharers := h.sharers ||| (1#40 <<< 38)
        (s.host.ready = true ∧ calm (pa / 128), u.setHome (pa / 128) { h with
          sharers := sharers, state := resting h.owner sharers })
  | .hostEnqueue desc node =>
      let l : Loc := ⟨.hbm, desc⟩
      let again : Prop := ∀ w ∈ s.hostPark, w.parked = 0
      let p : State := { s with hostPark := none }
      let held (v : State) (tag : Nat) : State := { v with hostPark := some ⟨desc, node, tag, false⟩ }
      let needs : Prop := again ∧ s.host.ready = true ∧ p.blocked 199 ⟨.hbm, desc / 128 * 128⟩ = false
      if s.hostPark.any (·.refused) ∨ desc % 128 ≠ 0 ∨ node % 128 ≠ 0 ∨ 2 ^ 57 ≤ node ∨ 768 * 2 ^ 30 ≤ desc then some (again, p)
      else if s.isFrozen l then some (again ∧ s.host.ready = true, p)
      else if s.poisoned l then some (needs, p)
      else match p.admitAgent 198 l with
      | none => none
      | some v =>
        let hint := v.agentHint l
        let u := ((v.rekey 0 l).cohWrite 1000 (desc / 128) hint).invalidatePeers (desc / 128) .host
        match u.tenqAt companion l node hint with
        | .done _ x => some (needs, x)
        | .held r _ => if r.space.foreign = true ∧ s.hostPark = none then some (needs, held v 0) else none
        | .walk va => match u.walk 0 va with
          | .absent level => some (needs, held (reported u 0 va level 2 0 0).1 ((reported u 0 va level 2 0 0).2 + 1))
          | .malformed => some (needs, u.report (mkReport 2 0 2 0 0 va 0 0 0))
          | _ => some (needs, u)
        | .fault _ _ => some (needs, v)
  | .semIncrementApply tile => some (∃ x ∈ (s.tile tile).incs, s.incHeld tile x = false, s.semFlush tile)
  | .remoteWaitAdmit tile =>
      let parked := (s.tile tile).waits.filter (s.semLive tile)
      match (s.tile tile).remoteq.filter (s.semLive tile) with
      | [] => none
      | w :: rest =>
          let u := s.setTile tile { s.tile tile with waits := parked, remoteq := rest }
          some (parked.countP (·.remote) < 32,
            match u.semExamine1 tile w with
            | some v => v
            | none => u.setTile tile { u.tile tile with waits := (u.tile tile).waits ++ [w] })
  | .pageWalkComplete => match s.walks with
    | [] => none
    | w :: rest =>
        let u := ({ s with walks := rest } : State).walked w.asid w.va
        let goes : Prop := (s.links.get (w.die - 1)).retraining = false ∧ (s.links.get (w.die - 1)).failed = false ∧
          ∀ l ∈ s.walkLocs w.asid w.va, s.blocked 1000 l = false
        match u.walk w.asid w.va with
        | .leaf level e =>
            let entry : TlbEntry := ⟨w.asid, w.va / levelSize level * levelSize level, level, e⟩
            let v := ((u.askers w).map (·.2.2.2) ++ w.prefs.map (·.unit)).dedup.foldl (fun x n => x.tlbFill n entry) u
            some (goes, w.prefs.foldl (fun x p => x.prefetchAt w.asid p) (State.answerWalk { v with
              tlbs := v.tlbs.upd (1000 + w.die) fun l => (entry :: l.filter (· ≠ entry)).take 4096 } w
                fun _ _ => (none, none)))
        | .poison => some (goes, u.answerWalk w fun va _ => (none, some (0x07, va)))
        | .absent level => match u.askers w with
          | (.walk va acc, wave, unit, _) :: _ =>
              let r := reported u w.asid va level acc wave unit
              some (goes, r.1.answerWalk w fun va _ => (some (.page r.2 va), none))
          | _ => some (goes, u)
        | .malformed => match u.askers w with
          | (.walk va acc, wave, unit, _) :: _ =>
              some (goes, (u.report (mkReport 2 w.asid acc 0 0 va wave unit 0)).answerWalk w fun va _ => (none, some (0x06, va)))
          | _ => some (goes, u)
  | _ => none

end Sys2Proof.Claims

open Sys2Proof Sys2Proof.Machine Sys2Proof.Claims

/-- R93-R95, R99, R100, R186, Table 5.5: a home at rest admits the next request of a line when no freeze, retraining or order
gate stands in its way. A read goes to FWD with a forward to another L1's owner, to FETCH when the L2 does not hold the
line, and else is granted; a request for ownership goes to FWD or INV with a forward to the owner and an invalidation
to every other holder, to FETCH, or is granted; an atomic is performed there; a request for a frozen line is redirected.
That an access is performed with its grant, or with the data of a hinted one, is the model's choice (log entry 10). -/
def Obligations.HomeAdmits : Prop :=
  ∀ (i : Instr) (line : Nat) (kind : ReqKind) (r : Request) (s : State), admission i = some (line, kind) →
    s.nextReq line = some r → r.kind = kind → (s.homeLine line).active = none →
    s.tenqHolds line = false →
    let h := { s.homeLine line with queue := (s.homeLine line).queue.erase r }
    let u := s.setHome line h
    let admitted : Prop := s.isFrozen ⟨.hbm, line * 128⟩ = false ∧ (r.tid = 0 ∨
      ∃ a, s.waitingAt (r.tid - 1) line = some a ∧ s.watchedVa (waveOf (s.thread (r.tid - 1)).gid) a.va = false)
    let others := (u.otherHolders line r.unit).filter (· + 1 ≠ h.owner)
    let busy := { h with active := some r, acks := others, sharers := h.sharers &&& ~~~(1#40 <<< 38) }
    let elsewhere : Prop := h.owner ≠ 0 ∧ h.owner ≠ r.unit + 1
    let invalidates (v : State) : State := others.foldl (fun v o => v.send ⟨line, o, .invalidate, 0, 0⟩) v
    let fwd (x : HomeLine) (excl : Bool) : State :=
      (u.setHome line { x with state := .fwd }).send ⟨line, h.owner - 1, .forward excl, 0, 0⟩
    (admitted → kind = .readShared →
      (elsewhere → exec i s = .next (fwd { h with active := some r } false)) ∧
      (¬ elsewhere → h.held = false →
        exec i s = .next (u.setHome line { h with active := some r, state := .fetch })) ∧
      (¬ elsewhere → h.held = true → r.hint = 0 → NoOtherCopy u line r.unit →
        exec i s = .next (grants u line r .e .ow (r.unit + 1) (sharerMask r.unit))) ∧
      (¬ elsewhere → h.held = true → r.hint = 0 → ¬ NoOtherCopy u line r.unit →
        (h.owner = r.unit + 1 → OwnsStill u line r.unit →
          exec i s = .next (grants u line r .s .ow (r.unit + 1) (h.sharers ||| sharerMask r.unit))) ∧
        (h.owner = 0 ∨ ¬ OwnsStill u line r.unit →
          exec i s = .next (grants u line r .s .sh 0 (h.sharers ||| sharerMask r.unit))))) ∧
    (admitted → kind = .readExclusive ∨ kind = .upgrade →
      (elsewhere → exec i s = .next (invalidates (fwd busy true))) ∧
      (¬ elsewhere → others ≠ [] → exec i s = .next (invalidates (u.setHome line { busy with state := .inv }))) ∧
      (¬ elsewhere → others = [] → h.held = false → exec i s = .next (u.setHome line { busy with state := .fetch })) ∧
      (¬ elsewhere → others = [] → h.held = true → r.hint = 0 →
        exec i s = .next (grants (u.setHome line busy) line r .m .ow (r.unit + 1) (sharerMask r.unit)))) ∧
    (admitted → kind ≠ .atomic → ¬ elsewhere → others = [] ∨ kind = .readShared → h.held = true → r.hint ≠ 0 →
      ∀ n a, r.tid = n + 1 → s.waitingAt n line = some a → ∃ rested,
        (rested.state = resting h.owner rested.sharers ∧ rested.owner = h.owner ∧ rested.active = none ∧
          rested.acks = [] ∧ rested.held = true ∧ rested.queue = h.queue) ∧
        exec i s = .next (((u.setHome line rested).settleAccess n a).l2Room line)) ∧
    (admitted → kind = .atomic → s.lineMsgs line = false → s.memHeld line = false → s.copyHeld 1000 line = false →
      ∀ n a, r.tid = n + 1 →
      s.waitingAt n line = some a → exec i s = .next (u.settleAccess n a)) ∧
    (s.isFrozen ⟨.hbm, line * 128⟩ = true → (kind = .atomic → s.lineMsgs line = false ∧ s.memHeld line = false ∧ s.copyHeld 1000 line = false) →
      ∀ n a, r.tid = n + 1 → s.waitingAt n line = some a →
      exec i s = .next (u.setThread n { s.thread n with wait := some (.redirected a) }))

/-- R94-R96, R375: each protocol message is taken in by the home or L1 it is for, oldest first, with the answer and the
states the protocol gives. What a message carries is the model's choice (log entry 10), and so is the conversion of hub
cycles of the order gate's timeout (log entry 60). -/
def Obligations.ProtocolMessages : Prop := Happens messageEvent

/-- R93, R95, R97: a granted request for ownership leaves its unit the line's owner and only sharer, and no other package listed;
a line no other cache holds, in this package or another, is granted to a reader exclusively, and otherwise the reader joins
the sharers, beside the owner if there is one: itself, where it has come to own the line since it asked. That bytes stand once and messages carry states is the model's choice (log
entry 10). -/
def Obligations.GrantsOwn : Prop :=
  ∀ (s : State) (line : Nat) (r : Request), r.hint = 0 → r.unit < 160 →
    let g := s.grant line r false
    let h := g.homeLine line
    let sent (st : Moesi) : Prop := h.active = none ∧ g.msgs = s.msgs ++ [⟨line, r.unit, .grant st, r.tid, s.nextPark⟩]
    (r.kind ≠ .readShared → h.state = .ow ∧ h.owner = r.unit + 1 ∧ h.sharers = sharerMask r.unit ∧ h.peers = [] ∧
      h.allPeers = false ∧ sent .m) ∧
    (r.kind = .readShared → NoOtherCopy s line r.unit →
      h.state = .ow ∧ h.owner = r.unit + 1 ∧ h.sharers = sharerMask r.unit ∧ sent .e) ∧
    (r.kind = .readShared → ¬ NoOtherCopy s line r.unit →
      h.state = (if h.owner = 0 then .sh else .ow) ∧
      ((s.homeLine line).owner ≠ r.unit + 1 ∨ OwnsStill s line r.unit → h.owner = (s.homeLine line).owner) ∧
      ((s.homeLine line).owner = r.unit + 1 → ¬ OwnsStill s line r.unit → h.owner = 0) ∧
      h.sharers = (s.homeLine line).sharers ||| sharerMask r.unit ∧ sent .s)

/-- R97, R99, R100, R112, R188, R200, R207, R278, R345, R401, R403, R404, R424, R425: accesses that travel are performed where
they arrive, or end with ACCESS_FAULT; waits at semaphore blocks and for walks end when what they wait for has come; a walk
that ends absent is reported with KIND 1 once for each absent entry and parks its requesters, and one that ends malformed is
reported with KIND 2 and gives them ACCESS_FAULT. The model's own are: which event comes when (log entries 9 and 30), the
numbering of operands, where HOST_ENQUEUE's addresses lie (log entries 29, 43, 62, 63 and 75), the form of another package's
atomic (log entry 95), how a close's writes are asked for (log entry 96), the pool's reads from other packages (log
entry 51), and who is watched of agents' accesses (log entry 105). -/
def Obligations.TravelEvents : Prop := Happens travelEvent

namespace Sys2Proof.Claims

open Sys2Proof.Machine

/-! ## Scheduling -/

/-- What a step report of the frame governor must leave (R357), from the frame before, the step k and the cycle: enabled
droppable steps above k are dropped, the highest first, and only while the rest would not fit; a frame the rest of which
does not fit then is critical (R360). -/
def governed (f g : Frame) (k now : Nat) : Prop :=
  let above (m : Word) : List Nat := (List.range 64).filter fun j => decide (k < j) && m.getLsbD j
  let d := if f.reported then now - f.lastAt else if f.clocked then now - f.clock else 0
  let t := if f.reported then max d f.lastD else d
  let fits (m : Word) : Prop := ((above m).length * t : Int) + f.entry.margin.toNat ≤ (f.entry.deadline.toNat : Int) - now - f.od
  let dropped (j : Nat) : Prop := f.mask.getLsbD j = true ∧ g.mask.getLsbD j = false
  (∀ j < 64, g.mask.getLsbD j = true → f.mask.getLsbD j = true) ∧
  (∀ j < 64, dropped j → k < j ∧ f.entry.fix = false ∧ f.entry.dropm.getLsbD j = true) ∧
  (∀ j < 64, ∀ i < j, dropped i → f.mask.getLsbD j = true → f.entry.dropm.getLsbD j = true → dropped j) ∧
  (∀ j < 64, dropped j → (∀ i < j, ¬ dropped i) → ¬ fits (g.mask ||| (1#64 <<< j))) ∧
  (fits g.mask ∨ f.entry.fix = true ∨ ∀ j ∈ above g.mask, f.entry.dropm.getLsbD j = false) ∧
  (g.critical = true ↔ f.critical = true ∨ ¬ fits g.mask) ∧
  g.clocked = true ∧ g.clock = (if f.clocked then f.clock else now) ∧
  g.reported = true ∧ g.lastAt = now ∧ g.lastD = d ∧ g.od = f.od ∧ g.entry = f.entry ∧
  (∀ j < 64, g.steps.getLsbD j = (f.steps.getLsbD j || j == k))

/-- The end of an epoch's close (R364-R369): every group passes its flush point, with empty buffers, and a thread that waits at
one goes on, or raises the fault its entry brought; one at an SSYNC has passed its flush point then (R353). -/
def closed (s : State) (k : Nat) : State :=
  let waiting := (s.gids k).filter fun g => decide ((s.group g).epoch < (s.group g).flushes)
  let u := (s.gids k).foldl State.passEpoch s
  let v := u.setWave k { u.wave k with
    epochs := (u.wave k).epochs + 1, closing := false, ask := none, answered := [], lost := [] }
  let w := waiting.foldl (fun x g => (x.members g).foldl (fun y m => match (y.thread m).refusal with
    | some (cause, va) => (match (y.thread m).wait with
        | some (.ssync _) => y.passFlush m
        | _ => y).trap m cause (y.thread m).pc (BitVec.ofNat 64 va)
    | none => y.passFlush m) x) v
  (w.trySsync k).getD w

/-- The events of waves, groups and the ready pool (01 R27, R38-R41; 11 R218; 19 R339-R354; 21 R364-R369; 23 R386-R399,
R404). -/
def scheduleEvent (s : State) (i : Instr) : Option (Prop × State) :=
  match i with
  | .serviceCheck core => match s.longestWait core with
    | some m => some ((s.thread m).since + 256 ≤ s.cycle ∧ (s.core core).serve = 0,
        s.setCore core { s.core core with serve := m + 1 })
    | none => none
  | .convergenceTest gid =>
      let u := s.setGroup gid { s.group gid with test := false }
      let parked := (s.members gid).filter fun m => (s.thread m).wait.any Wait.isGather && !(s.thread m).granted
      some ((s.group gid).test = true ∧ s.waveDet (waveOf gid) = false,
        (u.convergeSet gid parked.length parked).foldl (fun v m => v.trap m 0x0F (v.thread m).pc
          (BitVec.ofNat 64 (match (v.thread m).wait with
            | some (.collective i) => collectiveMask i
            | _ => 0))) u)
  | .wdoneComplete gid =>
      let ready := (s.members gid).filter s.wdoneMet
      if s.waveDet (waveOf gid) then
        some (ready ≠ [] ∧ (s.group gid).unit < 96 ∧ (s.group gid).flushes ≤ (s.group gid).epoch,
          s.setGroup gid { s.group gid with flushes := (s.group gid).epoch + 1 })
      else some (ready ≠ [], ready.foldl State.passWdone s)
  | .govrdComplete k =>
      match (s.waveThreads k).find? s.govrdMet with
      | none => none
      | some m => match (s.thread m).wait with
        | some (.govrd step _) =>
            let same (x : Nat) : Bool := s.govrdMet x && (s.thread x).govrdAt == (s.thread m).govrdAt
            let all := (s.waveThreads k).filter same
            match s.frameOf (s.wave k) with
            | none => some (True, all.foldl (State.passGovrd (BitVec.allOnes 64)) s)
            | some (n, f) =>
                let g := if step = BitVec.allOnes 64 then (if f.clocked then f else { f with clocked := true, clock := s.cycle })
                  else if f.steps.getLsbD step.toNat then f else f.report step.toNat s.cycle
                some (True, all.foldl (State.passGovrd g.mask) ({ s with frames := s.frames.set n g }).spreadCritical)
        | _ => none
  | .epochClose k =>
      if (s.wave k).closing then some (s.closeOwes k = false, closed s k)
      else match s.applyEpoch k with
        | .ok u faults =>
            let v := faults.foldl (fun x f => x.setThread f.1 { x.thread f.1 with refusal := some f.2 }) u
            let w := (v.gids k).foldl (fun x g => x.setGroup g { x.group g with stores := [], atoms := [] }) v
            some (s.epochReady k = true, if w.closeOwes k then w.setWave k { w.wave k with closing := true } else closed w k)
        | .wait a => some (s.epochReady k = true ∧
            (∀ x, (s.wave k).ask = some x → ¬ (x.tid = a.tid ∧ x.block = a.block ∧ x.gate = a.gate)),
            s.setWave k { s.wave k with ask := some a })
        | _ => none
  | .groupEnd gid =>
      let g := s.group gid
      let u := s.setGroup gid { g with ended := true, patterns := [] }
      let v := if g.unit < 96 then
          let x := u.setTile g.unit { u.tile g.unit with tokens := [], tokenFrom := [] }
          (List.range 4).foldl (fun y q => if (y.hoop g.unit q).present then y.releaseHoop g.unit q else y) x
        else u.regrant (g.unit - 96)
      let w := v.checkDone (waveOf gid)
      some (g.started = true ∧ g.ended = false ∧ s.members gid = [] ∧ (s.wave (waveOf gid)).state = .running,
        if w.openGroups (waveOf gid) = [] then w.setWave (waveOf gid) { w.wave (waveOf gid) with state := .retiring } else w)
  | .waveRetire k =>
      some ((s.wave k).state = .retiring ∧ (s.wave k).closing = false ∧ (∀ v ∈ s.peerInv, s.writes k v.writer = false) ∧
        (∀ g ∈ s.gids k, (s.group g).stores = [] ∧ (s.group g).atoms = [] ∧
          ((s.group g).unit < 96 → s.tileIdle (s.group g).unit = true ∧
            ∀ x ∈ (s.tile (s.group g).unit).incs, s.incHeld (s.group g).unit x = true)),
        ((s.vacate k).setWave k default).releasePending)
  | .queueDrainRound => match s.directReady, State.drainRound s.watched (s, [], false) with
    | some q, _ => some (s.host.fack = true, State.enterDirect { s with direct := s.direct.erase q } q.asid q.va)
    | none, (u, qs, true) => some (s.host.fack = true, { u with watched := qs })
    | _, _ => none
  | .dispatchDecision =>
      let held (x : List Nat) : Bool := x.any (s.heldBack x)
      let free := (s.readySets.map (·.2)).filter (!held ·)
      let sets := free ++ (s.readySets.map (·.2)).filter held
      match free.findSome? fun x => (s.placeSet x).map fun u => (x, u) with
      | some (x, u) => some (True, (u.askVictims (sets.filter (· != x))).getD u)
      | none => (s.askVictims sets).map fun u => (True, u)
  | .groupStart k =>
      let r := s.restorePatterns k
      let w := r.wave k
      if r.patternsBack k then
        let u := ((List.range w.groups).foldl (fun x n => x.startGroup k n) r).rearmWave k
        let v := if w.buffer = 0 then u else u.report (mkReport 6 w.asid 0 0 0 w.buffer k 0 0)
        let x := v.setWave k { v.wave k with state := .running, ran := v.cycle, saved := [], buffer := 0, haltDue := false }
        some ((s.wave k).state = .placed, if w.haltDue then x.haltGroups k else x)
      else some ((s.wave k).state = .placed ∧ w.saved ≠ (s.wave k).saved, r)
  | .preemptDeadline k => some ((s.wave k).request ≠ 0 ∧
      ((s.wave k).request + 190000 ≤ s.cycle + 1 ∨ (s.wave k).yielded = true) ∧
      (s.wave k).state = .running ∧ s.choiceHeld (s.setMates k) = false, s.preempt k)
  | .drainDeadline k => some ((s.wave k).mode = .drain ∧ (s.wave k).state = .running ∧
      (s.wave k).chosenAt + 190000 ≤ s.cycle ∧ s.canSave k = true, (s.applySent k).beginSave k)
  | .saveComplete k =>
      let w := s.wave k
      let units := (((s.gids k).filter fun g => (s.group g).placed).map fun g => (s.group g).unit).dedup
      let mine := s.l1.filter fun p => units.contains (p.1 / 2 ^ 45)
      let parts := s.savedParts k
      let quiet : Prop := w.closing = false ∧ s.sent k = [] ∧ (∀ v ∈ s.peerInv, s.writes k v.writer = false) ∧
        s.unfinished k = false ∧ s.sentOpen k = false ∧
        ∀ t ∈ s.waveTiles k, (s.tile t).stops = [] ∧ s.incsOut t = false
      if w.mode = .flush then
        let v := s.vacate k
        some (w.state = .preempted ∧ s.sentOpen k = false, (v.setWave k { v.wave k with
          mode := .none, done := false, wdone := false, closing := false, closeWait := 0, ask := none, answered := []
          lost := [] }).enterReady k)
      else if w.halting = false then
        let u := (s.waveTiles k).foldl (fun u t => u.stopTile t .save) s
        some (w.state = .preempted ∧ w.mode = .save ∧ s.unfinished k = false ∧
          (∀ j ∈ s.savers k, s.portsOut j = false) ∧ (∀ t ∈ s.waveTiles k, (s.tile t).stops = []),
          u.setWave k { u.wave k with halting := true })
      else if (mine.any fun p => p.2.st != .i) then
        some (w.state = .preempted ∧ w.mode = .save ∧ quiet, units.foldl State.dropL1 s)
      else
        let saved := ((s.gids k).filter fun g => (s.group g).placed).map s.saveGroup
        let told := (s.imageBad w.asid w.buffer (s.saveSize k / 2 ^ 16 + 2) (s.saveSize k)).foldl (fun x va =>
          x.report (mkReport 2 w.asid 1 0 0 va k 0 0)) s
        let u := (told.savedParts k).foldl (fun x p =>
          (x.admitRange 192 p.1 p.2).fillFree ⟨192, w.asid, 0, true, .other⟩ p.1 p.2) told
        let v := (u.report (mkReport 5 w.asid 0 0 0 w.buffer k 0 0)).vacate k
        some (w.state = .preempted ∧ w.mode = .save ∧ quiet ∧ (∀ p ∈ mine, p.2.wb = false) ∧
          (∀ p ∈ parts, s.rangeHeld ⟨192, w.asid, 0, true, .other⟩ p.1 p.2 = false),
          (v.setWave k { v.wave k with
            mode := .none, saved := saved, halting := false, closeWait := 0, ask := none, answered := []
            lost := [] }).enterReady k)
  | .tileStopComplete tile => match recordedStop (s.tile tile).stops with
    | none => none
    | some k =>
        let ended (u : State) : State :=
          (u.setTile tile { u.tile tile with stops := [], cutRefused := false, cutSince := 0 }).afterStop tile k
        let ct := s.thread (controlTid tile)
        let due : Prop := (s.tile tile).cutWait = 0 ∧ s.incsOut tile = false ∧
          (∀ v ∈ s.peerInv, ∀ e n, v.writer ≠ .command tile e n) ∧ (∀ a, ct.wait ≠ some (.access a)) ∧
          (s.wave (waveOf ct.gid)).closing = false ∧ (ct.tcut.getLsbD 0 = true → AllPerformed s (controlTid tile))
        let r := s.retireFull tile k
        let who := r.tileWho tile
        let va := ct.tcut.toNat / 64 * 64
        let record := match k with
          | .trap e q c _ => r.cutRecord tile c e q
          | _ => r.cutRecord tile 0 0 0
        if ct.tcut.getLsbD 0 = false then some (due, ended r)
        else if (s.tile tile).cutRefused then some (due, cutLost r tile 0x05)
        else match r.hubPlace who { w := true } va 64 with
          | .absent level =>
              let (u, tag) := reported r who.asid va level 1 (waveOf who.gid) (unitWord tile)
              some (due, u.setTile tile { u.tile tile with cutWait := tag + 1 })
          | .malformed => some (due, cutLost (r.report (mkReport 2 who.asid 1 0 0 va (waveOf who.gid) (unitWord tile) 0)) tile 0x06)
          | .fault c => some (due, cutLost r tile c)
          | .at l =>
              if l.space.foreign && !r.peerAnswered (.cut tile) l then
                some (due ∧ (r.tile tile).cutSince = 0, r.setTile tile { r.tile tile with cutSince := r.cycle + 1 })
              else (r.admitPlain who 0 va l).map fun p =>
                let g := waveOf who.gid
                let u := (p.1.performWrite who l record (max 1 p.2)).dropAnswers (.cut tile)
                (due ∧ r.blocked who.unit l = false, ended (u.setWave g { u.wave g with mark := (p.1.wave g).mark }))
  | .watchdogExpiry (.thread tid) =>
      let t := s.thread tid
      some (s.mayIssue tid = true ∧ (s.waveOfThread tid).state = .running ∧ (s.waveOfThread tid).closing = false ∧ (∃ w, t.wait = some w ∧ w.counts = true) ∧
        t.waited ≠ 0 ∧ t.waited + 2 ^ (s.asidEntry (s.waveOfThread tid).asid).wdog.toNat ≤ s.cycle + 1,
        (s.withdrawArrival tid).trap tid 0x14 t.pc 0)
  | .watchdogExpiry (.engine tile e) =>
      let who := s.tileWho tile
      match s.expired tile e (2 ^ (s.asidEntry who.asid).wdog.toNat) with
      | some c => some ((s.tile tile).stopped = false ∧ (s.wave (waveOf who.gid)).state = .running ∧ 1 ≤ e ∧ e ≤ 9,
          s.failCommand tile e { c with waited := s.cycle } 0x14 e)
      | none => none
  | .patternEntryEvictable core =>
      let asks (m : Nat) : Option State := (s.entryWaiter m).bind fun x =>
        (s.installPattern (s.thread m).gid x.1 x.2).map fun u => u.wake m
      match (s.tids.filter fun m => unitOf m == 96 + core).filterMap asks with
      | [] => none
      | u :: _ => some (64 ≤ (s.storeEntries (96 + core)).length ∧ (∀ p ∈ s.threads, s.thread p.1 = p.2), u)
  | .haltedWaveResumeOrDiscard k resume =>
      let stopped := (s.waveThreads k).filter fun m => (s.thread m).halted
      let due : Prop := stopped ≠ [] ∧ ∀ t ∈ s.waveTiles k, t < 96 → (s.tile t).stops = []
      if resume then
        let u := stopped.foldl (fun v m => v.setThread m ((v.thread m).resumed v.cycle)) s
        some (due, (stopped.filter isControl).foldl (fun v m =>
          if (v.thread m).prv then v else v.setTile (tileOf m) ((v.tile (tileOf m)).restart v.cycle)) u)
      else
        let u := if (s.wave k).buffer = 0 then s
          else s.report (mkReport 6 (s.wave k).asid 0 0 0 (s.wave k).buffer k 0 0)
        some (due, ((u.vacate k).setWave k default).releasePending)
  | .nodeDiscard k => some ((s.wave k).refused = true, (s.setWave k default).releasePending)
  | .faultReportRelease =>
      let q := s.faultq
      match q.held with
      | [] => none
      | r :: rest =>
          let u := ({ s with faultq := { q with held := [] } }).report r
          some (q.registered = true ∧ s.numAt ⟨.host, q.tail⟩ 8 - s.numAt ⟨.host, q.head⟩ 8 < q.entries,
            { u with faultq := { u.faultq with held := rest } })
  | _ => none

end Sys2Proof.Claims

open Sys2Proof Sys2Proof.Machine Sys2Proof.Claims

/-- R357: the governor's rule: a reported step drops droppable steps above it, the highest first, while and only while what is
left would not fit before the deadline; the frame is critical from a report on after which it still does not fit. -/
def Obligations.GovernorDropsSteps : Prop :=
  ∀ (f : Frame) (k now : Nat), k < 64 → governed f (f.report k now) k now

/-- The events of scheduling happen when they are due: completion of WDONE and GOVRD, the close of an epoch, the end and
the start of groups and waves, queue draining, dispatch, pre-emption with its save, the end of a tile's stop, the
watchdog, the service and convergence tests, and what the driver does with halted waves and refused nodes. When an
event comes is left to the order of turns (log entries 1, 3, 12 and 60); readings the events rest on are log entries 47
to 53, 61, 71, 74, 76, 84, 88, 91, 94, 96 to 98 and 101. -/
def Obligations.SchedulingEvents : Prop := Happens scheduleEvent

namespace Sys2Proof.Claims

open Sys2Proof.Machine

/-! ## The driver's ring commands -/

/-- HEAD of the command ring advanced past a command, an index that wraps at the ring's size. -/
def headed (s : State) : State :=
  let next (h : Word) : Word := BitVec.ofNat 64 ((h.toNat + 1) % (s.host.cring.get 1).toNat)
  { s with host := { s.host with cring := s.host.cring.upd 2 next } }

/-- Nothing is under way for a line: no request a home has accepted, no message, no TENQ that holds it, no copy behind a link
that holds. -/
def Quiet (s : State) (line : Nat) : Prop :=
  (s.homeLine line).active = none ∧ (∀ m ∈ s.msgs, m.line ≠ line) ∧
    (∀ p ∈ s.threads, p.2.live = true → p.2.holds ≠ line + 1) ∧ s.copyHeld 1000 line = false

/-- The hub's driver path, under address space 0. -/
def driver : Who := ⟨192, 0, 0, true, .other⟩

/-- Accepted ring commands (01 R36; 19 R346, R350, R355; 21 R373; 23 R379, R404-R407; 25 R419, R425). -/
def ringEvent (s : State) (i : Instr) : Option (Prop × State) :=
  let ring (needs : Prop) (u : State) : Option (Prop × State) :=
    some (s.host.fack = true ∧ s.host.cring.get 1 ≠ 0 ∧ s.host.cring.get 2 ≠ s.host.cring.get 3 ∧ needs, headed u)
  let answer (tag : Nat) (refuse : Bool) : Option (Prop × State) :=
    let u := { s with parks := s.parks.filter (·.tag != tag) }
    ring (∃ p ∈ s.parks, p.tag = tag)
      (((((u.answerPage tag refuse).answerClose tag refuse).answerCut tag refuse).answerPool tag refuse).answerHost tag refuse)
  match i with
  | .frameTableWrite n e => ring (s.feature 4 = true ∧ n < 16 ∧ 1 ≤ e.nstep.toNat ∧ e.nstep.toNat ≤ 64)
      { s with frames := s.frames.set n { (default : Frame) with
        present := true, entry := e, od := e.od.toNat
        mask := if e.fix then e.fmask else BitVec.ofNat 64 (2 ^ e.nstep.toNat - 1) } }
  | .recordControlWrite asid e => ring (e.mode ≠ 3 ∧ (e.mode ≠ 0 → s.feature 2 = true) ∧ e.nw.toNat ≤ 16 ∧
      e.nw.toNat ≤ e.ranges.length ∧ asid < 4096 ∧
      (∀ r ∈ e.ranges.take e.nw.toNat, r.1.toNat % 4096 = 0 ∧ r.2.toNat % 4096 = 0) ∧ e.loglen.toNat % 128 = 0)
      { s with records := s.records.set asid { (default : Recording) with block := e } }
  | .asidEntryWrite asid e => ring (asid < 4096 ∧ e.root.toNat % 4096 = 0 ∧ e.cut.toNat / 2 % 32 = 0 ∧ 20 ≤ e.wdog.toNat ∧
      e.wdog.toNat ≤ 40) { s with asids := s.asids.set asid e }
  | .watchQueueRegister va asid => ring (s.watched.length < 64 ∧ va % 128 = 0 ∧ va < 2 ^ 57 ∧ asid < 4096)
      { s with watched := s.watched ++ [⟨va, asid, 0, none, 0, false⟩] }
  | .faultQueueRegister base entries head tail => ring (entries ≠ 0)
      { s with faultq := { s.faultq with registered := true, base := base, entries := entries, head := head, tail := tail } }
  | .pageFaultReplay tag => answer tag false
  | .pageFaultRefuse tag => answer tag true
  | .shootdown asid lo hi => ring (lo ≤ hi ∧ asid < 4096 ∧
      (∀ p ∈ s.threads, p.2.live = true → s.asidOf p.1 = asid → ∀ a, p.2.wait = some (.access a) →
        ¬ (a.va < 0x01E0000000000000 ∧ a.va < hi ∧ lo < a.va + a.size)) ∧
      (∀ v ∈ s.peerInv, s.writesOf asid v.writer = false))
      { s with tlbs := s.tlbs.map fun t =>
        (t.1, t.2.filter fun e => !(e.asid == asid && (decide (e.page < hi) && decide (lo < e.page + levelSize e.level)))) }
  | .freeze pa size =>
      let legal : Prop := size ≠ 0 ∧ pa % 2 ^ 16 = 0 ∧ size % 2 ^ 16 = 0 ∧ pa + size ≤ 768 * 2 ^ 30
      let dropping (x : State) : Bool := x.peerInv.any fun v => v.line / 2 ^ 45 == s.host.pkgid.toNat &&
        decide (pa / 128 ≤ v.line % 2 ^ 45) && decide (v.line % 2 ^ 45 * 128 < pa + size)
      let u := (s.linesOf pa size).foldl State.freezeLine s
      let v := { u with frozen := u.frozen ++ [(pa, size)] }
      if s.frozen.contains (pa, size) then ring (legal ∧ dropping s = false) s
      else if dropping v then (ring (legal ∧ ∀ line ∈ s.linesOf pa size, Quiet s line) v).map fun p => (p.1, v)
      else ring (legal ∧ ∀ line ∈ s.linesOf pa size, Quiet s line) v
  | .thaw pa => ring (∃ f ∈ s.frozen, f.1 = pa) { s with frozen := s.frozen.filter (·.1 != pa) }
  | .directNodeWrite va asid => ring (asid < 4096 ∧ s.waves.length < 4096) (s.enterDirect asid va)
  | .preemptRequest k => ring (((s.wave k).state = .running ∨ (s.wave k).state = .placed) ∧ (s.wave k).mode = .none)
      (s.askPreempt k)
  | .fabricDomainRegister pkgs => ring (∀ p ∈ pkgs, p ≤ 4095) { s with domain := pkgs }
  | .scrubWrite pa data =>
      let l : Loc := ⟨.hbm, pa⟩
      (s.admitAgent 192 l).bind fun v =>
        ring (pa % 128 = 0 ∧ pa + 128 ≤ 768 * 2 ^ 30 ∧ data.length = 128 ∧ Quiet s (pa / 128))
          ((v.performWrite driver l data (v.agentHint l)).setPoison l false)
  | _ => none

/-! ## The host window, links, die reset, errors, energy and bring-up -/

/-- A state with changed host registers. -/
def withHost (s : State) (f : HostRegs → HostRegs) : State := { s with host := f s.host }

/-- A state with a changed link. -/
def withLink (s : State) (n : Nat) (f : Link → Link) : State := { s with links := s.links.upd n f }

/-- A link whose retraining window, if one is open, closes at a cycle: the cycles it lasted count in HELD (Table 25.3). -/
def windowClosed (now : Nat) (l : Link) : Link :=
  if l.retraining then
    { l with retraining := false, heldCycles := l.heldCycles + (min now l.until_ - (l.until_ - 2850)) } else l

/-- A link that begins a step to a rate at a cycle: 2,850 cycles of retraining (R411). -/
def stepping (rate : BitVec 2) (now : Nat) (l : Link) : Link :=
  { windowClosed now l with
    rate := rate, steps := l.steps + 1, retraining := true, until_ := now + 2850, lastStep := now + 1 }

/-- What the host does at its register window, and the driver's path to HBM (23 R407; 25 R408, R411, R413, R416, R422, R427,
R430). -/
def windowEvent (s : State) (i : Instr) : Option (Prop × State) :=
  match i with
  | .fsubmit v =>
      if v ≠ 1 then some (True, s)
      else if s.host.fack then some (True, withHost s fun h => { h with ferr := true })
      else if s.host.facc &&& ~~~(BitVec.ofNat 128 (0x7F + 3 * 2 ^ 64)) = 0 ∧ s.host.facc.getLsbD 0 = true ∧
          s.host.facc.getLsbD 64 = true then
        some (s.host.state = 3, withHost s fun h => { h with fack := true, state := 4 })
      else some (s.host.state = 3, withHost s fun h => { h with ferr := true })
  | .hstatWrite v => some (v.toNat < 2 ^ 16 ∧ v.getLsbD 1 = false,
      if v.getLsbD 3 then withHost s fun h => { h with ferr := false } else s)
  | .linkPinWrite n v =>
      let pin := v.toNat / 2 ^ 61
      some (n < 16 ∧ pin < 5 ∧ v.toNat / 2 ^ 32 % 2 ^ 27 = 0, withLink s n fun l =>
        let l := { l with pin := BitVec.ofNat 3 pin }
        if pin = 0 ∨ l.rate = BitVec.ofNat 2 (pin - 1) ∨ l.failed = true then l else stepping (BitVec.ofNat 2 (pin - 1)) s.cycle l)
  | .drstGo v =>
      let d := v.toNat % 16
      let u := withHost s fun h => { h with drstDie := BitVec.ofNat 4 d }
      some (1 ≤ d ∧ d ≤ 10 ∧ v.toNat / 2 ^ 10 = 0 ∧ v.toNat / 2 ^ 5 % 8 = 0,
        if v.getLsbD 4 = true ∧ s.host.fack = true ∧ s.host.drstBusy = false then u.beginReset d else u)
  | .dieQuiesceEnd =>
      let d := s.host.drstNow.toNat
      let past := decide (s.host.drstAt + 380000 ≤ s.cycle)
      let late := past && !(s.dirtyLines d ++ s.forwardsTo d).isEmpty
      let u := withHost (s.fenceDie d late) fun h => { h with
        drstBusy := false, drstDone := true, drstLate := late, drstNext := s.host.drstNext.drop 1 }
      some (s.host.drstBusy = true ∧ (past = true ∨ ((s.links.get (d - 1)).retraining = false ∧
          (s.links.get (d - 1)).failed = false ∧ s.dieBusy d = false)),
        match s.host.drstNext with
        | [] => u
        | n :: _ => u.beginReset n)
  | .allowWrite d v => some (d < 17 ∧ v.toNat < 2 ^ 23 ∧
      ((List.range 17).map fun k => if k = d then v.toNat else (s.host.allow.get k).toNat).sum ≤ 3600000,
      withHost s fun h => { h with allow := h.allow.set d (v.setWidth 23) })
  | .cecntRead r =>
      if r.size = 8 then some (r.die < 17, withHost s fun h => { h with cecnt := h.cecnt.set r.die 0 }) else some (True, s)
  | .keyCommit v =>
      let slot := s.host.keySlot.toNat
      let mine := (s.linesOf 0 (2 ^ 52)).filter fun line => s.lineSlot.get line == slot
      let u := mine.foldl (fun u line =>
        let w := (u.recallFrom line 1000).invalidatePeers line .other
        w.setHome line { w.homeLine line with
          owner := 0, sharers := 0, held := false, dirty := false, state := .u }) s
      some ((v.toNat = 2 ∨ v.toNat = 3) ∧ ∀ line ∈ mine, Quiet s line,
        { u with keys := u.keys.set slot ⟨v.getLsbD 0, s.host.dkey, s.host.tkey⟩ })
  | .hostRegWrite off size v =>
      let word {n : Nat} (x : BitVec n) (i : Nat) : BitVec n :=
        (x &&& ~~~((BitVec.ofNat n (2 ^ 64 - 1)) <<< (64 * i))) ||| (v.setWidth n <<< (64 * i))
      let listed : List Nat := [0x20, 0x28, 0x30, 0x40, 0x48, 0x50] ++ (List.range 9).map (0x1000 + 8 * ·)
        ++ (List.range 4).map (0x2000 + 8 * ·)
      let i := off / 8 % 8
      if size ≠ 8 ∨ off ∉ listed then some (True, s)
      else if off = 0x20 ∨ off = 0x28 then
        some (True, if s.host.fack then s else withHost s fun h => { h with facc := word h.facc (i - 4) })
      else if off = 0x30 then
        some (True, if s.host.fack = true ∨ 2 ^ 16 ≤ v.toNat then s else withHost s fun h => { h with pkgid := v.setWidth 16 })
      else if off = 0x40 then some (True, withHost s fun h => { h with tfence := word h.tfence 0 })
      else if off = 0x48 then
        some (True, if 2 ^ 32 ≤ v.toNat then s else withHost s fun h => { h with tfence := word h.tfence 1 })
      else if off = 0x50 then some (True, withHost s fun h => { h with cfence := v })
      else if off = 0x1000 then
        some (True, if 2 ^ 9 ≤ v.toNat then s else withHost s fun h => { h with keySlot := v.setWidth 9 })
      else if off ≤ 0x1020 then some (True, withHost s fun h => { h with dkey := word h.dkey (i - 1) })
      else if off ≤ 0x1040 then some (True, withHost s fun h => { h with tkey := word h.tkey ((off - 0x1028) / 8) })
      else some (True, withHost s fun h => { h with cring := h.cring.set i v })
  | .driverPathAccess write bad pa data =>
      let lines := (data.zipIdx.map fun b => (pa + b.2) / 128).dedup
      if 768 * 2 ^ 30 < pa + data.length then some (True, s)
      else (lines.foldl (fun (r : Option State) x => r.bind fun v => v.admitAgent 192 ⟨.hbm, x * 128⟩) (some s)).map fun a =>
        (s.host.ready = true ∧ (∀ line ∈ s.linesOf (pa / 128 * 128) (pa % 128 + data.length), Quiet s line),
          data.zipIdx.foldl (fun u b =>
            let l : Loc := ⟨.hbm, pa + b.2⟩
            if write then
              let v := u.performWrite driver l [b.1] (u.agentHint l)
              if bad then v.setPoison l true else v
            else u.prepareRead driver l (u.agentHint l)) a)
  | _ => none

/-- Links, errors, energy and bring-up (19 R358, R359; 25 R411, R412, R415-R417, R427-R429). -/
def packageEvent (s : State) (i : Instr) : Option (Prop × State) :=
  let l (n : Nat) : Link := s.links.get n
  match i with
  | .linkMeasureWindow n used lower =>
      let due : Prop := (l n).lastStep = 0 ∨ (l n).lastStep + 95000 ≤ s.cycle + 1
      if 85 < used ∧ (l n).rate ≠ 3 then
        some (n < 16 ∧ (l n).pin = 0 ∧ (l n).retraining = false ∧ (l n).failed = false ∧ due,
          withLink s n fun x => stepping (x.rate + 1) s.cycle x)
      else if lower ≤ 60 ∧ (l n).rate ≠ 0 then
        some (n < 16 ∧ (l n).pin = 0 ∧ (l n).retraining = false ∧ (l n).failed = false ∧ due,
          withLink s n fun x => stepping (x.rate - 1) s.cycle x)
      else some (n < 16, s)
  | .retrainWindowEnd n => some ((l n).retraining = true ∧ (l n).failed = false,
      let u := withLink s n (windowClosed s.cycle)
      let comes (r : Request) : Bool := r.trip == .held && !u.linkHeld r.unit
      { u with home := u.home.map fun p => (p.1, { p.2 with
          queue := p.2.queue.filter (!comes ·) ++ (p.2.queue.filter comes).map fun r =>
            { r with trip := .late, arrived := u.cycle } }) })
  | .linkRetrainFail n =>
      let u := withLink s n fun x => { x with failed := true, retraining := false, heldCycles := x.heldCycles + 2850 }
      some (n < 16 ∧ (l n).retraining = true ∧ (l n).failed = false ∧ (l n).until_ ≤ s.cycle,
        if n < 10 then u.beginReset (n + 1) else u)
  | .flitCheckFail n => some (n < 16, { withLink s n fun x => { x with
      heldCycles := x.heldCycles + (Config.freeWord s.free).toNat } with free := s.free + 1 })
  | .correctedError d => some (d < 17, withHost s fun h => { h with
      cecnt := h.cecnt.upd d fun c => if c = BitVec.allOnes 64 then c else c + 1 })
  | .uncorrectableError place =>
      let poisoned (x : Loc) : State := (s.setPoison x true).trigger x 128
      match place with
      | .hbm pa => some (pa < 768 * 2 ^ 30, poisoned ⟨.hbm, pa / 128 * 128⟩)
      | .host pa => some (pa < 2 ^ 52, poisoned ⟨.host, pa / 128 * 128⟩)
      | .peer pkg pa => some (pkg < 4096 ∧ pa < 2 ^ 52, poisoned ⟨.peer pkg, pa / 128 * 128⟩)
      | .l1 unit line =>
          if (s.l1.get (l1Key unit line)).st = .m ∨ (s.l1.get (l1Key unit line)).st = .o then
            let u := leaves s unit line
            let v := ({ u with l1 := u.l1.set (l1Key unit line) ⟨.i, true⟩ } : State).send ⟨line, unit, .writeback, 0, 0⟩
            some (True, (v.setPoison ⟨.hbm, line * 128 / 128 * 128⟩ true).trigger ⟨.hbm, line * 128 / 128 * 128⟩ 128)
          else some ((s.l1.get (l1Key unit line)).st ≠ .i, leaves s unit line)
      | .scratch tile off => some (tile < 96 ∧ off < 2 ^ 25, poisoned ⟨.sp tile, off / 128 * 128⟩)
      | .groupMem core off => some (core < 64 ∧ off < 2 ^ 21, poisoned ⟨.gm core, off / 128 * 128⟩)
      | .unitState (.thread tid) => some ((s.thread tid).live = true, s.haltUnit tid 0x07 (s.thread tid).pc.toNat)
      | .unitState (.engine tile _) => some ((s.thread (controlTid tile)).live = true,
          s.haltUnit (controlTid tile) 0x07 (s.thread (controlTid tile)).pc.toNat)
      | .unitState .hub => none
  | .patrolScrub line => some (line * 128 < 768 * 2 ^ 30, s)
  | .energyAllowanceReached m =>
      let e := s.energy.read m.used
      let goesOn := decide ((e.used.map (·.2)).sum < 4200000) && decide (e.hot < 10)
      let due (d : Nat) : Bool := decide ((s.host.allow.get d).toNat ≤ e.used.get d ∧ (0 < e.used.get d ∨ d = m.die))
      let judged (x : Energy) (d : Nat) : Energy :=
        let y := { x with hit := x.hit.set d true }
        if x.held.get d then y
        else if goesOn then { y with overdraft := y.overdraft.set d true }
        else { y with held := y.held.set d true }
      some (m.die ≤ 16, { s with energy :=
        ([1, 2, 3, 4, 5, 6, 7, 8, 9, 10].filter fun d => due d || e.overdraft.get d).foldl judged e })
  | .energyWindowEnd used =>
      let charged := s.chargedFrames
      let total := ((s.energy.read used).used.map (·.2)).sum
      some ((s.energy.window + 1) * 1900000 ≤ s.cycle, { s with
        frames := s.frames.map fun f => (f.1,
          if f.2.present = true ∧ f.2.entry.frame.toNat ∈ charged then { f.2 with od := f.2.od + 1900000 } else f.2)
        energy := { s.energy with
          used := [], overdraft := [], held := [], charged := [], window := s.energy.window + 1
          hit := if s.energy.thermal then SMap.setMany [] 1 (List.replicate 10 true) else []
          hot := if 3600000 < total then s.energy.hot + 1 else 0 } })
  | .thermalTrip d => some (d < 17, { s with energy := { s.energy with
      thermal := true, hit := SMap.setMany [] 1 (List.replicate 10 true) } })
  | .thermalClear => some (s.energy.thermal = true, { s with energy := { s.energy with thermal := false } })
  | .powerGood => some (s.host.power = false, withHost s fun h => { h with power := true })
  | .selfTestDone err => some (s.host.power = true ∧ s.host.state = 0 ∧ s.host.ready = false ∧ (err = 0 ∨ err = 1 ∨ err = 4),
      withHost s fun h => if err = 0 then { h with state := 1 } else { h with state := 0xF, errc := BitVec.ofNat 8 err })
  | .hbmTrainingDone err => some (s.host.power = true ∧ s.host.state = 1 ∧ s.host.ready = false ∧ (err = 0 ∨ err = 2),
      withHost s fun h => if err = 0 then { h with state := 2 } else { h with state := 0xF, errc := BitVec.ofNat 8 err })
  | .hbmInitDone err =>
      if err = 0 then some (s.host.power = true ∧ s.host.state = 2 ∧ s.host.ready = false, { s with
        mem := SMap.clearRange (SMap.clearRange s.mem 0 (2 ^ 52)) (2 ^ 53) (2 ^ 53 + 96 * 2 ^ 25)
        poison := [], lineSlot := [], lineKey := [], l1 := [], home := [], msgs := [], peerL2 := [], cycle := 0
        links := s.links.map fun x => (x.1, { x.2 with steps := 0 })
        energy := { s.energy with window := 0 }, host := { s.host with ready := true, state := 3 } })
      else some (s.host.power = true ∧ s.host.state = 2 ∧ s.host.ready = false ∧ err = 3,
        withHost s fun h => { h with state := 0xF, errc := BitVec.ofNat 8 err })
  | .packageReset => some (True, { State.reset with
      mem := s.mem.filter fun c => (decide (2 ^ 52 ≤ c.1) && decide (c.1 < 2 ^ 53)) || decide (2 ^ 54 ≤ c.1)
      inputs := s.inputs, queue := s.queue, cur := s.cur, free := s.free, host := { State.reset.host with power := true } })
  | _ => none

end Sys2Proof.Claims

open Sys2Proof Sys2Proof.Machine Sys2Proof.Claims

/-- R36, R346, R350, R355, R373, R379, R404-R407, R419, R425: each ring command of the driver that is legal takes
effect, and HEAD advances past it. The model's own are: a command as one event, HEAD in word 2 and its wrap (log entry
13), the widths of WDOG's range (log entry 17), a shootdown or freeze held until what is under way is done (log entry
59), and where the fault queue's counts stand (log entry 76). -/
def Obligations.RingCommands : Prop := Happens ringEvent

/-- R358, R359, R407, R408, R410-R417, R422, R427-R430: what the host writes and reads at the register window takes
effect: features, status, link rates, die reset, energy allowances, corrected-error counts, keys, fences, and the
driver's path to HBM; and links, errors, energy accounting, bring-up and package reset do what the manual says.
Readings it rests on: log entries 55 to 58, 64 (the bookkeeping of an energy window) and 66; that a register written before
FACK keeps what is written, log entry 56. -/
def Obligations.WindowAndPackageEvents : Prop :=
  Happens windowEvent ∧ Happens packageEvent

namespace Sys2Proof.Claims

open Sys2Proof.Machine

/-! ## A step -/

/-- The next step is the turn of `a`: nothing comes from outside, and `a` heads the order of turns. -/
def HasTurn (s : State) (a : Agent) (rest : List Agent) : Prop := s.takeInput = none ∧ s.queue = a :: rest

/-- The word `w` can be fetched from a virtual address: it lies at a place the address leads to, with the permission, not
poisoned, and nothing holds it on its way; `u` is the state after its line is read, which leaves no copy in the L1, once
the order gate of a watched line lets the fetch of `slot` through (R375). -/
def Fetches (s : State) (who : Who) (slot : Nat) (need : Need) (va w : Nat) (u : State) : Prop :=
  ∃ l v hint, s.resolve who need va 4 = .at l ∧ s.poisoned l = false ∧ s.readHeld who l = false ∧
    s.admitPlain who slot va l = some (v, hint) ∧ u = v.prepareRead who l (max 1 hint) ∧ u.viewNum l 4 = w

/-- What a step answers when the turn answers `o`: one cycle more on the clock of a package that is ready. -/
def ticked (s : State) : Host.Outcome State Fault Refusal → Host.Outcome State Fault Refusal
  | .next t => .next (t.tick s.host.ready)
  | o => o

/-! ## Frames -/

/-- A load. -/
def isLoad : AccessOp → Bool
  | .load _ => true
  | _ => false

/-- Instructions that touch nothing but registers of their own thread. -/
def registerEffect (s : State) (tid : Nat) (i : Instr) : Option Effect :=
  intEffect s tid i <|> predEffect s tid i <|> floatEffect s tid i <|> flowEffect s tid i

/-- The predicate an instruction writes. -/
def predicateOf (i : Instr) : Option (BitVec 3) :=
  match i with
  | .cmp _ _ p _ _ | .cmpAnd _ _ p _ _ | .cmpOr _ _ p _ _ | .cmpXor _ _ p _ _ | .cmpi _ p _ _ | .qop _ p _ _ _
  | .fcmp _ _ _ p _ _ => some p
  | _ => none

/-- Instructions that may raise float flags (R170-R178). -/
def flagging (i : Instr) : Bool :=
  match i with
  | .fadd _ _ _ _ _ | .fsub _ _ _ _ _ | .fmul _ _ _ _ _ | .fdiv _ _ _ _ _ | .ffma _ _ _ _ _ | .fsqrt _ _ _ _
  | .frnd _ _ _ _ | .fmin _ _ _ _ _ | .fmax _ _ _ _ _ | .fcmp _ _ _ _ _ _ | .frcp _ _ _ _ | .frsq _ _ _ _
  | .fexp2 _ _ _ _ | .flog2 _ _ _ _ | .fsin _ _ _ _ | .fcos _ _ _ _ | .fcvt _ _ _ _ _ => true
  | _ => false

/-- LOOP and LEND, which change the loop stack (R180). -/
def looping (i : Instr) : Bool :=
  match i with
  | .loop _ _ _ | .lend _ => true
  | _ => false

end Sys2Proof.Claims

open Sys2Proof Sys2Proof.Machine Sys2Proof.Claims

/-- 01 R24, R27, 07 R114-R116, R125, 13 R245: when the words at its PC are an instruction of its stream, a control core,
an engine's sequencer, and the one runnable thread of a proof core each execute that instruction as their step,
prefix word first; a word no row names is executed as an illegal encoding. The fetch itself changes no more than
copies of the line fetched. A fault that a walk or the driver's refusal has brought is raised first (R405), so none stands
here. Which unit has the turn is the model's choice (log entry 1). -/
def Obligations.StepRunsDecoded : Prop :=
  (∀ (s : State) (tid : Nat) (rest : List Agent), HasTurn s (.thread tid) rest → isControl tid = true →
    ({ s with queue := rest }).canIssue tid = true → (s.thread tid).refusal = none →
    let c := { s with queue := rest, cur := .thread tid }
    let fetches := Fetches (slot := slotOf tid) (need := needX) (who := c.who tid)
    let va := (s.thread tid).pc.toNat
    (∀ w i u, fetches c va w u → wordCount w = 1 → fSel w ≠ 2 → decodeCore w 0 = .ok i →
      step s = ticked s (exec i u)) ∧
    (∀ w v i u x, fetches c va w u → wordCount w = 2 → fetches u (va + 4) v x → decodeCore w v = .ok i →
      step s = ticked s (exec i x)) ∧
    (∀ w p v i t u x, fetches c va w u → fSel w = 2 → decodeCore w 0 = .ok p → fetches u (va + 4) v x →
      wordCount v = 1 → fSel v ≠ 2 → decodeCore v 0 = .ok i → exec p x = .next t → step s = ticked s (exec i t)) ∧
    ∀ w e u, fetches c va w u → wordCount w = 1 → decodeCore w 0 = .error e →
      step s = ticked s (exec (.illegalInstructionEncoding (BitVec.ofNat 32 w)) u)) ∧
  (∀ (s : State) (tile e : Nat) (rest : List Agent) (st : Strand) (w : Nat) (i : Instr) (u : State),
    HasTurn s (.engine tile e) rest →
    let c := { s with queue := rest, cur := .engine tile e }
    firstNext c (c.engine tile e).candidates = none → (c.engine tile e).strand = some st →
    (c.tile tile).stopped = false → st.idling = false → (c.engine tile e).full = false → st.wait = none →
    st.refusal = none → Fetches c (c.tileWho tile) 0 needR st.pc.toNat w u → decodePatch w = .ok i →
    step s = ticked s (exec i (u.setStrand tile e st))) ∧
  ∀ (s : State) (tid lead : Nat) (rest : List Agent) (w : Nat) (i : Instr) (r t : State),
    HasTurn s (.thread tid) rest → isControl tid = false →
    let n := tid / 1024
    let c := { s with queue := rest }
    let f := c.setCore n { c.core n with serve := 0 }
    c.gangLead n = some lead → c.gangOf n lead = [lead] → (c.thread lead).refusal = none →
    Fetches f (f.who lead) (slotOf lead) needX (f.thread lead).pc.toNat w r →
    wordCount w = 1 → fSel w ≠ 2 → decodeCore w 0 = .ok i →
    let h := r.setCore n { r.core n with gang := lanesOf [lead] }
    let g := h.setThread lead { h.thread lead with since := h.cycle }
    g.canIssue lead = true → exec i { g with cur := .thread lead } = .next t →
    step s = .next ((t.setCore n { t.core n with gang := 0 }).tick s.host.ready)

/-- R114-R120, R147, R229, R290: words of the encoding tables, one or two of each family, are the instructions they stand
for. -/
def Obligations.DecodesSpecWords : Prop :=
  decodeCore 0x32140004 0 = .ok (.movi 5 4) ∧
  decodeCore 0x08CC20C0 0 = .ok (.cmp ⟨0, false⟩ 6 3 2 3) ∧
  decodeCore 0x4C005000 6 = .ok (.loop ⟨0, false⟩ 5 6) ∧
  decodeCore 0x2D000002 0 = .ok (.lend ⟨0, false⟩) ∧
  decodeCore 0x0E000003 0 = .ok (.exit ⟨0, false⟩) ∧
  decodeCore 0x4F004142 2 = .ok (.rast ⟨0, false⟩ 4 5 2) ∧
  decodeCore 0x4F184143 0 = .ok (.bary ⟨0, false⟩ 6 4 5) ∧
  decodeCore 0x4E184140 2 = .ok (.tex ⟨0, false⟩ 6 4 5 2) ∧
  decodeCore 0x2E108040 0 = .ok (.halloc ⟨0, false⟩ 1 4 8) ∧
  decodeCore 0x2E1461C2 0 = .ok (.hrsh ⟨0, false⟩ 5 6 7) ∧
  decodeCore 0x520C8243 0 = .ok (.tenq ⟨0, false⟩ 3 8 9) ∧
  decodeCore 0x53080002 0 = .ok (.govrd ⟨0, false⟩ 2) ∧
  decodeCore 0x50184140 2 = .ok (.xop ⟨0, false⟩ 6 4 5 0 2) ∧
  decodeCore 0x51008000 2 = .ok (.patld ⟨0, false⟩ 8 2) ∧
  decodeCore 0x510C0002 2 = .ok (.patq ⟨0, false⟩ 3 2) ∧
  decodeCore 0xC5080000 0 = .error .selector ∧
  decodePatch 0x32140004 = .error .selector ∧
  decodePatch 0xC5080007 = .ok (.amend 5 1 7)

/-- R114-R120, R137-R139, R147: no bit of an encoding is lost: every well-formed instruction that has words decodes from
them to itself, with every operand; and R122: an accepted word is exactly the encoding of its instruction, so that no
reserved bit of it is set. -/
def Obligations.DecodeEncode : Prop :=
  (∀ (i : Instr) (w : Nat) (ws : List Nat), wellFormed i = true → encode i = w :: ws →
    if fSel w = 3 then decodePatch w = .ok i else decodeCore w (ws.headD 0) = .ok i) ∧
  ∀ (i : Instr) (w v : Nat), (decodeCore w v = .ok i ∨ (decodePatch w = .ok i ∧ v = 0)) →
    wellFormed i = true ∧ encode i = if wordCount w = 2 then [w, v] else [w]

/-- The memory keeps its canonical form: in every state in which it has it, whatever a step does, it has it afterwards.
The form is the model's own representation (log entry 5). -/
def Obligations.MemoryStaysCanonical : Prop :=
  ∀ s t : State, s.mem.wf = true → step s = .next t → t.mem.wf = true

/-- R429: after power-on nothing has been powered up or is ready, STATE is 0 and no error is held; no thread lives, no wave
exists, and every memory byte, every semaphore, easel record and accumulator word reads as zero (the zeros of host and
group memory and of registers are the model's own, notes/assumptions/5.md and 7.md). -/
def Obligations.ResetState : Prop :=
  let s := State.reset
  s.mem.wf = true ∧ (∀ tile n, (s.tile tile).easel.get n = 0) ∧ s.host.power = false ∧ s.host.ready = false ∧ s.host.state = 0 ∧ s.host.errc = 0 ∧
  s.host.facc = 0 ∧ (∀ tid, (s.thread tid).live = false) ∧ s.waves = [] ∧ s.queue = [] ∧ s.inputs = [] ∧
  (∀ l, s.byteAt l = 0) ∧ (∀ tile n, (s.tile tile).sems.get n = 0) ∧ (∀ tile n, (s.tile tile).acc.get n = 0) ∧
  (∀ tid r, (s.thread tid).rd r = 0)

/-- R27, R121, R163-R181: an instruction that works on registers alone changes no byte of memory, no other thread, no tile,
core, group or wave; in its own thread it leaves every general register but its destinations, every predicate but its
destination, every CSR, the trap registers, the monitor, the port queues and the register blocks as they were; only float
instructions raise flags and none clears one, and only LOOP and LEND touch the loop stack. -/
def Obligations.RegisterFrame : Prop :=
  ∀ (i : Instr) (e : Effect) (s t : State) (tid : Nat), registerEffect s tid i = some e → wellFormed i = true →
    Able s tid e.spec → e.needs → ((s.thread tid).step = false ∨ (s.thread tid).prv = true) → exec i s = .next t →
    t = { s with threads := t.threads } ∧ (∀ l, t.byteAt l = s.byteAt l) ∧ (∀ m, m ≠ tid → t.thread m = s.thread m) ∧
    let a := s.thread tid
    let b := t.thread tid
    (∀ r, r ∉ e.spec.writes → b.rd r = a.rd r) ∧
    (∀ p, predicateOf i ≠ some p → b.pred p = a.pred p) ∧
    (if flagging i then b.fl &&& a.fl = a.fl else b.fl = a.fl) ∧
    (looping i = false → b.loops = a.loops) ∧
    b.fmode = a.fmode ∧ b.rkey = a.rkey ∧ b.digest = a.digest ∧ b.govmask = a.govmask ∧ b.patbase = a.patbase ∧
    b.tvec = a.tvec ∧ b.tcut = a.tcut ∧ b.tepc = a.tepc ∧ b.tval = a.tval ∧ b.tcause = a.tcause ∧ b.prv = a.prv ∧
    b.pprv = a.pprv ∧ b.step = a.step ∧ b.chkmiss = a.chkmiss ∧ b.mon = a.mon ∧ b.ports = a.ports ∧ b.held = a.held ∧
    b.live = a.live ∧ b.halted = a.halted ∧ b.gid = a.gid

/-- R184-R191: an access leaves every byte outside the bytes it stores to as it was (a load, all of memory); in its own thread
it changes no general register but the destination of a load, ATOM or CAS, no predicate, no flag and no trap register;
and of other threads at most the monitors. -/
def Obligations.AccessFrame : Prop :=
  ∀ (i : Instr) (f : MemForm) (s t : State) (tid : Nat) (l : Loc), memForm (s.thread tid) i = some f →
    wellFormed i = true → Able s tid f.spec → (f.release = true → AllPerformed s tid) →
    s.resolve (s.who tid) f.need f.va.toNat f.size = .at l → Immediate s tid (f.access s tid l) → s.poisoned l = false →
    Keyed s tid l → s.mem.wf = true → ((s.thread tid).step = false ∨ (s.thread tid).prv = true) → exec i s = .next t →
    (∀ k : Loc, (isLoad f.op = true ∨ ¬ (l.key ≤ k.key ∧ k.key < l.key + f.size)) → t.byteAt k = s.byteAt k) ∧
    let a := s.thread tid
    let b := t.thread tid
    (∀ r, r ∉ f.spec.writes → b.rd r = a.rd r) ∧ b.q = a.q ∧ b.fl = a.fl ∧ b.loops = a.loops ∧ b.fmode = a.fmode ∧
    b.tepc = a.tepc ∧ b.tval = a.tval ∧ b.tcause = a.tcause ∧ b.prv = a.prv ∧ b.pprv = a.pprv ∧ b.tvec = a.tvec ∧
    (isLoad f.op = true → b.digest = a.digest) ∧
    ∀ m, m ≠ tid → t.thread m = { s.thread m with mon := (t.thread m).mon }
end

