-- ==== Sys2Proof/Laws/Able.lean ====
section
/-! SUPPORT. `Able` as a check that can be evaluated, and what parking and completing answer in the terms of `Safety`. -/

namespace Sys2Proof.Machine

/-- The conditions of `Able`, evaluated. -/
def canExecute (s : State) (tid : Nat) (x : Spec) : Bool :=
  let t := s.thread tid
  decide (s.cur = .thread tid) && s.mayIssue tid && (x.kind != .proof || !isControl tid) &&
  (x.kind != .control || isControl tid) && (!x.tat || s.feature 3) && (pfxBad [] t.pfx).isNone &&
  t.pfx.all (accepts x.accept) && (!x.transfer || t.pfx.isEmpty) && (!x.privileged || t.prv) && guardOn x.guard t &&
  (x.reads ++ x.writes).all (fun r => isControl tid || !t.unheld r) &&
  x.reads.all (fun r => r == 0 || t.pend.get r.toNat == 0) && (!x.noHandler || !isControl tid || !t.prv)

theorem able_of_canExecute {s : State} {tid : Nat} {x : Spec} (h : canExecute s tid x = true) : Able s tid x := by
  simp only [canExecute, Bool.and_eq_true, decide_eq_true_eq, Bool.or_eq_true, bne_iff_ne, ne_eq, Bool.not_eq_true',
    Option.isNone_iff_eq_none, List.all_eq_true, List.isEmpty_iff, beq_iff_eq] at h
  obtain ⟨⟨⟨⟨⟨⟨⟨⟨⟨⟨⟨⟨h1, h2⟩, h3⟩, h4⟩, h5⟩, h6⟩, h7⟩, h8⟩, h9⟩, h10⟩, h11⟩, h12⟩, h13⟩ := h
  refine ⟨h1, h2, ⟨fun e => h3.resolve_left (not_not.mpr e), fun e => h4.resolve_left (not_not.mpr e)⟩, ?_, ⟨h6, ?_⟩, ?_, ?_,
    h10, ?_, ?_, ?_⟩
  · intro e; simpa [e] using h5
  · exact List.all_eq_true.mpr h7
  · intro e; simpa [e] using h8
  · intro e; simpa [e] using h9
  · intro r hr
    simpa using h11 r hr
  · intro r hr
    simpa using h12 r hr
  · intro e c
    simpa [e, c] using h13

/-- Completing an instruction of `n` words leaves the thread at the word after it. -/
theorem cx_done {s : State} {i : Instr} {tid n : Nat} (h : (encode i).length = n) (u : State) :
    (s.cx i tid).done u = .next (s.finishIn u tid n) := by
  unfold State.finishIn State.after
  rw [← h]
  rfl

/-- Parking at an instruction of `n` words. -/
theorem cx_park {s : State} {i : Instr} {tid n : Nat} (h : (encode i).length = n) (w : Wait) :
    (s.cx i tid).park w s = .next (s.waits tid n w) := by
  unfold State.waits Cx.park State.after
  rw [← h]
  rfl

end Sys2Proof.Machine
end

