-- ==== Sys2Proof/Laws/Core.lean ====
section
/-! SUPPORT. The common course of a core instruction: what it answers when the thread can execute it. -/

namespace Sys2Proof.Machine

theorem running_of_cur {s : State} {tid : Nat} (h : s.cur = .thread tid) (m : s.mayIssue tid = true) :
    s.running = some tid := by simp [State.running, h, m]

theorem firstFate_able {s : State} {tid : Nat} {x : Spec} (h : Able s tid x) (w : Nat) :
    firstFate x w tid (s.thread tid) s = none := by
  obtain ⟨_, _, ⟨k1, k2⟩, hf, ⟨p1, p2⟩, ht, hl, _, _, _, _⟩ := h
  have a : ¬ ((x.kind = .proof ∧ isControl tid = true) ∨ (x.kind = .control ∧ (!isControl tid) = true)
      ∨ (x.tat = true ∧ (!s.feature 3) = true)) := by
    rintro (⟨h, h'⟩ | ⟨h, h'⟩ | ⟨h, h'⟩)
    · simp [k1 h] at h'
    · simp [k2 h] at h'
    · simp [hf h] at h'
  have b : ¬ ((x.transfer = true ∧ (s.thread tid).pfx ≠ [])
      ∨ (s.thread tid).pfx.any (fun w => !accepts x.accept w) = true) := by
    rintro (⟨h, h'⟩ | h)
    · exact h' (ht h)
    · rw [List.any_eq_true] at h
      obtain ⟨w, hw, hn⟩ := h
      have := List.all_eq_true.mp p2 w hw
      simp [this] at hn
  have c : ¬ (x.privileged = true ∧ (!(s.thread tid).prv) = true) := by
    rintro ⟨h, h'⟩
    simp [hl h] at h'
  unfold firstFate
  rw [if_neg a, p1]
  simp only
  rw [if_neg b, if_neg c]

theorem sharedFault_able {s : State} {tid : Nat} {x : Spec} (h : Able s tid x) (w : Nat) :
    sharedFault x w tid (s.thread tid) = none := by
  obtain ⟨_, _, _, _, _, _, _, _, hh, hr, hn⟩ := h
  have a : (if isControl tid then none else (x.reads ++ x.writes).find? (s.thread tid).unheld) = none := by
    split
    · rfl
    · next hc =>
      rw [List.find?_eq_none]
      intro r hr
      rcases hh r hr with h | h
      · exact absurd h hc
      · simp [h]
  have b : x.reads.find? (fun r => decide (r ≠ 0) && (s.thread tid).pend.get r.toNat != 0) = none := by
    rw [List.find?_eq_none]
    intro r h
    rcases hr r h with h | h <;> simp [h]
  have c : ¬ (x.noHandler = true ∧ isControl tid = true ∧ (s.thread tid).prv = true) := by
    rintro ⟨h1, h2, h3⟩
    simp [hn h1 h2] at h3
  unfold sharedFault
  simp only [a, b]
  rw [if_neg c]

/-- A thread that can execute a core instruction executes its own effect. -/
theorem coreInstr_able {s : State} {tid : Nat} {x : Spec} (h : Able s tid x) (i : Instr) (body : Cx → State → Out) :
    coreInstr i x body s = body (s.cx i tid) s := by
  unfold coreInstr
  rw [running_of_cur h.cur h.may]
  have h1 : (s.cx i tid).t = s.thread tid := rfl
  simp only [h1, firstFate_able h, sharedFault_able h, h.guard, if_true]

end Sys2Proof.Machine
end

