-- ==== Sys2Proof/Laws/Engines.lean ====
section
/-! SUPPORT. What a turn of an engine answers when its one started command can go on, and what the folds of the strips'
work leave, in the terms of whole lists. -/

namespace Sys2Proof.Machine

/-- Reads that all succeed collect their values. -/
theorem Eng.collect_ok {α β : Type} {f : α → Eng β} {g : α → β} {l : List α} (h : ∀ x ∈ l, f x = .ok (g x)) :
    Eng.collect f l = .ok (l.map g) := by
  induction l with
  | nil => rfl
  | cons x l ih =>
    simp only [Eng.collect, h x (by simp), ih fun y hy => h y (by simp [hy]), Eng.andThen, List.map_cons]

/-- Continuing after a value. -/
@[simp] theorem Eng.andThen_ok {α β : Type} (a : α) (f : α → Eng β) : (Eng.ok a).andThen f = f a := rfl

/-- An engine whose one started command is of this opcode, unfinished and waiting for nothing, answers a piece of its work. -/
theorem EngOp.exec_work {op : EngOp} {s u v : State} {tile e : Nat} {c : Command} (hcur : s.cur = .engine tile e)
    (hrun : (s.tile tile).stopped = false) (hst : (s.engine tile e).started = [c]) (hrow : op.isFor c = true)
    (hfin : c.finished = false) (hwait : c.wait = none) (hidle : (imgClass c.image == 2 && imgOpc c.image == 0x0C) = false)
    (h : op.work s tile e c = .ok u) (hv : s.settleWork tile e c (.ok u) = some v) : op.exec s = .next v := by
  unfold EngOp.exec happens EngOp.turn
  simp only [hcur, hst, List.cons_append, List.nil_append, List.any_cons, hrow, Bool.true_or, Bool.not_true, hrun,
    Bool.false_or, Engine.idles, hidle, Bool.false_and, List.any_nil, Bool.or_false, Bool.false_eq_true, if_false,
    EngOp.workOn, hfin, hwait, Option.isSome_none, h, hv]
  have idle : c.streamKeys.any [].contains = false := by simp
  simp only [idle, Bool.false_eq_true, if_false, Option.getD_some]

/-- A list cut into blocks of 32 is its blocks in order. -/
theorem blocks32_eq {α : Type} (n : Nat) (l : List α) (h : l.length ≤ 32 * n) :
    blocks32 n l = (List.range ((l.length + 31) / 32)).map fun b => (l.drop (32 * b)).take 32 := by
  induction n generalizing l with
  | zero =>
    have : l = [] := by simpa using h
    subst this; simp [blocks32]
  | succ n ih =>
    unfold blocks32
    cases l with
    | nil => simp
    | cons x l =>
      have e : ((x :: l).length + 31) / 32 = ((List.drop 32 (x :: l)).length + 31) / 32 + 1 := by
        simp only [List.length_drop, List.length_cons]; omega
      rw [e, List.range_succ_eq_map, List.map_cons, List.map_map, ih _ (by simp only [List.length_drop]; omega)]
      simp only [List.isEmpty_cons, Bool.false_eq_true, if_false, Nat.mul_zero, List.drop_zero, List.cons.injEq, true_and]
      refine List.map_congr_left fun b _ => ?_
      simp only [Function.comp, List.drop_drop]
      congr 2
      omega

/-- The two lists a reduction keeps in `partials` are read back as they were put. -/
theorem tagged_tagLists {c : Command} {cur out : List Nat} (h : c.partials = tagLists cur out) :
    tagged c 0 = cur ∧ tagged c 1 = out := by
  simp [tagged, h, tagLists, List.filter_append, List.filter_map, Function.comp_def]

/-- Gathering a vector's elements into lists: with less than a list waiting, every list that fills gives its result, and what
is left over waits. -/
theorem redStep_eq (c : Command) (xs cur out : List Nat) (h : cur.length < listLen c) :
    redStep c xs cur out = ((cur ++ xs).drop (listLen c * ((cur ++ xs).length / listLen c)),
      out ++ (List.range ((cur ++ xs).length / listLen c)).map fun j =>
        redOut c (reduceTree (redOp c) 0 (((cur ++ xs).drop (listLen c * j)).take (listLen c)))) := by
  induction xs generalizing cur out with
  | nil =>
    simp [redStep, Nat.div_eq_of_lt h]
  | cons x xs ih =>
    simp only [redStep]
    split
    · next e =>
      rw [ih [] _ (by simp; omega)]
      have hl : (cur ++ x :: xs) = (cur ++ [x]) ++ xs := by simp
      have hlen : ((cur ++ [x]) ++ xs).length = xs.length + listLen c := by
        rw [List.length_append, e, Nat.add_comm]
      have hd : ((cur ++ [x]) ++ xs).length / listLen c = xs.length / listLen c + 1 := by
        rw [hlen, Nat.add_div_right _ (by omega)]
      have tail (j : Nat) : ((cur ++ [x]) ++ xs).drop (listLen c * (j + 1)) = xs.drop (listLen c * j) := by
        rw [Nat.mul_add, Nat.mul_one, Nat.add_comm, ← List.drop_drop, ← e, List.drop_left]
      rw [hl, hd, List.range_succ_eq_map, List.map_cons, List.map_map, tail]
      simp only [List.nil_append, Nat.mul_zero, List.drop_zero, Prod.mk.injEq, true_and, Function.comp_def,
        Nat.succ_eq_add_one, tail]
      rw [List.append_assoc, List.singleton_append, show List.take (listLen c) (cur ++ [x] ++ xs) = cur ++ [x] by
        rw [← e, List.take_left]]
    · next e =>
      rw [ih (cur ++ [x]) out (by simp at e ⊢; omega)]
      simp

/-- Scanning a vector's elements in lists: each result is the last of the scan of its list so far. -/
theorem scanRun_eq (c : Command) (xs cur : List Nat) (h : cur.length < listLen c) :
    scanRun c xs cur = ((cur ++ xs).drop (listLen c * ((cur ++ xs).length / listLen c)),
      (List.range xs.length).map fun k =>
        let p := cur.length + k
        let l := ((cur ++ xs).drop (p / listLen c * listLen c)).take (p % listLen c + 1)
        redOut c ((scanTree (redOp c) (Nat.log2 l.length + 1) 1 l).getLastD 0)) := by
  induction xs generalizing cur with
  | nil => simp [scanRun, Nat.div_eq_of_lt h]
  | cons x xs ih =>
    have hl : cur ++ x :: xs = (cur ++ [x]) ++ xs := by simp
    have first : ((cur ++ x :: xs).drop (cur.length / listLen c * listLen c)).take (cur.length % listLen c + 1) = cur ++ [x] := by
      rw [Nat.div_eq_of_lt h, Nat.mod_eq_of_lt h, Nat.zero_mul, List.drop_zero, hl, List.take_left' (by simp)]
    simp only [scanRun, List.length_cons, List.range_succ_eq_map, List.map_cons, List.map_map, Function.comp_def,
      Nat.add_zero, first, Nat.succ_eq_add_one]
    split
    · next e =>
      have len : cur.length + 1 = listLen c := by simpa using e
      rw [ih [] (by simp; omega)]
      have tail (j n : Nat) (hn : n = listLen c * (j + 1)) : (cur ++ x :: xs).drop n = xs.drop (listLen c * j) := by
        rw [hn, hl, Nat.mul_add, Nat.mul_one, Nat.add_comm, ← List.drop_drop, ← e, List.drop_left]
      have hd : (cur ++ x :: xs).length / listLen c = xs.length / listLen c + 1 := by
        rw [← Nat.add_div_right _ (by omega)]
        congr 1
        simp only [List.length_append, List.length_cons]; omega
      rw [hd, tail _ _ rfl]
      simp only [List.nil_append, List.length_nil, Nat.zero_add, Prod.mk.injEq, true_and, List.cons.injEq]
      refine List.map_congr_left fun k _ => ?_
      have q : (cur.length + (k + 1)) / listLen c = k / listLen c + 1 := by
        rw [← Nat.add_div_right _ (by omega)]; congr 1; omega
      have r : (cur.length + (k + 1)) % listLen c = k % listLen c := by
        rw [show cur.length + (k + 1) = k + listLen c by omega, Nat.add_mod_right]
      rw [q, r, tail (k / listLen c) _ (Nat.mul_comm _ _), Nat.mul_comm (k / listLen c)]
    · next e =>
      rw [ih (cur ++ [x]) (by simp at e ⊢; omega)]
      simp only [hl, List.length_append, List.length_cons, List.length_nil, Nat.zero_add, Prod.mk.injEq, true_and,
        List.cons.injEq]
      refine List.map_congr_left fun k _ => ?_
      rw [show cur.length + 1 + k = cur.length + (k + 1) by omega]

end Sys2Proof.Machine
end

