-- ==== Sys2Proof/Laws/Events.lean ====
section
/-! SUPPORT. What an event answers: the state it leaves where it happens, and the state as it is where it does not. -/

namespace Sys2Proof.Machine

/-- An event that happens answers the state it leaves. -/
theorem happens_some {f : State → Option State} {s t : State} (h : f s = some t) : happens f s = .next t := by
  simp [happens, h]

/-- An event that does not happen changes nothing. -/
theorem happens_none {f : State → Option State} {s : State} (h : f s = none) : happens f s = .next s := by
  simp [happens, h]

/-- A command of the ring that is done leaves its state, with HEAD past it. -/
theorem ringCommand_done {body : State → Ring} {s t : State} (r : s.host.ringReady = true) (h : body s = .done t) :
    ringCommand body s = some { t with host := t.host.ringNext } := by
  simp [ringCommand, r, h]

end Sys2Proof.Machine
end

