-- ==== Sys2Proof/Laws/Store.lean ====
section
/-! SUPPORT. The laws of `SMap`: read after write, and that every operation keeps the canonical form. A write of a value
other than the default reads back in any map; a write of the default reads back in a map in canonical form. -/

namespace Sys2Proof.Machine

variable {α : Type} [Inhabited α] [DecidableEq α]

/-- Keys above a bound are not the bound: an unlisted key reads as the default. -/
theorem SMap.get_of_above {m : SMap α} {k j : Nat} (h : SMap.above j m = true) (w : SMap.wf m = true) (hk : k ≤ j) :
    SMap.get m k = default := by
  induction m generalizing j with
  | nil => rfl
  | cons p m ih =>
    obtain ⟨i, v⟩ := p
    simp only [SMap.above, decide_eq_true_eq] at h
    simp only [SMap.wf, Bool.and_eq_true] at w
    simp only [SMap.get]
    rw [if_neg (by omega)]
    exact ih w.1.1 w.2 (by omega)

/-- A write leaves every other key as it was. -/
theorem SMap.get_set_ne (m : SMap α) {k j : Nat} (v : α) (h : j ≠ k) : SMap.get (SMap.set m k v) j = SMap.get m j := by
  induction m with
  | nil =>
    simp only [SMap.set]
    split
    · rfl
    · simp [SMap.get, h.symm]
  | cons p m ih =>
    obtain ⟨i, w⟩ := p
    simp only [SMap.set]
    split
    · split
      · rfl
      · simp [SMap.get, h.symm]
    · split
      · next e =>
        subst e
        split <;> simp [SMap.get, h.symm]
      · simp only [SMap.get]
        split
        · rfl
        · exact ih

/-- A value other than the default reads back. -/
theorem SMap.get_set_of_ne_default (m : SMap α) (k : Nat) {v : α} (h : v ≠ default) : SMap.get (SMap.set m k v) k = v := by
  induction m with
  | nil => simp [SMap.set, h, SMap.get]
  | cons p m ih =>
    obtain ⟨i, w⟩ := p
    simp only [SMap.set, if_neg h]
    split
    · simp [SMap.get]
    · split
      · simp [SMap.get]
      · next h1 h2 => simp only [SMap.get]; rw [if_neg (fun e => h2 e.symm)]; exact ih

/-- In a map in canonical form every value reads back. -/
theorem SMap.get_set_same {m : SMap α} (w : SMap.wf m = true) (k : Nat) (v : α) : SMap.get (SMap.set m k v) k = v := by
  by_cases hv : v = default
  · subst hv
    induction m with
    | nil => simp [SMap.set, SMap.get]
    | cons p m ih =>
      obtain ⟨i, x⟩ := p
      simp only [SMap.wf, Bool.and_eq_true] at w
      simp only [SMap.set, if_true]
      split
      · next h =>
        simp only [SMap.get]
        rw [if_neg (by omega)]
        exact SMap.get_of_above w.1.1 w.2 (by omega)
      · split
        · next e => subst e; exact SMap.get_of_above w.1.1 w.2 (le_refl _)
        · next h1 h2 => simp only [SMap.get]; rw [if_neg (fun e => h2 e.symm)]; exact ih w.2
  · exact SMap.get_set_of_ne_default m k hv

/-- A write puts nothing below a bound that is below the key. -/
theorem SMap.above_set {m : SMap α} {j k : Nat} (v : α) (h : SMap.above j m = true) (hk : j < k) (w : SMap.wf m = true) :
    SMap.above j (SMap.set m k v) = true := by
  cases m with
  | nil => simp only [SMap.set]; split <;> simp [SMap.above, hk]
  | cons p m =>
    obtain ⟨i, x⟩ := p
    simp only [SMap.above, decide_eq_true_eq] at h
    simp only [SMap.set]
    split
    · split <;> simp [SMap.above, h, hk]
    · split
      · split
        · cases m with
          | nil => rfl
          | cons q m =>
            obtain ⟨n, y⟩ := q
            simp only [SMap.wf, SMap.above, Bool.and_eq_true, decide_eq_true_eq] at w ⊢
            omega
        · simp [SMap.above, hk]
      · simp [SMap.above, h]

/-- A write keeps the canonical form. -/
theorem SMap.wf_set {m : SMap α} (w : SMap.wf m = true) (k : Nat) (v : α) : SMap.wf (SMap.set m k v) = true := by
  induction m with
  | nil => simp only [SMap.set]; split <;> simp [SMap.wf, SMap.above, *]
  | cons p m ih =>
    obtain ⟨i, x⟩ := p
    have w' := w
    simp only [SMap.wf, Bool.and_eq_true] at w'
    simp only [SMap.set]
    split
    · next h =>
      split
      · exact w
      · next hv =>
        rw [SMap.wf, Bool.and_eq_true, Bool.and_eq_true]
        exact ⟨⟨by simp [SMap.above, h], by simp [hv]⟩, w⟩
    · split
      · next e =>
        split
        · exact w'.2
        · next hv => subst e; simp [SMap.wf, hv, w'.1.1, w'.2]
      · next h1 h2 =>
        simp only [SMap.wf, Bool.and_eq_true]
        exact ⟨⟨SMap.above_set v w'.1.1 (by omega) w'.2, w'.1.2⟩, ih w'.2⟩

/-- An update keeps the canonical form. -/
theorem SMap.wf_upd {m : SMap α} (w : SMap.wf m = true) (k : Nat) (f : α → α) : SMap.wf (SMap.upd m k f) = true :=
  SMap.wf_set w k _

/-- Consecutive writes keep the canonical form. -/
theorem SMap.wf_setMany {m : SMap α} (w : SMap.wf m = true) (k : Nat) (vs : List α) :
    SMap.wf (SMap.setMany m k vs) = true := by
  induction vs generalizing m k with
  | nil => exact w
  | cons v vs ih => exact ih (SMap.wf_set w k v) (k + 1)

/-- Dropping entries puts nothing below a bound. -/
theorem SMap.above_filter {m : SMap α} {j : Nat} (p : Nat × α → Bool) (h : SMap.above j m = true) (w : SMap.wf m = true) :
    SMap.above j (m.filter p) = true := by
  induction m generalizing j with
  | nil => rfl
  | cons q m ih =>
    obtain ⟨i, x⟩ := q
    simp only [SMap.above, decide_eq_true_eq] at h
    simp only [SMap.wf, Bool.and_eq_true] at w
    by_cases hp : p (i, x) = true
    · simp [hp, SMap.above, h]
    · rw [List.filter_cons_of_neg hp]
      refine ih ?_ w.2
      cases m with
      | nil => rfl
      | cons r m =>
        have := w.1.1
        simp only [SMap.above, decide_eq_true_eq] at this ⊢
        omega

/-- Dropping entries keeps the canonical form. -/
theorem SMap.wf_filter {m : SMap α} (w : SMap.wf m = true) (p : Nat × α → Bool) : SMap.wf (m.filter p) = true := by
  induction m with
  | nil => rfl
  | cons q m ih =>
    obtain ⟨i, x⟩ := q
    have w' := w
    simp only [SMap.wf, Bool.and_eq_true] at w'
    by_cases hp : p (i, x) = true
    · rw [List.filter_cons_of_pos hp]
      simp only [SMap.wf, Bool.and_eq_true]
      exact ⟨⟨SMap.above_filter p w'.1.1 w'.2, w'.1.2⟩, ih w'.2⟩
    · rw [List.filter_cons_of_neg hp]
      exact ih w'.2

/-- Clearing a range keeps the canonical form. -/
theorem SMap.wf_clearRange {m : SMap α} (w : SMap.wf m = true) (lo hi : Nat) : SMap.wf (SMap.clearRange m lo hi) = true :=
  SMap.wf_filter w _

/-- Consecutive writes leave the keys outside their range as they were. -/
theorem SMap.get_setMany_outside (m : SMap α) (k j : Nat) (vs : List α) (h : j < k ∨ k + vs.length ≤ j) :
    SMap.get (SMap.setMany m k vs) j = SMap.get m j := by
  induction vs generalizing m k with
  | nil => rfl
  | cons v vs ih =>
    simp only [List.length_cons] at h
    simp only [SMap.setMany]
    rw [ih (SMap.set m k v) (k + 1) (by omega)]
    exact SMap.get_set_ne m v (by omega)

/-- In a map in canonical form each of consecutive writes reads back. -/
theorem SMap.get_setMany_inside {m : SMap α} (w : SMap.wf m = true) (k : Nat) (vs : List α) {n : Nat} (h : n < vs.length) :
    SMap.get (SMap.setMany m k vs) (k + n) = vs[n] := by
  induction vs generalizing m k n with
  | nil => simp at h
  | cons v vs ih =>
    simp only [SMap.setMany]
    cases n with
    | zero =>
      rw [SMap.get_setMany_outside _ _ _ _ (by omega)]
      simpa using SMap.get_set_same w k v
    | succ n =>
      have := ih (SMap.wf_set w k v) (k + 1) (n := n) (by simpa using h)
      simpa [Nat.add_assoc, Nat.add_comm 1 n] using this

/-- Appending two maps in canonical form whose keys are apart by a bound gives one. -/
theorem SMap.wf_append {m n : SMap α} {b : Nat} (hm : SMap.wf m = true) (hn : SMap.wf n = true)
    (lo : ∀ p ∈ m, p.1 < b) (hi : ∀ p ∈ n, b ≤ p.1) : SMap.wf (m ++ n) = true := by
  induction m with
  | nil => simpa using hn
  | cons q m ih =>
    obtain ⟨i, x⟩ := q
    simp only [SMap.wf, Bool.and_eq_true] at hm
    have r := ih hm.2 fun p hp => lo p (List.mem_cons_of_mem _ hp)
    have hi' : i < b := lo (i, x) List.mem_cons_self
    simp only [List.cons_append, SMap.wf, Bool.and_eq_true]
    refine ⟨⟨?_, hm.1.2⟩, r⟩
    cases m with
    | nil =>
      cases n with
      | nil => rfl
      | cons p n =>
        have := hi p List.mem_cons_self
        simp only [List.nil_append, SMap.above, decide_eq_true_eq]
        omega
    | cons p m => exact hm.1.1

/-- The listed entries of consecutive values are in canonical form, with keys in their range. -/
theorem SMap.wf_listed (vs : List α) (k : Nat) :
    SMap.wf ((vs.zipIdx k).filterMap fun p => if p.1 = default then none else some (p.2, p.1)) = true
      ∧ ∀ p ∈ (vs.zipIdx k).filterMap fun p => if p.1 = default then none else some (p.2, p.1),
        k ≤ p.1 ∧ p.1 < k + vs.length := by
  induction vs generalizing k with
  | nil => exact ⟨rfl, by simp⟩
  | cons v vs ih =>
    obtain ⟨w, b⟩ := ih (k + 1)
    by_cases hv : v = default
    · simp only [List.zipIdx_cons, List.filterMap_cons, hv, if_true, List.length_cons]
      exact ⟨w, fun p hp => by have := b p hp; omega⟩
    · simp only [List.zipIdx_cons, List.filterMap_cons, hv, if_false, List.length_cons]
      refine ⟨?_, fun p hp => ?_⟩
      · rw [SMap.wf, Bool.and_eq_true, Bool.and_eq_true]
        refine ⟨⟨?_, by simp [hv]⟩, w⟩
        cases e : (vs.zipIdx (k + 1)).filterMap fun p => if p.1 = default then none else some (p.2, p.1) with
        | nil => rfl
        | cons q l =>
          have := b q (by rw [e]; exact List.mem_cons_self)
          simp only [SMap.above, decide_eq_true_eq]
          omega
      · rcases List.mem_cons.1 hp with rfl | hp
        · simp
        · have := b p hp
          omega

/-- Writing consecutive values in one pass keeps the canonical form. -/
theorem SMap.wf_splice {m : SMap α} (w : SMap.wf m = true) (k : Nat) (vs : List α) : SMap.wf (SMap.splice m k vs) = true := by
  obtain ⟨lw, lb⟩ := SMap.wf_listed vs k
  refine SMap.wf_append (b := k + vs.length) (SMap.wf_append (b := k) (SMap.wf_filter w _) lw ?_ fun p hp => (lb p hp).1)
    (SMap.wf_filter w _) ?_ ?_
  · intro p hp
    simpa using (List.mem_filter.1 hp).2
  · intro p hp
    rcases List.mem_append.1 hp with h | h
    · have := (List.mem_filter.1 h).2
      simp only [decide_eq_true_eq] at this
      omega
    · exact (lb p h).2
  · intro p hp
    simpa using (List.mem_filter.1 hp).2

end Sys2Proof.Machine
end

