-- ==== Sys2Proof/Laws/State.lean ====
section
/-! SUPPORT. One lemma per field per update of the state: an update changes its own field and no other. -/

namespace Sys2Proof.Machine

variable (s : State)

/-! ### `setBytes` -/

@[simp] theorem State.setBytes_mem (l : Loc) (bs : List Byte) : (s.setBytes l bs).mem = SMap.setMany s.mem l.key bs := rfl
@[simp] theorem State.setBytes_poison (l : Loc) (bs : List Byte) : (s.setBytes l bs).poison = s.poison := rfl
@[simp] theorem State.setBytes_lineSlot (l : Loc) (bs : List Byte) : (s.setBytes l bs).lineSlot = s.lineSlot := rfl
@[simp] theorem State.setBytes_lineKey (l : Loc) (bs : List Byte) : (s.setBytes l bs).lineKey = s.lineKey := rfl
@[simp] theorem State.setBytes_threads (l : Loc) (bs : List Byte) : (s.setBytes l bs).threads = s.threads := rfl
@[simp] theorem State.setBytes_tiles (l : Loc) (bs : List Byte) : (s.setBytes l bs).tiles = s.tiles := rfl
@[simp] theorem State.setBytes_cores (l : Loc) (bs : List Byte) : (s.setBytes l bs).cores = s.cores := rfl
@[simp] theorem State.setBytes_groups (l : Loc) (bs : List Byte) : (s.setBytes l bs).groups = s.groups := rfl
@[simp] theorem State.setBytes_waves (l : Loc) (bs : List Byte) : (s.setBytes l bs).waves = s.waves := rfl
@[simp] theorem State.setBytes_nextWave (l : Loc) (bs : List Byte) : (s.setBytes l bs).nextWave = s.nextWave := rfl
@[simp] theorem State.setBytes_nextAge (l : Loc) (bs : List Byte) : (s.setBytes l bs).nextAge = s.nextAge := rfl
@[simp] theorem State.setBytes_nextPush (l : Loc) (bs : List Byte) : (s.setBytes l bs).nextPush = s.nextPush := rfl
@[simp] theorem State.setBytes_nextTag (l : Loc) (bs : List Byte) : (s.setBytes l bs).nextTag = s.nextTag := rfl
@[simp] theorem State.setBytes_nextPark (l : Loc) (bs : List Byte) : (s.setBytes l bs).nextPark = s.nextPark := rfl
@[simp] theorem State.setBytes_nextAtom (l : Loc) (bs : List Byte) : (s.setBytes l bs).nextAtom = s.nextAtom := rfl
@[simp] theorem State.setBytes_watched (l : Loc) (bs : List Byte) : (s.setBytes l bs).watched = s.watched := rfl
@[simp] theorem State.setBytes_direct (l : Loc) (bs : List Byte) : (s.setBytes l bs).direct = s.direct := rfl
@[simp] theorem State.setBytes_hostPark (l : Loc) (bs : List Byte) : (s.setBytes l bs).hostPark = s.hostPark := rfl
@[simp] theorem State.setBytes_frames (l : Loc) (bs : List Byte) : (s.setBytes l bs).frames = s.frames := rfl
@[simp] theorem State.setBytes_asids (l : Loc) (bs : List Byte) : (s.setBytes l bs).asids = s.asids := rfl
@[simp] theorem State.setBytes_records (l : Loc) (bs : List Byte) : (s.setBytes l bs).records = s.records := rfl
@[simp] theorem State.setBytes_faultq (l : Loc) (bs : List Byte) : (s.setBytes l bs).faultq = s.faultq := rfl
@[simp] theorem State.setBytes_parks (l : Loc) (bs : List Byte) : (s.setBytes l bs).parks = s.parks := rfl
@[simp] theorem State.setBytes_walks (l : Loc) (bs : List Byte) : (s.setBytes l bs).walks = s.walks := rfl
@[simp] theorem State.setBytes_tlbs (l : Loc) (bs : List Byte) : (s.setBytes l bs).tlbs = s.tlbs := rfl
@[simp] theorem State.setBytes_home (l : Loc) (bs : List Byte) : (s.setBytes l bs).home = s.home := rfl
@[simp] theorem State.setBytes_l1 (l : Loc) (bs : List Byte) : (s.setBytes l bs).l1 = s.l1 := rfl
@[simp] theorem State.setBytes_msgs (l : Loc) (bs : List Byte) : (s.setBytes l bs).msgs = s.msgs := rfl
@[simp] theorem State.setBytes_peerL2 (l : Loc) (bs : List Byte) : (s.setBytes l bs).peerL2 = s.peerL2 := rfl
@[simp] theorem State.setBytes_peerInv (l : Loc) (bs : List Byte) : (s.setBytes l bs).peerInv = s.peerInv := rfl
@[simp] theorem State.setBytes_answers (l : Loc) (bs : List Byte) : (s.setBytes l bs).answers = s.answers := rfl
@[simp] theorem State.setBytes_frozen (l : Loc) (bs : List Byte) : (s.setBytes l bs).frozen = s.frozen := rfl
@[simp] theorem State.setBytes_links (l : Loc) (bs : List Byte) : (s.setBytes l bs).links = s.links := rfl
@[simp] theorem State.setBytes_host (l : Loc) (bs : List Byte) : (s.setBytes l bs).host = s.host := rfl
@[simp] theorem State.setBytes_energy (l : Loc) (bs : List Byte) : (s.setBytes l bs).energy = s.energy := rfl
@[simp] theorem State.setBytes_keys (l : Loc) (bs : List Byte) : (s.setBytes l bs).keys = s.keys := rfl
@[simp] theorem State.setBytes_domain (l : Loc) (bs : List Byte) : (s.setBytes l bs).domain = s.domain := rfl
@[simp] theorem State.setBytes_spoolTaken (l : Loc) (bs : List Byte) : (s.setBytes l bs).spoolTaken = s.spoolTaken := rfl
@[simp] theorem State.setBytes_cycle (l : Loc) (bs : List Byte) : (s.setBytes l bs).cycle = s.cycle := rfl
@[simp] theorem State.setBytes_cur (l : Loc) (bs : List Byte) : (s.setBytes l bs).cur = s.cur := rfl
@[simp] theorem State.setBytes_inputs (l : Loc) (bs : List Byte) : (s.setBytes l bs).inputs = s.inputs := rfl
@[simp] theorem State.setBytes_queue (l : Loc) (bs : List Byte) : (s.setBytes l bs).queue = s.queue := rfl
@[simp] theorem State.setBytes_free (l : Loc) (bs : List Byte) : (s.setBytes l bs).free = s.free := rfl

/-! ### `setPoison` -/

@[simp] theorem State.setPoison_mem (l : Loc) (p : Bool) : (s.setPoison l p).mem = s.mem := rfl
@[simp] theorem State.setPoison_poison (l : Loc) (p : Bool) : (s.setPoison l p).poison = s.poison.set (l.key / 128) p := rfl
@[simp] theorem State.setPoison_lineSlot (l : Loc) (p : Bool) : (s.setPoison l p).lineSlot = s.lineSlot := rfl
@[simp] theorem State.setPoison_lineKey (l : Loc) (p : Bool) : (s.setPoison l p).lineKey = s.lineKey := rfl
@[simp] theorem State.setPoison_threads (l : Loc) (p : Bool) : (s.setPoison l p).threads = s.threads := rfl
@[simp] theorem State.setPoison_tiles (l : Loc) (p : Bool) : (s.setPoison l p).tiles = s.tiles := rfl
@[simp] theorem State.setPoison_cores (l : Loc) (p : Bool) : (s.setPoison l p).cores = s.cores := rfl
@[simp] theorem State.setPoison_groups (l : Loc) (p : Bool) : (s.setPoison l p).groups = s.groups := rfl
@[simp] theorem State.setPoison_waves (l : Loc) (p : Bool) : (s.setPoison l p).waves = s.waves := rfl
@[simp] theorem State.setPoison_nextWave (l : Loc) (p : Bool) : (s.setPoison l p).nextWave = s.nextWave := rfl
@[simp] theorem State.setPoison_nextAge (l : Loc) (p : Bool) : (s.setPoison l p).nextAge = s.nextAge := rfl
@[simp] theorem State.setPoison_nextPush (l : Loc) (p : Bool) : (s.setPoison l p).nextPush = s.nextPush := rfl
@[simp] theorem State.setPoison_nextTag (l : Loc) (p : Bool) : (s.setPoison l p).nextTag = s.nextTag := rfl
@[simp] theorem State.setPoison_nextPark (l : Loc) (p : Bool) : (s.setPoison l p).nextPark = s.nextPark := rfl
@[simp] theorem State.setPoison_nextAtom (l : Loc) (p : Bool) : (s.setPoison l p).nextAtom = s.nextAtom := rfl
@[simp] theorem State.setPoison_watched (l : Loc) (p : Bool) : (s.setPoison l p).watched = s.watched := rfl
@[simp] theorem State.setPoison_direct (l : Loc) (p : Bool) : (s.setPoison l p).direct = s.direct := rfl
@[simp] theorem State.setPoison_hostPark (l : Loc) (p : Bool) : (s.setPoison l p).hostPark = s.hostPark := rfl
@[simp] theorem State.setPoison_frames (l : Loc) (p : Bool) : (s.setPoison l p).frames = s.frames := rfl
@[simp] theorem State.setPoison_asids (l : Loc) (p : Bool) : (s.setPoison l p).asids = s.asids := rfl
@[simp] theorem State.setPoison_records (l : Loc) (p : Bool) : (s.setPoison l p).records = s.records := rfl
@[simp] theorem State.setPoison_faultq (l : Loc) (p : Bool) : (s.setPoison l p).faultq = s.faultq := rfl
@[simp] theorem State.setPoison_parks (l : Loc) (p : Bool) : (s.setPoison l p).parks = s.parks := rfl
@[simp] theorem State.setPoison_walks (l : Loc) (p : Bool) : (s.setPoison l p).walks = s.walks := rfl
@[simp] theorem State.setPoison_tlbs (l : Loc) (p : Bool) : (s.setPoison l p).tlbs = s.tlbs := rfl
@[simp] theorem State.setPoison_home (l : Loc) (p : Bool) : (s.setPoison l p).home = s.home := rfl
@[simp] theorem State.setPoison_l1 (l : Loc) (p : Bool) : (s.setPoison l p).l1 = s.l1 := rfl
@[simp] theorem State.setPoison_msgs (l : Loc) (p : Bool) : (s.setPoison l p).msgs = s.msgs := rfl
@[simp] theorem State.setPoison_peerL2 (l : Loc) (p : Bool) : (s.setPoison l p).peerL2 = s.peerL2 := rfl
@[simp] theorem State.setPoison_peerInv (l : Loc) (p : Bool) : (s.setPoison l p).peerInv = s.peerInv := rfl
@[simp] theorem State.setPoison_answers (l : Loc) (p : Bool) : (s.setPoison l p).answers = s.answers := rfl
@[simp] theorem State.setPoison_frozen (l : Loc) (p : Bool) : (s.setPoison l p).frozen = s.frozen := rfl
@[simp] theorem State.setPoison_links (l : Loc) (p : Bool) : (s.setPoison l p).links = s.links := rfl
@[simp] theorem State.setPoison_host (l : Loc) (p : Bool) : (s.setPoison l p).host = s.host := rfl
@[simp] theorem State.setPoison_energy (l : Loc) (p : Bool) : (s.setPoison l p).energy = s.energy := rfl
@[simp] theorem State.setPoison_keys (l : Loc) (p : Bool) : (s.setPoison l p).keys = s.keys := rfl
@[simp] theorem State.setPoison_domain (l : Loc) (p : Bool) : (s.setPoison l p).domain = s.domain := rfl
@[simp] theorem State.setPoison_spoolTaken (l : Loc) (p : Bool) : (s.setPoison l p).spoolTaken = s.spoolTaken := rfl
@[simp] theorem State.setPoison_cycle (l : Loc) (p : Bool) : (s.setPoison l p).cycle = s.cycle := rfl
@[simp] theorem State.setPoison_cur (l : Loc) (p : Bool) : (s.setPoison l p).cur = s.cur := rfl
@[simp] theorem State.setPoison_inputs (l : Loc) (p : Bool) : (s.setPoison l p).inputs = s.inputs := rfl
@[simp] theorem State.setPoison_queue (l : Loc) (p : Bool) : (s.setPoison l p).queue = s.queue := rfl
@[simp] theorem State.setPoison_free (l : Loc) (p : Bool) : (s.setPoison l p).free = s.free := rfl

/-! ### `setThread` -/

@[simp] theorem State.setThread_mem (n : Nat) (t : Thread) : (s.setThread n t).mem = s.mem := rfl
@[simp] theorem State.setThread_poison (n : Nat) (t : Thread) : (s.setThread n t).poison = s.poison := rfl
@[simp] theorem State.setThread_lineSlot (n : Nat) (t : Thread) : (s.setThread n t).lineSlot = s.lineSlot := rfl
@[simp] theorem State.setThread_lineKey (n : Nat) (t : Thread) : (s.setThread n t).lineKey = s.lineKey := rfl
@[simp] theorem State.setThread_threads (n : Nat) (t : Thread) : (s.setThread n t).threads = s.threads.set n t := rfl
@[simp] theorem State.setThread_tiles (n : Nat) (t : Thread) : (s.setThread n t).tiles = s.tiles := rfl
@[simp] theorem State.setThread_cores (n : Nat) (t : Thread) : (s.setThread n t).cores = s.cores := rfl
@[simp] theorem State.setThread_groups (n : Nat) (t : Thread) : (s.setThread n t).groups = s.groups := rfl
@[simp] theorem State.setThread_waves (n : Nat) (t : Thread) : (s.setThread n t).waves = s.waves := rfl
@[simp] theorem State.setThread_nextWave (n : Nat) (t : Thread) : (s.setThread n t).nextWave = s.nextWave := rfl
@[simp] theorem State.setThread_nextAge (n : Nat) (t : Thread) : (s.setThread n t).nextAge = s.nextAge := rfl
@[simp] theorem State.setThread_nextPush (n : Nat) (t : Thread) : (s.setThread n t).nextPush = s.nextPush := rfl
@[simp] theorem State.setThread_nextTag (n : Nat) (t : Thread) : (s.setThread n t).nextTag = s.nextTag := rfl
@[simp] theorem State.setThread_nextPark (n : Nat) (t : Thread) : (s.setThread n t).nextPark = s.nextPark := rfl
@[simp] theorem State.setThread_nextAtom (n : Nat) (t : Thread) : (s.setThread n t).nextAtom = s.nextAtom := rfl
@[simp] theorem State.setThread_watched (n : Nat) (t : Thread) : (s.setThread n t).watched = s.watched := rfl
@[simp] theorem State.setThread_direct (n : Nat) (t : Thread) : (s.setThread n t).direct = s.direct := rfl
@[simp] theorem State.setThread_hostPark (n : Nat) (t : Thread) : (s.setThread n t).hostPark = s.hostPark := rfl
@[simp] theorem State.setThread_frames (n : Nat) (t : Thread) : (s.setThread n t).frames = s.frames := rfl
@[simp] theorem State.setThread_asids (n : Nat) (t : Thread) : (s.setThread n t).asids = s.asids := rfl
@[simp] theorem State.setThread_records (n : Nat) (t : Thread) : (s.setThread n t).records = s.records := rfl
@[simp] theorem State.setThread_faultq (n : Nat) (t : Thread) : (s.setThread n t).faultq = s.faultq := rfl
@[simp] theorem State.setThread_parks (n : Nat) (t : Thread) : (s.setThread n t).parks = s.parks := rfl
@[simp] theorem State.setThread_walks (n : Nat) (t : Thread) : (s.setThread n t).walks = s.walks := rfl
@[simp] theorem State.setThread_tlbs (n : Nat) (t : Thread) : (s.setThread n t).tlbs = s.tlbs := rfl
@[simp] theorem State.setThread_home (n : Nat) (t : Thread) : (s.setThread n t).home = s.home := rfl
@[simp] theorem State.setThread_l1 (n : Nat) (t : Thread) : (s.setThread n t).l1 = s.l1 := rfl
@[simp] theorem State.setThread_msgs (n : Nat) (t : Thread) : (s.setThread n t).msgs = s.msgs := rfl
@[simp] theorem State.setThread_peerL2 (n : Nat) (t : Thread) : (s.setThread n t).peerL2 = s.peerL2 := rfl
@[simp] theorem State.setThread_peerInv (n : Nat) (t : Thread) : (s.setThread n t).peerInv = s.peerInv := rfl
@[simp] theorem State.setThread_answers (n : Nat) (t : Thread) : (s.setThread n t).answers = s.answers := rfl
@[simp] theorem State.setThread_frozen (n : Nat) (t : Thread) : (s.setThread n t).frozen = s.frozen := rfl
@[simp] theorem State.setThread_links (n : Nat) (t : Thread) : (s.setThread n t).links = s.links := rfl
@[simp] theorem State.setThread_host (n : Nat) (t : Thread) : (s.setThread n t).host = s.host := rfl
@[simp] theorem State.setThread_energy (n : Nat) (t : Thread) : (s.setThread n t).energy = s.energy := rfl
@[simp] theorem State.setThread_keys (n : Nat) (t : Thread) : (s.setThread n t).keys = s.keys := rfl
@[simp] theorem State.setThread_domain (n : Nat) (t : Thread) : (s.setThread n t).domain = s.domain := rfl
@[simp] theorem State.setThread_spoolTaken (n : Nat) (t : Thread) : (s.setThread n t).spoolTaken = s.spoolTaken := rfl
@[simp] theorem State.setThread_cycle (n : Nat) (t : Thread) : (s.setThread n t).cycle = s.cycle := rfl
@[simp] theorem State.setThread_cur (n : Nat) (t : Thread) : (s.setThread n t).cur = s.cur := rfl
@[simp] theorem State.setThread_inputs (n : Nat) (t : Thread) : (s.setThread n t).inputs = s.inputs := rfl
@[simp] theorem State.setThread_queue (n : Nat) (t : Thread) : (s.setThread n t).queue = s.queue := rfl
@[simp] theorem State.setThread_free (n : Nat) (t : Thread) : (s.setThread n t).free = s.free := rfl

/-! ### `setTile` -/

@[simp] theorem State.setTile_mem (n : Nat) (t : Tile) : (s.setTile n t).mem = s.mem := rfl
@[simp] theorem State.setTile_poison (n : Nat) (t : Tile) : (s.setTile n t).poison = s.poison := rfl
@[simp] theorem State.setTile_lineSlot (n : Nat) (t : Tile) : (s.setTile n t).lineSlot = s.lineSlot := rfl
@[simp] theorem State.setTile_lineKey (n : Nat) (t : Tile) : (s.setTile n t).lineKey = s.lineKey := rfl
@[simp] theorem State.setTile_threads (n : Nat) (t : Tile) : (s.setTile n t).threads = s.threads := rfl
@[simp] theorem State.setTile_tiles (n : Nat) (t : Tile) : (s.setTile n t).tiles = s.tiles.set n t := rfl
@[simp] theorem State.setTile_cores (n : Nat) (t : Tile) : (s.setTile n t).cores = s.cores := rfl
@[simp] theorem State.setTile_groups (n : Nat) (t : Tile) : (s.setTile n t).groups = s.groups := rfl
@[simp] theorem State.setTile_waves (n : Nat) (t : Tile) : (s.setTile n t).waves = s.waves := rfl
@[simp] theorem State.setTile_nextWave (n : Nat) (t : Tile) : (s.setTile n t).nextWave = s.nextWave := rfl
@[simp] theorem State.setTile_nextAge (n : Nat) (t : Tile) : (s.setTile n t).nextAge = s.nextAge := rfl
@[simp] theorem State.setTile_nextPush (n : Nat) (t : Tile) : (s.setTile n t).nextPush = s.nextPush := rfl
@[simp] theorem State.setTile_nextTag (n : Nat) (t : Tile) : (s.setTile n t).nextTag = s.nextTag := rfl
@[simp] theorem State.setTile_nextPark (n : Nat) (t : Tile) : (s.setTile n t).nextPark = s.nextPark := rfl
@[simp] theorem State.setTile_nextAtom (n : Nat) (t : Tile) : (s.setTile n t).nextAtom = s.nextAtom := rfl
@[simp] theorem State.setTile_watched (n : Nat) (t : Tile) : (s.setTile n t).watched = s.watched := rfl
@[simp] theorem State.setTile_direct (n : Nat) (t : Tile) : (s.setTile n t).direct = s.direct := rfl
@[simp] theorem State.setTile_hostPark (n : Nat) (t : Tile) : (s.setTile n t).hostPark = s.hostPark := rfl
@[simp] theorem State.setTile_frames (n : Nat) (t : Tile) : (s.setTile n t).frames = s.frames := rfl
@[simp] theorem State.setTile_asids (n : Nat) (t : Tile) : (s.setTile n t).asids = s.asids := rfl
@[simp] theorem State.setTile_records (n : Nat) (t : Tile) : (s.setTile n t).records = s.records := rfl
@[simp] theorem State.setTile_faultq (n : Nat) (t : Tile) : (s.setTile n t).faultq = s.faultq := rfl
@[simp] theorem State.setTile_parks (n : Nat) (t : Tile) : (s.setTile n t).parks = s.parks := rfl
@[simp] theorem State.setTile_walks (n : Nat) (t : Tile) : (s.setTile n t).walks = s.walks := rfl
@[simp] theorem State.setTile_tlbs (n : Nat) (t : Tile) : (s.setTile n t).tlbs = s.tlbs := rfl
@[simp] theorem State.setTile_home (n : Nat) (t : Tile) : (s.setTile n t).home = s.home := rfl
@[simp] theorem State.setTile_l1 (n : Nat) (t : Tile) : (s.setTile n t).l1 = s.l1 := rfl
@[simp] theorem State.setTile_msgs (n : Nat) (t : Tile) : (s.setTile n t).msgs = s.msgs := rfl
@[simp] theorem State.setTile_peerL2 (n : Nat) (t : Tile) : (s.setTile n t).peerL2 = s.peerL2 := rfl
@[simp] theorem State.setTile_peerInv (n : Nat) (t : Tile) : (s.setTile n t).peerInv = s.peerInv := rfl
@[simp] theorem State.setTile_answers (n : Nat) (t : Tile) : (s.setTile n t).answers = s.answers := rfl
@[simp] theorem State.setTile_frozen (n : Nat) (t : Tile) : (s.setTile n t).frozen = s.frozen := rfl
@[simp] theorem State.setTile_links (n : Nat) (t : Tile) : (s.setTile n t).links = s.links := rfl
@[simp] theorem State.setTile_host (n : Nat) (t : Tile) : (s.setTile n t).host = s.host := rfl
@[simp] theorem State.setTile_energy (n : Nat) (t : Tile) : (s.setTile n t).energy = s.energy := rfl
@[simp] theorem State.setTile_keys (n : Nat) (t : Tile) : (s.setTile n t).keys = s.keys := rfl
@[simp] theorem State.setTile_domain (n : Nat) (t : Tile) : (s.setTile n t).domain = s.domain := rfl
@[simp] theorem State.setTile_spoolTaken (n : Nat) (t : Tile) : (s.setTile n t).spoolTaken = s.spoolTaken := rfl
@[simp] theorem State.setTile_cycle (n : Nat) (t : Tile) : (s.setTile n t).cycle = s.cycle := rfl
@[simp] theorem State.setTile_cur (n : Nat) (t : Tile) : (s.setTile n t).cur = s.cur := rfl
@[simp] theorem State.setTile_inputs (n : Nat) (t : Tile) : (s.setTile n t).inputs = s.inputs := rfl
@[simp] theorem State.setTile_queue (n : Nat) (t : Tile) : (s.setTile n t).queue = s.queue := rfl
@[simp] theorem State.setTile_free (n : Nat) (t : Tile) : (s.setTile n t).free = s.free := rfl

/-! ### `setCore` -/

@[simp] theorem State.setCore_mem (n : Nat) (c : Core) : (s.setCore n c).mem = s.mem := rfl
@[simp] theorem State.setCore_poison (n : Nat) (c : Core) : (s.setCore n c).poison = s.poison := rfl
@[simp] theorem State.setCore_lineSlot (n : Nat) (c : Core) : (s.setCore n c).lineSlot = s.lineSlot := rfl
@[simp] theorem State.setCore_lineKey (n : Nat) (c : Core) : (s.setCore n c).lineKey = s.lineKey := rfl
@[simp] theorem State.setCore_threads (n : Nat) (c : Core) : (s.setCore n c).threads = s.threads := rfl
@[simp] theorem State.setCore_tiles (n : Nat) (c : Core) : (s.setCore n c).tiles = s.tiles := rfl
@[simp] theorem State.setCore_cores (n : Nat) (c : Core) : (s.setCore n c).cores = s.cores.set n c := rfl
@[simp] theorem State.setCore_groups (n : Nat) (c : Core) : (s.setCore n c).groups = s.groups := rfl
@[simp] theorem State.setCore_waves (n : Nat) (c : Core) : (s.setCore n c).waves = s.waves := rfl
@[simp] theorem State.setCore_nextWave (n : Nat) (c : Core) : (s.setCore n c).nextWave = s.nextWave := rfl
@[simp] theorem State.setCore_nextAge (n : Nat) (c : Core) : (s.setCore n c).nextAge = s.nextAge := rfl
@[simp] theorem State.setCore_nextPush (n : Nat) (c : Core) : (s.setCore n c).nextPush = s.nextPush := rfl
@[simp] theorem State.setCore_nextTag (n : Nat) (c : Core) : (s.setCore n c).nextTag = s.nextTag := rfl
@[simp] theorem State.setCore_nextPark (n : Nat) (c : Core) : (s.setCore n c).nextPark = s.nextPark := rfl
@[simp] theorem State.setCore_nextAtom (n : Nat) (c : Core) : (s.setCore n c).nextAtom = s.nextAtom := rfl
@[simp] theorem State.setCore_watched (n : Nat) (c : Core) : (s.setCore n c).watched = s.watched := rfl
@[simp] theorem State.setCore_direct (n : Nat) (c : Core) : (s.setCore n c).direct = s.direct := rfl
@[simp] theorem State.setCore_hostPark (n : Nat) (c : Core) : (s.setCore n c).hostPark = s.hostPark := rfl
@[simp] theorem State.setCore_frames (n : Nat) (c : Core) : (s.setCore n c).frames = s.frames := rfl
@[simp] theorem State.setCore_asids (n : Nat) (c : Core) : (s.setCore n c).asids = s.asids := rfl
@[simp] theorem State.setCore_records (n : Nat) (c : Core) : (s.setCore n c).records = s.records := rfl
@[simp] theorem State.setCore_faultq (n : Nat) (c : Core) : (s.setCore n c).faultq = s.faultq := rfl
@[simp] theorem State.setCore_parks (n : Nat) (c : Core) : (s.setCore n c).parks = s.parks := rfl
@[simp] theorem State.setCore_walks (n : Nat) (c : Core) : (s.setCore n c).walks = s.walks := rfl
@[simp] theorem State.setCore_tlbs (n : Nat) (c : Core) : (s.setCore n c).tlbs = s.tlbs := rfl
@[simp] theorem State.setCore_home (n : Nat) (c : Core) : (s.setCore n c).home = s.home := rfl
@[simp] theorem State.setCore_l1 (n : Nat) (c : Core) : (s.setCore n c).l1 = s.l1 := rfl
@[simp] theorem State.setCore_msgs (n : Nat) (c : Core) : (s.setCore n c).msgs = s.msgs := rfl
@[simp] theorem State.setCore_peerL2 (n : Nat) (c : Core) : (s.setCore n c).peerL2 = s.peerL2 := rfl
@[simp] theorem State.setCore_peerInv (n : Nat) (c : Core) : (s.setCore n c).peerInv = s.peerInv := rfl
@[simp] theorem State.setCore_answers (n : Nat) (c : Core) : (s.setCore n c).answers = s.answers := rfl
@[simp] theorem State.setCore_frozen (n : Nat) (c : Core) : (s.setCore n c).frozen = s.frozen := rfl
@[simp] theorem State.setCore_links (n : Nat) (c : Core) : (s.setCore n c).links = s.links := rfl
@[simp] theorem State.setCore_host (n : Nat) (c : Core) : (s.setCore n c).host = s.host := rfl
@[simp] theorem State.setCore_energy (n : Nat) (c : Core) : (s.setCore n c).energy = s.energy := rfl
@[simp] theorem State.setCore_keys (n : Nat) (c : Core) : (s.setCore n c).keys = s.keys := rfl
@[simp] theorem State.setCore_domain (n : Nat) (c : Core) : (s.setCore n c).domain = s.domain := rfl
@[simp] theorem State.setCore_spoolTaken (n : Nat) (c : Core) : (s.setCore n c).spoolTaken = s.spoolTaken := rfl
@[simp] theorem State.setCore_cycle (n : Nat) (c : Core) : (s.setCore n c).cycle = s.cycle := rfl
@[simp] theorem State.setCore_cur (n : Nat) (c : Core) : (s.setCore n c).cur = s.cur := rfl
@[simp] theorem State.setCore_inputs (n : Nat) (c : Core) : (s.setCore n c).inputs = s.inputs := rfl
@[simp] theorem State.setCore_queue (n : Nat) (c : Core) : (s.setCore n c).queue = s.queue := rfl
@[simp] theorem State.setCore_free (n : Nat) (c : Core) : (s.setCore n c).free = s.free := rfl

/-! ### `setGroup` -/

@[simp] theorem State.setGroup_mem (n : Nat) (g : Group) : (s.setGroup n g).mem = s.mem := rfl
@[simp] theorem State.setGroup_poison (n : Nat) (g : Group) : (s.setGroup n g).poison = s.poison := rfl
@[simp] theorem State.setGroup_lineSlot (n : Nat) (g : Group) : (s.setGroup n g).lineSlot = s.lineSlot := rfl
@[simp] theorem State.setGroup_lineKey (n : Nat) (g : Group) : (s.setGroup n g).lineKey = s.lineKey := rfl
@[simp] theorem State.setGroup_threads (n : Nat) (g : Group) : (s.setGroup n g).threads = s.threads := rfl
@[simp] theorem State.setGroup_tiles (n : Nat) (g : Group) : (s.setGroup n g).tiles = s.tiles := rfl
@[simp] theorem State.setGroup_cores (n : Nat) (g : Group) : (s.setGroup n g).cores = s.cores := rfl
@[simp] theorem State.setGroup_groups (n : Nat) (g : Group) : (s.setGroup n g).groups = s.groups.set n g := rfl
@[simp] theorem State.setGroup_waves (n : Nat) (g : Group) : (s.setGroup n g).waves = s.waves := rfl
@[simp] theorem State.setGroup_nextWave (n : Nat) (g : Group) : (s.setGroup n g).nextWave = s.nextWave := rfl
@[simp] theorem State.setGroup_nextAge (n : Nat) (g : Group) : (s.setGroup n g).nextAge = s.nextAge := rfl
@[simp] theorem State.setGroup_nextPush (n : Nat) (g : Group) : (s.setGroup n g).nextPush = s.nextPush := rfl
@[simp] theorem State.setGroup_nextTag (n : Nat) (g : Group) : (s.setGroup n g).nextTag = s.nextTag := rfl
@[simp] theorem State.setGroup_nextPark (n : Nat) (g : Group) : (s.setGroup n g).nextPark = s.nextPark := rfl
@[simp] theorem State.setGroup_nextAtom (n : Nat) (g : Group) : (s.setGroup n g).nextAtom = s.nextAtom := rfl
@[simp] theorem State.setGroup_watched (n : Nat) (g : Group) : (s.setGroup n g).watched = s.watched := rfl
@[simp] theorem State.setGroup_direct (n : Nat) (g : Group) : (s.setGroup n g).direct = s.direct := rfl
@[simp] theorem State.setGroup_hostPark (n : Nat) (g : Group) : (s.setGroup n g).hostPark = s.hostPark := rfl
@[simp] theorem State.setGroup_frames (n : Nat) (g : Group) : (s.setGroup n g).frames = s.frames := rfl
@[simp] theorem State.setGroup_asids (n : Nat) (g : Group) : (s.setGroup n g).asids = s.asids := rfl
@[simp] theorem State.setGroup_records (n : Nat) (g : Group) : (s.setGroup n g).records = s.records := rfl
@[simp] theorem State.setGroup_faultq (n : Nat) (g : Group) : (s.setGroup n g).faultq = s.faultq := rfl
@[simp] theorem State.setGroup_parks (n : Nat) (g : Group) : (s.setGroup n g).parks = s.parks := rfl
@[simp] theorem State.setGroup_walks (n : Nat) (g : Group) : (s.setGroup n g).walks = s.walks := rfl
@[simp] theorem State.setGroup_tlbs (n : Nat) (g : Group) : (s.setGroup n g).tlbs = s.tlbs := rfl
@[simp] theorem State.setGroup_home (n : Nat) (g : Group) : (s.setGroup n g).home = s.home := rfl
@[simp] theorem State.setGroup_l1 (n : Nat) (g : Group) : (s.setGroup n g).l1 = s.l1 := rfl
@[simp] theorem State.setGroup_msgs (n : Nat) (g : Group) : (s.setGroup n g).msgs = s.msgs := rfl
@[simp] theorem State.setGroup_peerL2 (n : Nat) (g : Group) : (s.setGroup n g).peerL2 = s.peerL2 := rfl
@[simp] theorem State.setGroup_peerInv (n : Nat) (g : Group) : (s.setGroup n g).peerInv = s.peerInv := rfl
@[simp] theorem State.setGroup_answers (n : Nat) (g : Group) : (s.setGroup n g).answers = s.answers := rfl
@[simp] theorem State.setGroup_frozen (n : Nat) (g : Group) : (s.setGroup n g).frozen = s.frozen := rfl
@[simp] theorem State.setGroup_links (n : Nat) (g : Group) : (s.setGroup n g).links = s.links := rfl
@[simp] theorem State.setGroup_host (n : Nat) (g : Group) : (s.setGroup n g).host = s.host := rfl
@[simp] theorem State.setGroup_energy (n : Nat) (g : Group) : (s.setGroup n g).energy = s.energy := rfl
@[simp] theorem State.setGroup_keys (n : Nat) (g : Group) : (s.setGroup n g).keys = s.keys := rfl
@[simp] theorem State.setGroup_domain (n : Nat) (g : Group) : (s.setGroup n g).domain = s.domain := rfl
@[simp] theorem State.setGroup_spoolTaken (n : Nat) (g : Group) : (s.setGroup n g).spoolTaken = s.spoolTaken := rfl
@[simp] theorem State.setGroup_cycle (n : Nat) (g : Group) : (s.setGroup n g).cycle = s.cycle := rfl
@[simp] theorem State.setGroup_cur (n : Nat) (g : Group) : (s.setGroup n g).cur = s.cur := rfl
@[simp] theorem State.setGroup_inputs (n : Nat) (g : Group) : (s.setGroup n g).inputs = s.inputs := rfl
@[simp] theorem State.setGroup_queue (n : Nat) (g : Group) : (s.setGroup n g).queue = s.queue := rfl
@[simp] theorem State.setGroup_free (n : Nat) (g : Group) : (s.setGroup n g).free = s.free := rfl

/-! ### `setWave` -/

@[simp] theorem State.setWave_mem (n : Nat) (w : Wave) : (s.setWave n w).mem = s.mem := rfl
@[simp] theorem State.setWave_poison (n : Nat) (w : Wave) : (s.setWave n w).poison = s.poison := rfl
@[simp] theorem State.setWave_lineSlot (n : Nat) (w : Wave) : (s.setWave n w).lineSlot = s.lineSlot := rfl
@[simp] theorem State.setWave_lineKey (n : Nat) (w : Wave) : (s.setWave n w).lineKey = s.lineKey := rfl
@[simp] theorem State.setWave_threads (n : Nat) (w : Wave) : (s.setWave n w).threads = s.threads := rfl
@[simp] theorem State.setWave_tiles (n : Nat) (w : Wave) : (s.setWave n w).tiles = s.tiles := rfl
@[simp] theorem State.setWave_cores (n : Nat) (w : Wave) : (s.setWave n w).cores = s.cores := rfl
@[simp] theorem State.setWave_groups (n : Nat) (w : Wave) : (s.setWave n w).groups = s.groups := rfl
@[simp] theorem State.setWave_waves (n : Nat) (w : Wave) : (s.setWave n w).waves = s.waves.set n w := rfl
@[simp] theorem State.setWave_nextWave (n : Nat) (w : Wave) : (s.setWave n w).nextWave = s.nextWave := rfl
@[simp] theorem State.setWave_nextAge (n : Nat) (w : Wave) : (s.setWave n w).nextAge = s.nextAge := rfl
@[simp] theorem State.setWave_nextPush (n : Nat) (w : Wave) : (s.setWave n w).nextPush = s.nextPush := rfl
@[simp] theorem State.setWave_nextTag (n : Nat) (w : Wave) : (s.setWave n w).nextTag = s.nextTag := rfl
@[simp] theorem State.setWave_nextPark (n : Nat) (w : Wave) : (s.setWave n w).nextPark = s.nextPark := rfl
@[simp] theorem State.setWave_nextAtom (n : Nat) (w : Wave) : (s.setWave n w).nextAtom = s.nextAtom := rfl
@[simp] theorem State.setWave_watched (n : Nat) (w : Wave) : (s.setWave n w).watched = s.watched := rfl
@[simp] theorem State.setWave_direct (n : Nat) (w : Wave) : (s.setWave n w).direct = s.direct := rfl
@[simp] theorem State.setWave_hostPark (n : Nat) (w : Wave) : (s.setWave n w).hostPark = s.hostPark := rfl
@[simp] theorem State.setWave_frames (n : Nat) (w : Wave) : (s.setWave n w).frames = s.frames := rfl
@[simp] theorem State.setWave_asids (n : Nat) (w : Wave) : (s.setWave n w).asids = s.asids := rfl
@[simp] theorem State.setWave_records (n : Nat) (w : Wave) : (s.setWave n w).records = s.records := rfl
@[simp] theorem State.setWave_faultq (n : Nat) (w : Wave) : (s.setWave n w).faultq = s.faultq := rfl
@[simp] theorem State.setWave_parks (n : Nat) (w : Wave) : (s.setWave n w).parks = s.parks := rfl
@[simp] theorem State.setWave_walks (n : Nat) (w : Wave) : (s.setWave n w).walks = s.walks := rfl
@[simp] theorem State.setWave_tlbs (n : Nat) (w : Wave) : (s.setWave n w).tlbs = s.tlbs := rfl
@[simp] theorem State.setWave_home (n : Nat) (w : Wave) : (s.setWave n w).home = s.home := rfl
@[simp] theorem State.setWave_l1 (n : Nat) (w : Wave) : (s.setWave n w).l1 = s.l1 := rfl
@[simp] theorem State.setWave_msgs (n : Nat) (w : Wave) : (s.setWave n w).msgs = s.msgs := rfl
@[simp] theorem State.setWave_peerL2 (n : Nat) (w : Wave) : (s.setWave n w).peerL2 = s.peerL2 := rfl
@[simp] theorem State.setWave_peerInv (n : Nat) (w : Wave) : (s.setWave n w).peerInv = s.peerInv := rfl
@[simp] theorem State.setWave_answers (n : Nat) (w : Wave) : (s.setWave n w).answers = s.answers := rfl
@[simp] theorem State.setWave_frozen (n : Nat) (w : Wave) : (s.setWave n w).frozen = s.frozen := rfl
@[simp] theorem State.setWave_links (n : Nat) (w : Wave) : (s.setWave n w).links = s.links := rfl
@[simp] theorem State.setWave_host (n : Nat) (w : Wave) : (s.setWave n w).host = s.host := rfl
@[simp] theorem State.setWave_energy (n : Nat) (w : Wave) : (s.setWave n w).energy = s.energy := rfl
@[simp] theorem State.setWave_keys (n : Nat) (w : Wave) : (s.setWave n w).keys = s.keys := rfl
@[simp] theorem State.setWave_domain (n : Nat) (w : Wave) : (s.setWave n w).domain = s.domain := rfl
@[simp] theorem State.setWave_spoolTaken (n : Nat) (w : Wave) : (s.setWave n w).spoolTaken = s.spoolTaken := rfl
@[simp] theorem State.setWave_cycle (n : Nat) (w : Wave) : (s.setWave n w).cycle = s.cycle := rfl
@[simp] theorem State.setWave_cur (n : Nat) (w : Wave) : (s.setWave n w).cur = s.cur := rfl
@[simp] theorem State.setWave_inputs (n : Nat) (w : Wave) : (s.setWave n w).inputs = s.inputs := rfl
@[simp] theorem State.setWave_queue (n : Nat) (w : Wave) : (s.setWave n w).queue = s.queue := rfl
@[simp] theorem State.setWave_free (n : Nat) (w : Wave) : (s.setWave n w).free = s.free := rfl

/-! ### `setEngine` -/

@[simp] theorem State.setEngine_mem (n e : Nat) (g : Engine) : (s.setEngine n e g).mem = s.mem := rfl
@[simp] theorem State.setEngine_poison (n e : Nat) (g : Engine) : (s.setEngine n e g).poison = s.poison := rfl
@[simp] theorem State.setEngine_lineSlot (n e : Nat) (g : Engine) : (s.setEngine n e g).lineSlot = s.lineSlot := rfl
@[simp] theorem State.setEngine_lineKey (n e : Nat) (g : Engine) : (s.setEngine n e g).lineKey = s.lineKey := rfl
@[simp] theorem State.setEngine_threads (n e : Nat) (g : Engine) : (s.setEngine n e g).threads = s.threads := rfl
@[simp] theorem State.setEngine_tiles (n e : Nat) (g : Engine) : (s.setEngine n e g).tiles = s.tiles.set n ((s.tile n).setEngine e g) := rfl
@[simp] theorem State.setEngine_cores (n e : Nat) (g : Engine) : (s.setEngine n e g).cores = s.cores := rfl
@[simp] theorem State.setEngine_groups (n e : Nat) (g : Engine) : (s.setEngine n e g).groups = s.groups := rfl
@[simp] theorem State.setEngine_waves (n e : Nat) (g : Engine) : (s.setEngine n e g).waves = s.waves := rfl
@[simp] theorem State.setEngine_nextWave (n e : Nat) (g : Engine) : (s.setEngine n e g).nextWave = s.nextWave := rfl
@[simp] theorem State.setEngine_nextAge (n e : Nat) (g : Engine) : (s.setEngine n e g).nextAge = s.nextAge := rfl
@[simp] theorem State.setEngine_nextPush (n e : Nat) (g : Engine) : (s.setEngine n e g).nextPush = s.nextPush := rfl
@[simp] theorem State.setEngine_nextTag (n e : Nat) (g : Engine) : (s.setEngine n e g).nextTag = s.nextTag := rfl
@[simp] theorem State.setEngine_nextPark (n e : Nat) (g : Engine) : (s.setEngine n e g).nextPark = s.nextPark := rfl
@[simp] theorem State.setEngine_nextAtom (n e : Nat) (g : Engine) : (s.setEngine n e g).nextAtom = s.nextAtom := rfl
@[simp] theorem State.setEngine_watched (n e : Nat) (g : Engine) : (s.setEngine n e g).watched = s.watched := rfl
@[simp] theorem State.setEngine_direct (n e : Nat) (g : Engine) : (s.setEngine n e g).direct = s.direct := rfl
@[simp] theorem State.setEngine_hostPark (n e : Nat) (g : Engine) : (s.setEngine n e g).hostPark = s.hostPark := rfl
@[simp] theorem State.setEngine_frames (n e : Nat) (g : Engine) : (s.setEngine n e g).frames = s.frames := rfl
@[simp] theorem State.setEngine_asids (n e : Nat) (g : Engine) : (s.setEngine n e g).asids = s.asids := rfl
@[simp] theorem State.setEngine_records (n e : Nat) (g : Engine) : (s.setEngine n e g).records = s.records := rfl
@[simp] theorem State.setEngine_faultq (n e : Nat) (g : Engine) : (s.setEngine n e g).faultq = s.faultq := rfl
@[simp] theorem State.setEngine_parks (n e : Nat) (g : Engine) : (s.setEngine n e g).parks = s.parks := rfl
@[simp] theorem State.setEngine_walks (n e : Nat) (g : Engine) : (s.setEngine n e g).walks = s.walks := rfl
@[simp] theorem State.setEngine_tlbs (n e : Nat) (g : Engine) : (s.setEngine n e g).tlbs = s.tlbs := rfl
@[simp] theorem State.setEngine_home (n e : Nat) (g : Engine) : (s.setEngine n e g).home = s.home := rfl
@[simp] theorem State.setEngine_l1 (n e : Nat) (g : Engine) : (s.setEngine n e g).l1 = s.l1 := rfl
@[simp] theorem State.setEngine_msgs (n e : Nat) (g : Engine) : (s.setEngine n e g).msgs = s.msgs := rfl
@[simp] theorem State.setEngine_peerL2 (n e : Nat) (g : Engine) : (s.setEngine n e g).peerL2 = s.peerL2 := rfl
@[simp] theorem State.setEngine_peerInv (n e : Nat) (g : Engine) : (s.setEngine n e g).peerInv = s.peerInv := rfl
@[simp] theorem State.setEngine_answers (n e : Nat) (g : Engine) : (s.setEngine n e g).answers = s.answers := rfl
@[simp] theorem State.setEngine_frozen (n e : Nat) (g : Engine) : (s.setEngine n e g).frozen = s.frozen := rfl
@[simp] theorem State.setEngine_links (n e : Nat) (g : Engine) : (s.setEngine n e g).links = s.links := rfl
@[simp] theorem State.setEngine_host (n e : Nat) (g : Engine) : (s.setEngine n e g).host = s.host := rfl
@[simp] theorem State.setEngine_energy (n e : Nat) (g : Engine) : (s.setEngine n e g).energy = s.energy := rfl
@[simp] theorem State.setEngine_keys (n e : Nat) (g : Engine) : (s.setEngine n e g).keys = s.keys := rfl
@[simp] theorem State.setEngine_domain (n e : Nat) (g : Engine) : (s.setEngine n e g).domain = s.domain := rfl
@[simp] theorem State.setEngine_spoolTaken (n e : Nat) (g : Engine) : (s.setEngine n e g).spoolTaken = s.spoolTaken := rfl
@[simp] theorem State.setEngine_cycle (n e : Nat) (g : Engine) : (s.setEngine n e g).cycle = s.cycle := rfl
@[simp] theorem State.setEngine_cur (n e : Nat) (g : Engine) : (s.setEngine n e g).cur = s.cur := rfl
@[simp] theorem State.setEngine_inputs (n e : Nat) (g : Engine) : (s.setEngine n e g).inputs = s.inputs := rfl
@[simp] theorem State.setEngine_queue (n e : Nat) (g : Engine) : (s.setEngine n e g).queue = s.queue := rfl
@[simp] theorem State.setEngine_free (n e : Nat) (g : Engine) : (s.setEngine n e g).free = s.free := rfl

/-! ### `setHome` -/

@[simp] theorem State.setHome_mem (n : Nat) (h : HomeLine) : (s.setHome n h).mem = s.mem := rfl
@[simp] theorem State.setHome_poison (n : Nat) (h : HomeLine) : (s.setHome n h).poison = s.poison := rfl
@[simp] theorem State.setHome_lineSlot (n : Nat) (h : HomeLine) : (s.setHome n h).lineSlot = s.lineSlot := rfl
@[simp] theorem State.setHome_lineKey (n : Nat) (h : HomeLine) : (s.setHome n h).lineKey = s.lineKey := rfl
@[simp] theorem State.setHome_threads (n : Nat) (h : HomeLine) : (s.setHome n h).threads = s.threads := rfl
@[simp] theorem State.setHome_tiles (n : Nat) (h : HomeLine) : (s.setHome n h).tiles = s.tiles := rfl
@[simp] theorem State.setHome_cores (n : Nat) (h : HomeLine) : (s.setHome n h).cores = s.cores := rfl
@[simp] theorem State.setHome_groups (n : Nat) (h : HomeLine) : (s.setHome n h).groups = s.groups := rfl
@[simp] theorem State.setHome_waves (n : Nat) (h : HomeLine) : (s.setHome n h).waves = s.waves := rfl
@[simp] theorem State.setHome_nextWave (n : Nat) (h : HomeLine) : (s.setHome n h).nextWave = s.nextWave := rfl
@[simp] theorem State.setHome_nextAge (n : Nat) (h : HomeLine) : (s.setHome n h).nextAge = s.nextAge := rfl
@[simp] theorem State.setHome_nextPush (n : Nat) (h : HomeLine) : (s.setHome n h).nextPush = s.nextPush := rfl
@[simp] theorem State.setHome_nextTag (n : Nat) (h : HomeLine) : (s.setHome n h).nextTag = s.nextTag := rfl
@[simp] theorem State.setHome_nextPark (n : Nat) (h : HomeLine) : (s.setHome n h).nextPark = s.nextPark := rfl
@[simp] theorem State.setHome_nextAtom (n : Nat) (h : HomeLine) : (s.setHome n h).nextAtom = s.nextAtom := rfl
@[simp] theorem State.setHome_watched (n : Nat) (h : HomeLine) : (s.setHome n h).watched = s.watched := rfl
@[simp] theorem State.setHome_direct (n : Nat) (h : HomeLine) : (s.setHome n h).direct = s.direct := rfl
@[simp] theorem State.setHome_hostPark (n : Nat) (h : HomeLine) : (s.setHome n h).hostPark = s.hostPark := rfl
@[simp] theorem State.setHome_frames (n : Nat) (h : HomeLine) : (s.setHome n h).frames = s.frames := rfl
@[simp] theorem State.setHome_asids (n : Nat) (h : HomeLine) : (s.setHome n h).asids = s.asids := rfl
@[simp] theorem State.setHome_records (n : Nat) (h : HomeLine) : (s.setHome n h).records = s.records := rfl
@[simp] theorem State.setHome_faultq (n : Nat) (h : HomeLine) : (s.setHome n h).faultq = s.faultq := rfl
@[simp] theorem State.setHome_parks (n : Nat) (h : HomeLine) : (s.setHome n h).parks = s.parks := rfl
@[simp] theorem State.setHome_walks (n : Nat) (h : HomeLine) : (s.setHome n h).walks = s.walks := rfl
@[simp] theorem State.setHome_tlbs (n : Nat) (h : HomeLine) : (s.setHome n h).tlbs = s.tlbs := rfl
@[simp] theorem State.setHome_home (n : Nat) (h : HomeLine) : (s.setHome n h).home = s.home.set n h := rfl
@[simp] theorem State.setHome_l1 (n : Nat) (h : HomeLine) : (s.setHome n h).l1 = s.l1 := rfl
@[simp] theorem State.setHome_msgs (n : Nat) (h : HomeLine) : (s.setHome n h).msgs = s.msgs := rfl
@[simp] theorem State.setHome_peerL2 (n : Nat) (h : HomeLine) : (s.setHome n h).peerL2 = s.peerL2 := rfl
@[simp] theorem State.setHome_peerInv (n : Nat) (h : HomeLine) : (s.setHome n h).peerInv = s.peerInv := rfl
@[simp] theorem State.setHome_answers (n : Nat) (h : HomeLine) : (s.setHome n h).answers = s.answers := rfl
@[simp] theorem State.setHome_frozen (n : Nat) (h : HomeLine) : (s.setHome n h).frozen = s.frozen := rfl
@[simp] theorem State.setHome_links (n : Nat) (h : HomeLine) : (s.setHome n h).links = s.links := rfl
@[simp] theorem State.setHome_host (n : Nat) (h : HomeLine) : (s.setHome n h).host = s.host := rfl
@[simp] theorem State.setHome_energy (n : Nat) (h : HomeLine) : (s.setHome n h).energy = s.energy := rfl
@[simp] theorem State.setHome_keys (n : Nat) (h : HomeLine) : (s.setHome n h).keys = s.keys := rfl
@[simp] theorem State.setHome_domain (n : Nat) (h : HomeLine) : (s.setHome n h).domain = s.domain := rfl
@[simp] theorem State.setHome_spoolTaken (n : Nat) (h : HomeLine) : (s.setHome n h).spoolTaken = s.spoolTaken := rfl
@[simp] theorem State.setHome_cycle (n : Nat) (h : HomeLine) : (s.setHome n h).cycle = s.cycle := rfl
@[simp] theorem State.setHome_cur (n : Nat) (h : HomeLine) : (s.setHome n h).cur = s.cur := rfl
@[simp] theorem State.setHome_inputs (n : Nat) (h : HomeLine) : (s.setHome n h).inputs = s.inputs := rfl
@[simp] theorem State.setHome_queue (n : Nat) (h : HomeLine) : (s.setHome n h).queue = s.queue := rfl
@[simp] theorem State.setHome_free (n : Nat) (h : HomeLine) : (s.setHome n h).free = s.free := rfl

/-! ### `setHost` -/

@[simp] theorem State.setHost_mem (f : HostRegs → HostRegs) : (s.setHost f).mem = s.mem := rfl
@[simp] theorem State.setHost_poison (f : HostRegs → HostRegs) : (s.setHost f).poison = s.poison := rfl
@[simp] theorem State.setHost_lineSlot (f : HostRegs → HostRegs) : (s.setHost f).lineSlot = s.lineSlot := rfl
@[simp] theorem State.setHost_lineKey (f : HostRegs → HostRegs) : (s.setHost f).lineKey = s.lineKey := rfl
@[simp] theorem State.setHost_threads (f : HostRegs → HostRegs) : (s.setHost f).threads = s.threads := rfl
@[simp] theorem State.setHost_tiles (f : HostRegs → HostRegs) : (s.setHost f).tiles = s.tiles := rfl
@[simp] theorem State.setHost_cores (f : HostRegs → HostRegs) : (s.setHost f).cores = s.cores := rfl
@[simp] theorem State.setHost_groups (f : HostRegs → HostRegs) : (s.setHost f).groups = s.groups := rfl
@[simp] theorem State.setHost_waves (f : HostRegs → HostRegs) : (s.setHost f).waves = s.waves := rfl
@[simp] theorem State.setHost_nextWave (f : HostRegs → HostRegs) : (s.setHost f).nextWave = s.nextWave := rfl
@[simp] theorem State.setHost_nextAge (f : HostRegs → HostRegs) : (s.setHost f).nextAge = s.nextAge := rfl
@[simp] theorem State.setHost_nextPush (f : HostRegs → HostRegs) : (s.setHost f).nextPush = s.nextPush := rfl
@[simp] theorem State.setHost_nextTag (f : HostRegs → HostRegs) : (s.setHost f).nextTag = s.nextTag := rfl
@[simp] theorem State.setHost_nextPark (f : HostRegs → HostRegs) : (s.setHost f).nextPark = s.nextPark := rfl
@[simp] theorem State.setHost_nextAtom (f : HostRegs → HostRegs) : (s.setHost f).nextAtom = s.nextAtom := rfl
@[simp] theorem State.setHost_watched (f : HostRegs → HostRegs) : (s.setHost f).watched = s.watched := rfl
@[simp] theorem State.setHost_direct (f : HostRegs → HostRegs) : (s.setHost f).direct = s.direct := rfl
@[simp] theorem State.setHost_hostPark (f : HostRegs → HostRegs) : (s.setHost f).hostPark = s.hostPark := rfl
@[simp] theorem State.setHost_frames (f : HostRegs → HostRegs) : (s.setHost f).frames = s.frames := rfl
@[simp] theorem State.setHost_asids (f : HostRegs → HostRegs) : (s.setHost f).asids = s.asids := rfl
@[simp] theorem State.setHost_records (f : HostRegs → HostRegs) : (s.setHost f).records = s.records := rfl
@[simp] theorem State.setHost_faultq (f : HostRegs → HostRegs) : (s.setHost f).faultq = s.faultq := rfl
@[simp] theorem State.setHost_parks (f : HostRegs → HostRegs) : (s.setHost f).parks = s.parks := rfl
@[simp] theorem State.setHost_walks (f : HostRegs → HostRegs) : (s.setHost f).walks = s.walks := rfl
@[simp] theorem State.setHost_tlbs (f : HostRegs → HostRegs) : (s.setHost f).tlbs = s.tlbs := rfl
@[simp] theorem State.setHost_home (f : HostRegs → HostRegs) : (s.setHost f).home = s.home := rfl
@[simp] theorem State.setHost_l1 (f : HostRegs → HostRegs) : (s.setHost f).l1 = s.l1 := rfl
@[simp] theorem State.setHost_msgs (f : HostRegs → HostRegs) : (s.setHost f).msgs = s.msgs := rfl
@[simp] theorem State.setHost_peerL2 (f : HostRegs → HostRegs) : (s.setHost f).peerL2 = s.peerL2 := rfl
@[simp] theorem State.setHost_peerInv (f : HostRegs → HostRegs) : (s.setHost f).peerInv = s.peerInv := rfl
@[simp] theorem State.setHost_answers (f : HostRegs → HostRegs) : (s.setHost f).answers = s.answers := rfl
@[simp] theorem State.setHost_frozen (f : HostRegs → HostRegs) : (s.setHost f).frozen = s.frozen := rfl
@[simp] theorem State.setHost_links (f : HostRegs → HostRegs) : (s.setHost f).links = s.links := rfl
@[simp] theorem State.setHost_host (f : HostRegs → HostRegs) : (s.setHost f).host = f s.host := rfl
@[simp] theorem State.setHost_energy (f : HostRegs → HostRegs) : (s.setHost f).energy = s.energy := rfl
@[simp] theorem State.setHost_keys (f : HostRegs → HostRegs) : (s.setHost f).keys = s.keys := rfl
@[simp] theorem State.setHost_domain (f : HostRegs → HostRegs) : (s.setHost f).domain = s.domain := rfl
@[simp] theorem State.setHost_spoolTaken (f : HostRegs → HostRegs) : (s.setHost f).spoolTaken = s.spoolTaken := rfl
@[simp] theorem State.setHost_cycle (f : HostRegs → HostRegs) : (s.setHost f).cycle = s.cycle := rfl
@[simp] theorem State.setHost_cur (f : HostRegs → HostRegs) : (s.setHost f).cur = s.cur := rfl
@[simp] theorem State.setHost_inputs (f : HostRegs → HostRegs) : (s.setHost f).inputs = s.inputs := rfl
@[simp] theorem State.setHost_queue (f : HostRegs → HostRegs) : (s.setHost f).queue = s.queue := rfl
@[simp] theorem State.setHost_free (f : HostRegs → HostRegs) : (s.setHost f).free = s.free := rfl

/-! ### `setLink` -/

@[simp] theorem State.setLink_mem (n : Nat) (f : Link → Link) : (s.setLink n f).mem = s.mem := rfl
@[simp] theorem State.setLink_poison (n : Nat) (f : Link → Link) : (s.setLink n f).poison = s.poison := rfl
@[simp] theorem State.setLink_lineSlot (n : Nat) (f : Link → Link) : (s.setLink n f).lineSlot = s.lineSlot := rfl
@[simp] theorem State.setLink_lineKey (n : Nat) (f : Link → Link) : (s.setLink n f).lineKey = s.lineKey := rfl
@[simp] theorem State.setLink_threads (n : Nat) (f : Link → Link) : (s.setLink n f).threads = s.threads := rfl
@[simp] theorem State.setLink_tiles (n : Nat) (f : Link → Link) : (s.setLink n f).tiles = s.tiles := rfl
@[simp] theorem State.setLink_cores (n : Nat) (f : Link → Link) : (s.setLink n f).cores = s.cores := rfl
@[simp] theorem State.setLink_groups (n : Nat) (f : Link → Link) : (s.setLink n f).groups = s.groups := rfl
@[simp] theorem State.setLink_waves (n : Nat) (f : Link → Link) : (s.setLink n f).waves = s.waves := rfl
@[simp] theorem State.setLink_nextWave (n : Nat) (f : Link → Link) : (s.setLink n f).nextWave = s.nextWave := rfl
@[simp] theorem State.setLink_nextAge (n : Nat) (f : Link → Link) : (s.setLink n f).nextAge = s.nextAge := rfl
@[simp] theorem State.setLink_nextPush (n : Nat) (f : Link → Link) : (s.setLink n f).nextPush = s.nextPush := rfl
@[simp] theorem State.setLink_nextTag (n : Nat) (f : Link → Link) : (s.setLink n f).nextTag = s.nextTag := rfl
@[simp] theorem State.setLink_nextPark (n : Nat) (f : Link → Link) : (s.setLink n f).nextPark = s.nextPark := rfl
@[simp] theorem State.setLink_nextAtom (n : Nat) (f : Link → Link) : (s.setLink n f).nextAtom = s.nextAtom := rfl
@[simp] theorem State.setLink_watched (n : Nat) (f : Link → Link) : (s.setLink n f).watched = s.watched := rfl
@[simp] theorem State.setLink_direct (n : Nat) (f : Link → Link) : (s.setLink n f).direct = s.direct := rfl
@[simp] theorem State.setLink_hostPark (n : Nat) (f : Link → Link) : (s.setLink n f).hostPark = s.hostPark := rfl
@[simp] theorem State.setLink_frames (n : Nat) (f : Link → Link) : (s.setLink n f).frames = s.frames := rfl
@[simp] theorem State.setLink_asids (n : Nat) (f : Link → Link) : (s.setLink n f).asids = s.asids := rfl
@[simp] theorem State.setLink_records (n : Nat) (f : Link → Link) : (s.setLink n f).records = s.records := rfl
@[simp] theorem State.setLink_faultq (n : Nat) (f : Link → Link) : (s.setLink n f).faultq = s.faultq := rfl
@[simp] theorem State.setLink_parks (n : Nat) (f : Link → Link) : (s.setLink n f).parks = s.parks := rfl
@[simp] theorem State.setLink_walks (n : Nat) (f : Link → Link) : (s.setLink n f).walks = s.walks := rfl
@[simp] theorem State.setLink_tlbs (n : Nat) (f : Link → Link) : (s.setLink n f).tlbs = s.tlbs := rfl
@[simp] theorem State.setLink_home (n : Nat) (f : Link → Link) : (s.setLink n f).home = s.home := rfl
@[simp] theorem State.setLink_l1 (n : Nat) (f : Link → Link) : (s.setLink n f).l1 = s.l1 := rfl
@[simp] theorem State.setLink_msgs (n : Nat) (f : Link → Link) : (s.setLink n f).msgs = s.msgs := rfl
@[simp] theorem State.setLink_peerL2 (n : Nat) (f : Link → Link) : (s.setLink n f).peerL2 = s.peerL2 := rfl
@[simp] theorem State.setLink_peerInv (n : Nat) (f : Link → Link) : (s.setLink n f).peerInv = s.peerInv := rfl
@[simp] theorem State.setLink_answers (n : Nat) (f : Link → Link) : (s.setLink n f).answers = s.answers := rfl
@[simp] theorem State.setLink_frozen (n : Nat) (f : Link → Link) : (s.setLink n f).frozen = s.frozen := rfl
@[simp] theorem State.setLink_links (n : Nat) (f : Link → Link) : (s.setLink n f).links = s.links.upd n f := rfl
@[simp] theorem State.setLink_host (n : Nat) (f : Link → Link) : (s.setLink n f).host = s.host := rfl
@[simp] theorem State.setLink_energy (n : Nat) (f : Link → Link) : (s.setLink n f).energy = s.energy := rfl
@[simp] theorem State.setLink_keys (n : Nat) (f : Link → Link) : (s.setLink n f).keys = s.keys := rfl
@[simp] theorem State.setLink_domain (n : Nat) (f : Link → Link) : (s.setLink n f).domain = s.domain := rfl
@[simp] theorem State.setLink_spoolTaken (n : Nat) (f : Link → Link) : (s.setLink n f).spoolTaken = s.spoolTaken := rfl
@[simp] theorem State.setLink_cycle (n : Nat) (f : Link → Link) : (s.setLink n f).cycle = s.cycle := rfl
@[simp] theorem State.setLink_cur (n : Nat) (f : Link → Link) : (s.setLink n f).cur = s.cur := rfl
@[simp] theorem State.setLink_inputs (n : Nat) (f : Link → Link) : (s.setLink n f).inputs = s.inputs := rfl
@[simp] theorem State.setLink_queue (n : Nat) (f : Link → Link) : (s.setLink n f).queue = s.queue := rfl
@[simp] theorem State.setLink_free (n : Nat) (f : Link → Link) : (s.setLink n f).free = s.free := rfl

/-! ### `setEnergy` -/

@[simp] theorem State.setEnergy_mem (f : Energy → Energy) : (s.setEnergy f).mem = s.mem := rfl
@[simp] theorem State.setEnergy_poison (f : Energy → Energy) : (s.setEnergy f).poison = s.poison := rfl
@[simp] theorem State.setEnergy_lineSlot (f : Energy → Energy) : (s.setEnergy f).lineSlot = s.lineSlot := rfl
@[simp] theorem State.setEnergy_lineKey (f : Energy → Energy) : (s.setEnergy f).lineKey = s.lineKey := rfl
@[simp] theorem State.setEnergy_threads (f : Energy → Energy) : (s.setEnergy f).threads = s.threads := rfl
@[simp] theorem State.setEnergy_tiles (f : Energy → Energy) : (s.setEnergy f).tiles = s.tiles := rfl
@[simp] theorem State.setEnergy_cores (f : Energy → Energy) : (s.setEnergy f).cores = s.cores := rfl
@[simp] theorem State.setEnergy_groups (f : Energy → Energy) : (s.setEnergy f).groups = s.groups := rfl
@[simp] theorem State.setEnergy_waves (f : Energy → Energy) : (s.setEnergy f).waves = s.waves := rfl
@[simp] theorem State.setEnergy_nextWave (f : Energy → Energy) : (s.setEnergy f).nextWave = s.nextWave := rfl
@[simp] theorem State.setEnergy_nextAge (f : Energy → Energy) : (s.setEnergy f).nextAge = s.nextAge := rfl
@[simp] theorem State.setEnergy_nextPush (f : Energy → Energy) : (s.setEnergy f).nextPush = s.nextPush := rfl
@[simp] theorem State.setEnergy_nextTag (f : Energy → Energy) : (s.setEnergy f).nextTag = s.nextTag := rfl
@[simp] theorem State.setEnergy_nextPark (f : Energy → Energy) : (s.setEnergy f).nextPark = s.nextPark := rfl
@[simp] theorem State.setEnergy_nextAtom (f : Energy → Energy) : (s.setEnergy f).nextAtom = s.nextAtom := rfl
@[simp] theorem State.setEnergy_watched (f : Energy → Energy) : (s.setEnergy f).watched = s.watched := rfl
@[simp] theorem State.setEnergy_direct (f : Energy → Energy) : (s.setEnergy f).direct = s.direct := rfl
@[simp] theorem State.setEnergy_hostPark (f : Energy → Energy) : (s.setEnergy f).hostPark = s.hostPark := rfl
@[simp] theorem State.setEnergy_frames (f : Energy → Energy) : (s.setEnergy f).frames = s.frames := rfl
@[simp] theorem State.setEnergy_asids (f : Energy → Energy) : (s.setEnergy f).asids = s.asids := rfl
@[simp] theorem State.setEnergy_records (f : Energy → Energy) : (s.setEnergy f).records = s.records := rfl
@[simp] theorem State.setEnergy_faultq (f : Energy → Energy) : (s.setEnergy f).faultq = s.faultq := rfl
@[simp] theorem State.setEnergy_parks (f : Energy → Energy) : (s.setEnergy f).parks = s.parks := rfl
@[simp] theorem State.setEnergy_walks (f : Energy → Energy) : (s.setEnergy f).walks = s.walks := rfl
@[simp] theorem State.setEnergy_tlbs (f : Energy → Energy) : (s.setEnergy f).tlbs = s.tlbs := rfl
@[simp] theorem State.setEnergy_home (f : Energy → Energy) : (s.setEnergy f).home = s.home := rfl
@[simp] theorem State.setEnergy_l1 (f : Energy → Energy) : (s.setEnergy f).l1 = s.l1 := rfl
@[simp] theorem State.setEnergy_msgs (f : Energy → Energy) : (s.setEnergy f).msgs = s.msgs := rfl
@[simp] theorem State.setEnergy_peerL2 (f : Energy → Energy) : (s.setEnergy f).peerL2 = s.peerL2 := rfl
@[simp] theorem State.setEnergy_peerInv (f : Energy → Energy) : (s.setEnergy f).peerInv = s.peerInv := rfl
@[simp] theorem State.setEnergy_answers (f : Energy → Energy) : (s.setEnergy f).answers = s.answers := rfl
@[simp] theorem State.setEnergy_frozen (f : Energy → Energy) : (s.setEnergy f).frozen = s.frozen := rfl
@[simp] theorem State.setEnergy_links (f : Energy → Energy) : (s.setEnergy f).links = s.links := rfl
@[simp] theorem State.setEnergy_host (f : Energy → Energy) : (s.setEnergy f).host = s.host := rfl
@[simp] theorem State.setEnergy_energy (f : Energy → Energy) : (s.setEnergy f).energy = f s.energy := rfl
@[simp] theorem State.setEnergy_keys (f : Energy → Energy) : (s.setEnergy f).keys = s.keys := rfl
@[simp] theorem State.setEnergy_domain (f : Energy → Energy) : (s.setEnergy f).domain = s.domain := rfl
@[simp] theorem State.setEnergy_spoolTaken (f : Energy → Energy) : (s.setEnergy f).spoolTaken = s.spoolTaken := rfl
@[simp] theorem State.setEnergy_cycle (f : Energy → Energy) : (s.setEnergy f).cycle = s.cycle := rfl
@[simp] theorem State.setEnergy_cur (f : Energy → Energy) : (s.setEnergy f).cur = s.cur := rfl
@[simp] theorem State.setEnergy_inputs (f : Energy → Energy) : (s.setEnergy f).inputs = s.inputs := rfl
@[simp] theorem State.setEnergy_queue (f : Energy → Energy) : (s.setEnergy f).queue = s.queue := rfl
@[simp] theorem State.setEnergy_free (f : Energy → Energy) : (s.setEnergy f).free = s.free := rfl

/-! ### Reading back -/

@[simp] theorem State.thread_setThread_ne {m n : Nat} (x : Thread) (h : m ≠ n) : (s.setThread n x).thread m = s.thread m :=
  SMap.get_set_ne _ x h
theorem State.thread_setThread_same {x : Thread} (n : Nat) (h : x ≠ default) : (s.setThread n x).thread n = x :=
  SMap.get_set_of_ne_default _ n h
theorem State.thread_setThread_same_of_wf {s : State} (h : SMap.wf s.threads = true) (n : Nat) (x : Thread) :
    (s.setThread n x).thread n = x := SMap.get_set_same h n x
@[simp] theorem State.tile_setTile_ne {m n : Nat} (x : Tile) (h : m ≠ n) : (s.setTile n x).tile m = s.tile m :=
  SMap.get_set_ne _ x h
theorem State.tile_setTile_same {x : Tile} (n : Nat) (h : x ≠ default) : (s.setTile n x).tile n = x :=
  SMap.get_set_of_ne_default _ n h
theorem State.tile_setTile_same_of_wf {s : State} (h : SMap.wf s.tiles = true) (n : Nat) (x : Tile) :
    (s.setTile n x).tile n = x := SMap.get_set_same h n x
@[simp] theorem State.core_setCore_ne {m n : Nat} (x : Core) (h : m ≠ n) : (s.setCore n x).core m = s.core m :=
  SMap.get_set_ne _ x h
theorem State.core_setCore_same {x : Core} (n : Nat) (h : x ≠ default) : (s.setCore n x).core n = x :=
  SMap.get_set_of_ne_default _ n h
theorem State.core_setCore_same_of_wf {s : State} (h : SMap.wf s.cores = true) (n : Nat) (x : Core) :
    (s.setCore n x).core n = x := SMap.get_set_same h n x
@[simp] theorem State.group_setGroup_ne {m n : Nat} (x : Group) (h : m ≠ n) : (s.setGroup n x).group m = s.group m :=
  SMap.get_set_ne _ x h
theorem State.group_setGroup_same {x : Group} (n : Nat) (h : x ≠ default) : (s.setGroup n x).group n = x :=
  SMap.get_set_of_ne_default _ n h
theorem State.group_setGroup_same_of_wf {s : State} (h : SMap.wf s.groups = true) (n : Nat) (x : Group) :
    (s.setGroup n x).group n = x := SMap.get_set_same h n x
@[simp] theorem State.wave_setWave_ne {m n : Nat} (x : Wave) (h : m ≠ n) : (s.setWave n x).wave m = s.wave m :=
  SMap.get_set_ne _ x h
theorem State.wave_setWave_same {x : Wave} (n : Nat) (h : x ≠ default) : (s.setWave n x).wave n = x :=
  SMap.get_set_of_ne_default _ n h
theorem State.wave_setWave_same_of_wf {s : State} (h : SMap.wf s.waves = true) (n : Nat) (x : Wave) :
    (s.setWave n x).wave n = x := SMap.get_set_same h n x
@[simp] theorem State.thread_setBytes (m : Nat) (l : Loc) (bs : List Byte) : (s.setBytes l bs).thread m = s.thread m := rfl
@[simp] theorem State.thread_setPoison (m : Nat) (l : Loc) (p : Bool) : (s.setPoison l p).thread m = s.thread m := rfl
@[simp] theorem State.thread_setTile (m : Nat) (k : Nat) (t : Tile) : (s.setTile k t).thread m = s.thread m := rfl
@[simp] theorem State.thread_setCore (m : Nat) (k : Nat) (c : Core) : (s.setCore k c).thread m = s.thread m := rfl
@[simp] theorem State.thread_setGroup (m : Nat) (k : Nat) (g : Group) : (s.setGroup k g).thread m = s.thread m := rfl
@[simp] theorem State.thread_setWave (m : Nat) (k : Nat) (w : Wave) : (s.setWave k w).thread m = s.thread m := rfl
@[simp] theorem State.thread_setEngine (m : Nat) (k e : Nat) (g : Engine) : (s.setEngine k e g).thread m = s.thread m := rfl
@[simp] theorem State.thread_setHome (m : Nat) (k : Nat) (h : HomeLine) : (s.setHome k h).thread m = s.thread m := rfl
@[simp] theorem State.thread_setHost (m : Nat) (f : HostRegs → HostRegs) : (s.setHost f).thread m = s.thread m := rfl
@[simp] theorem State.thread_setLink (m : Nat) (k : Nat) (f : Link → Link) : (s.setLink k f).thread m = s.thread m := rfl
@[simp] theorem State.thread_setEnergy (m : Nat) (f : Energy → Energy) : (s.setEnergy f).thread m = s.thread m := rfl
@[simp] theorem State.tile_setBytes (m : Nat) (l : Loc) (bs : List Byte) : (s.setBytes l bs).tile m = s.tile m := rfl
@[simp] theorem State.tile_setPoison (m : Nat) (l : Loc) (p : Bool) : (s.setPoison l p).tile m = s.tile m := rfl
@[simp] theorem State.tile_setThread (m : Nat) (k : Nat) (t : Thread) : (s.setThread k t).tile m = s.tile m := rfl
@[simp] theorem State.tile_setCore (m : Nat) (k : Nat) (c : Core) : (s.setCore k c).tile m = s.tile m := rfl
@[simp] theorem State.tile_setGroup (m : Nat) (k : Nat) (g : Group) : (s.setGroup k g).tile m = s.tile m := rfl
@[simp] theorem State.tile_setWave (m : Nat) (k : Nat) (w : Wave) : (s.setWave k w).tile m = s.tile m := rfl
@[simp] theorem State.tile_setHome (m : Nat) (k : Nat) (h : HomeLine) : (s.setHome k h).tile m = s.tile m := rfl
@[simp] theorem State.tile_setHost (m : Nat) (f : HostRegs → HostRegs) : (s.setHost f).tile m = s.tile m := rfl
@[simp] theorem State.tile_setLink (m : Nat) (k : Nat) (f : Link → Link) : (s.setLink k f).tile m = s.tile m := rfl
@[simp] theorem State.tile_setEnergy (m : Nat) (f : Energy → Energy) : (s.setEnergy f).tile m = s.tile m := rfl
@[simp] theorem State.core_setBytes (m : Nat) (l : Loc) (bs : List Byte) : (s.setBytes l bs).core m = s.core m := rfl
@[simp] theorem State.core_setPoison (m : Nat) (l : Loc) (p : Bool) : (s.setPoison l p).core m = s.core m := rfl
@[simp] theorem State.core_setThread (m : Nat) (k : Nat) (t : Thread) : (s.setThread k t).core m = s.core m := rfl
@[simp] theorem State.core_setTile (m : Nat) (k : Nat) (t : Tile) : (s.setTile k t).core m = s.core m := rfl
@[simp] theorem State.core_setGroup (m : Nat) (k : Nat) (g : Group) : (s.setGroup k g).core m = s.core m := rfl
@[simp] theorem State.core_setWave (m : Nat) (k : Nat) (w : Wave) : (s.setWave k w).core m = s.core m := rfl
@[simp] theorem State.core_setEngine (m : Nat) (k e : Nat) (g : Engine) : (s.setEngine k e g).core m = s.core m := rfl
@[simp] theorem State.core_setHome (m : Nat) (k : Nat) (h : HomeLine) : (s.setHome k h).core m = s.core m := rfl
@[simp] theorem State.core_setHost (m : Nat) (f : HostRegs → HostRegs) : (s.setHost f).core m = s.core m := rfl
@[simp] theorem State.core_setLink (m : Nat) (k : Nat) (f : Link → Link) : (s.setLink k f).core m = s.core m := rfl
@[simp] theorem State.core_setEnergy (m : Nat) (f : Energy → Energy) : (s.setEnergy f).core m = s.core m := rfl
@[simp] theorem State.group_setBytes (m : Nat) (l : Loc) (bs : List Byte) : (s.setBytes l bs).group m = s.group m := rfl
@[simp] theorem State.group_setPoison (m : Nat) (l : Loc) (p : Bool) : (s.setPoison l p).group m = s.group m := rfl
@[simp] theorem State.group_setThread (m : Nat) (k : Nat) (t : Thread) : (s.setThread k t).group m = s.group m := rfl
@[simp] theorem State.group_setTile (m : Nat) (k : Nat) (t : Tile) : (s.setTile k t).group m = s.group m := rfl
@[simp] theorem State.group_setCore (m : Nat) (k : Nat) (c : Core) : (s.setCore k c).group m = s.group m := rfl
@[simp] theorem State.group_setWave (m : Nat) (k : Nat) (w : Wave) : (s.setWave k w).group m = s.group m := rfl
@[simp] theorem State.group_setEngine (m : Nat) (k e : Nat) (g : Engine) : (s.setEngine k e g).group m = s.group m := rfl
@[simp] theorem State.group_setHome (m : Nat) (k : Nat) (h : HomeLine) : (s.setHome k h).group m = s.group m := rfl
@[simp] theorem State.group_setHost (m : Nat) (f : HostRegs → HostRegs) : (s.setHost f).group m = s.group m := rfl
@[simp] theorem State.group_setLink (m : Nat) (k : Nat) (f : Link → Link) : (s.setLink k f).group m = s.group m := rfl
@[simp] theorem State.group_setEnergy (m : Nat) (f : Energy → Energy) : (s.setEnergy f).group m = s.group m := rfl
@[simp] theorem State.wave_setBytes (m : Nat) (l : Loc) (bs : List Byte) : (s.setBytes l bs).wave m = s.wave m := rfl
@[simp] theorem State.wave_setPoison (m : Nat) (l : Loc) (p : Bool) : (s.setPoison l p).wave m = s.wave m := rfl
@[simp] theorem State.wave_setThread (m : Nat) (k : Nat) (t : Thread) : (s.setThread k t).wave m = s.wave m := rfl
@[simp] theorem State.wave_setTile (m : Nat) (k : Nat) (t : Tile) : (s.setTile k t).wave m = s.wave m := rfl
@[simp] theorem State.wave_setCore (m : Nat) (k : Nat) (c : Core) : (s.setCore k c).wave m = s.wave m := rfl
@[simp] theorem State.wave_setGroup (m : Nat) (k : Nat) (g : Group) : (s.setGroup k g).wave m = s.wave m := rfl
@[simp] theorem State.wave_setEngine (m : Nat) (k e : Nat) (g : Engine) : (s.setEngine k e g).wave m = s.wave m := rfl
@[simp] theorem State.wave_setHome (m : Nat) (k : Nat) (h : HomeLine) : (s.setHome k h).wave m = s.wave m := rfl
@[simp] theorem State.wave_setHost (m : Nat) (f : HostRegs → HostRegs) : (s.setHost f).wave m = s.wave m := rfl
@[simp] theorem State.wave_setLink (m : Nat) (k : Nat) (f : Link → Link) : (s.setLink k f).wave m = s.wave m := rfl
@[simp] theorem State.wave_setEnergy (m : Nat) (f : Energy → Energy) : (s.setEnergy f).wave m = s.wave m := rfl

end Sys2Proof.Machine
end

