-- ==== Sys2Proof/Laws/Memory.lean ====
section
/-! SUPPORT. What the shared operations do to memory: coherence, monitors, marks, digests, halts and the counts of a thread
leave it alone; writes, key changes, reports and restores keep its canonical form. -/

namespace Sys2Proof.Machine

/-! ## Writes keep the canonical form -/

theorem Memory.write_wf {m : Memory} (h : m.wf = true) (k : Nat) (b : Byte) : (m.write k b).wf = true := SMap.wf_set h k b

theorem State.setBytes_wf {s : State} (h : s.mem.wf = true) (l : Loc) (bs : List Byte) : (s.setBytes l bs).mem.wf = true :=
  SMap.wf_setMany h _ _

theorem State.setNum_wf {s : State} (h : s.mem.wf = true) (l : Loc) (n x : Nat) : (s.setNum l n x).mem.wf = true :=
  State.setBytes_wf h l _

/-- Bytes outside a write read as before. -/
theorem State.byteAt_setBytes_outside (s : State) (l k : Loc) (bs : List Byte)
    (h : k.key < l.key ∨ l.key + bs.length ≤ k.key) : (s.setBytes l bs).byteAt k = s.byteAt k :=
  SMap.get_setMany_outside _ _ _ _ h

/-- Bytes of a write read back. -/
theorem State.byteAt_setBytes_inside {s : State} (w : s.mem.wf = true) (l k : Loc) (bs : List Byte) {n : Nat}
    (h : n < bs.length) (hk : k.key = l.key + n) : (s.setBytes l bs).byteAt k = bs[n] := by
  unfold State.byteAt Memory.read
  rw [hk]
  exact SMap.get_setMany_inside w _ _ h

/-- A line last transferred for the key slot and under the key in force changes nothing. -/
theorem State.rekey_of_same {s : State} {asid : Nat} {l : Loc}
    (h : l.space = .hbm → s.lineSlot.get (lineOf l.addr) = s.keySlotOf asid ∧
      s.lineKey.get (lineOf l.addr) = s.keyOf asid) : s.rekey asid l = s := by
  unfold State.rekey
  split
  · next e => dsimp only; rw [if_pos (by simpa [State.underKey] using h e)]
  · rfl

/-! ## Coherence leaves memory alone -/

@[simp] theorem State.setL1_mem (s : State) (u l : Nat) (st : Moesi) : (s.setL1 u l st).mem = s.mem := rfl
@[simp] theorem State.setL1_threads (s : State) (u l : Nat) (st : Moesi) : (s.setL1 u l st).threads = s.threads := rfl
@[simp] theorem State.send_mem (s : State) (m : Msg) : (s.send m).mem = s.mem := rfl
@[simp] theorem State.send_threads (s : State) (m : Msg) : (s.send m).threads = s.threads := rfl

/-- A fold keeps what each of its steps keeps. -/
theorem foldl_keeps {σ β γ : Type} (get : σ → γ) (f : σ → β → σ) (h : ∀ s b, get (f s b) = get s) (l : List β) (s : σ) :
    get (l.foldl f s) = get s := by
  induction l generalizing s with
  | nil => rfl
  | cons b l ih => rw [List.foldl_cons, ih, h]

@[simp] theorem State.triggerWhere_mem (s : State) (f : Nat → Monitor → Bool) : (s.triggerWhere f).mem = s.mem := rfl
@[simp] theorem State.leaveL1_mem (s : State) (u l : Nat) : (s.leaveL1 u l).mem = s.mem := rfl

@[simp] theorem State.recallFrom_mem (s : State) (l k : Nat) : (s.recallFrom l k).mem = s.mem := by
  unfold State.recallFrom
  refine foldl_keeps State.mem _ ?_ _ s
  intro s p
  split <;> rfl

@[simp] theorem State.evictFor_mem (s : State) (u l : Nat) : (s.evictFor u l).mem = s.mem := by
  unfold State.evictFor
  dsimp only
  split
  · rfl
  · split
    · rfl
    · split <;> rfl

@[simp] theorem State.invalidatePeers_mem (s : State) (l : Nat) (w : Writer) : (s.invalidatePeers l w).mem = s.mem := by
  unfold State.invalidatePeers
  dsimp only
  split <;> rfl

@[simp] theorem State.evictLine_mem (s : State) (l : Nat) : (s.evictLine l).mem = s.mem := by
  simp [State.evictLine]

@[simp] theorem State.dropPeer_mem (s : State) (k : Nat) : (s.dropPeer k).mem = s.mem := by
  unfold State.dropPeer
  split <;> rfl

@[simp] theorem State.l2MakeRoom_mem (s : State) (set : Nat × Nat) (line peer : Option Nat) :
    (s.l2MakeRoom set line peer).mem = s.mem := by
  unfold State.l2MakeRoom
  dsimp only
  split
  · rfl
  · split
    · simp
    · split <;> simp

@[simp] theorem State.l2Room_mem (s : State) (l : Nat) : (s.l2Room l).mem = s.mem := State.l2MakeRoom_mem s _ _ _

@[simp] theorem State.cohRead_mem (s : State) (u l : Nat) (n : Nat) : (s.cohRead u l n).mem = s.mem := by
  unfold State.cohRead
  dsimp only
  split
  · rfl
  · split <;> (try split)
    all_goals
      simp only [State.l2Room_mem, State.evictFor_mem, State.setHome_mem, State.setL1_mem]
      refine foldl_keeps State.mem _ ?_ _ s
      intro s p
      split <;> rfl

@[simp] theorem State.cohWrite_mem (s : State) (u l : Nat) (n : Nat) : (s.cohWrite u l n).mem = s.mem := by
  unfold State.cohWrite
  dsimp only
  split
  · rfl
  · split
    · rfl
    · split <;> simp

@[simp] theorem State.cohAtomic_mem (s : State) (l n : Nat) : (s.cohAtomic l n).mem = s.mem := State.cohWrite_mem s _ _ _

@[simp] theorem State.uncache_mem (s : State) (l : Nat) : (s.uncache l).mem = s.mem := by
  unfold State.uncache
  split <;> simp

@[simp] theorem State.takePeer_mem (s : State) (l : Loc) : (s.takePeer l).mem = s.mem := by
  unfold State.takePeer
  dsimp only
  split <;> simp

@[simp] theorem State.peerSent_mem (s : State) (w : Who) (l : Loc) : (s.peerSent w l).mem = s.mem := by
  unfold State.peerSent
  split <;> rfl

theorem State.rekey_wf {s : State} (h : s.mem.wf = true) (asid : Nat) (l : Loc) : (s.rekey asid l).mem.wf = true := by
  unfold State.rekey
  split
  · dsimp only
    split
    · exact h
    · have r : ((s.recallFrom (lineOf l.addr) 1000).invalidatePeers (lineOf l.addr) .other).mem.wf = true := by simpa using h
      split
      · exact SMap.wf_setMany r _ _
      · exact r
  · exact h

/-! ## Monitors, marks, digests -/

@[simp] theorem State.trigger_mem (s : State) (l : Loc) (n : Nat) : (s.trigger l n).mem = s.mem := rfl

@[simp] theorem State.setMark_mem (s : State) (w : Nat) : (s.setMark w).mem = s.mem := by
  unfold State.setMark
  split <;> rfl

@[simp] theorem State.fold_mem (s : State) (tid va v n : Nat) : (s.fold tid va v n).mem = s.mem := rfl

@[simp] theorem State.markFor_mem (s : State) (w : Who) (l : Loc) : (s.markFor w l).mem = s.mem := by
  unfold State.markFor
  split <;> simp

theorem State.performWrite_wf {s : State} (h : s.mem.wf = true) (w : Who) (l : Loc) (bs : List Byte) (n : Nat) :
    (s.performWrite w l bs n).mem.wf = true := by
  have r := State.rekey_wf h w.asid l
  unfold State.performWrite
  dsimp only
  have key : ∀ u : State, u.mem.wf = true →
      (if w.unit < 160 then ((u.setBytes l bs).trigger l bs.length).markFor w l
        else (u.setBytes l bs).trigger l bs.length).mem.wf = true := by
    intro u hu
    split
    · rw [State.markFor_mem]
      exact State.setBytes_wf hu l bs
    · exact State.setBytes_wf hu l bs
  refine key _ ?_
  split
  · simpa using r
  · simpa using r
  · exact r

theorem State.prepareRead_wf {s : State} (h : s.mem.wf = true) (w : Who) (l : Loc) (n : Nat) :
    (s.prepareRead w l n).mem.wf = true := by
  have r := State.rekey_wf h w.asid l
  unfold State.prepareRead
  dsimp only
  split
  · simpa using r
  · split
    · simpa using r
    · exact r
  · exact r

/-- A walk's reads keep the canonical form. -/
theorem State.walked_wf {s : State} (h : s.mem.wf = true) (asid va : Nat) : (s.walked asid va).mem.wf = true := by
  unfold State.walked
  generalize s.walkLocs asid va = ls
  induction ls generalizing s with
  | nil => exact h
  | cons l ls ih =>
    rw [List.foldl_cons]
    exact ih (by simpa using State.rekey_wf h _ l)

/-! ## Reports, halts and traps -/

theorem State.report_wf {s : State} (h : s.mem.wf = true) (r : Report) : (s.report r).mem.wf = true := by
  unfold State.report
  dsimp only
  split
  · exact State.setNum_wf (State.setNum_wf (State.setNum_wf (State.setNum_wf (State.setNum_wf h _ _ _) _ _ _) _ _ _) _ _ _)
      _ _ _
  · exact h

@[simp] theorem State.stopTile_mem (s : State) (tile : Nat) (k : StopKind) : (s.stopTile tile k).mem = s.mem := rfl

@[simp] theorem State.raiseEngine_mem (s : State) (tile e q c v : Nat) : (s.raiseEngine tile e q c v).mem = s.mem := rfl

@[simp] theorem State.haltGroup_mem (s : State) (gid : Nat) : (s.haltGroup gid).mem = s.mem := by
  unfold State.haltGroup
  refine foldl_keeps State.mem _ ?_ _ s
  intro s m
  rfl

theorem State.haltUnit_wf {s : State} (h : s.mem.wf = true) (tid cause epc : Nat) :
    (s.haltUnit tid cause epc).mem.wf = true := by
  unfold State.haltUnit State.haltReport
  dsimp only
  refine State.report_wf ?_ _
  rw [State.haltGroup_mem]
  split <;> simpa using h

theorem State.trap_wf {s : State} (h : s.mem.wf = true) (tid cause : Nat) (epc val : Word) :
    (s.trap tid cause epc val).mem.wf = true := by
  unfold State.trap
  dsimp only
  split
  · exact State.haltUnit_wf (s := s.setThread _ _) h _ _ _
  · split <;> exact h

/-- A trap at level U: the thread enters its handler, and a control core's tile stops (23 R381, R385). -/
theorem State.trap_user {s : State} {tid : Nat} (h : (s.thread tid).prv = false) (cause : Nat) (epc val : Word) :
    s.trap tid cause epc val =
      let u := s.setThread tid ((s.thread tid).enterTrap cause epc val)
      if isControl tid then u.stopTile (tileOf tid) (.trap 0 0 cause val.toNat) else u := by
  unfold State.trap
  simp [h]

theorem State.complete_wf {s : State} (h : s.mem.wf = true) (tid : Nat) (pc : Word) (user : Bool) :
    (s.complete tid pc user).mem.wf = true := by
  unfold State.complete
  dsimp only
  split
  · exact State.trap_wf (s := s.setThread _ _) h _ _ _ _
  · exact h

/-- Completion without single step: the thread goes on at the PC, with its count. -/
theorem State.complete_plain {s : State} {tid : Nat} {pc : Word} {user : Bool}
    (h : user = false ∨ (s.thread tid).step = false) :
    s.complete tid pc user = s.setThread tid { (s.thread tid).settle with
      pc := pc, completed := (s.thread tid).completed + 1, since := s.cycle } := by
  unfold State.complete
  dsimp only
  rw [if_neg]
  rintro ⟨rfl, h'⟩
  rcases h with h | h
  · exact absurd h (by decide)
  · simp [h] at h'

/-! ## Restoring and preparing a unit -/

theorem State.clearKeys_wf {s : State} (h : s.mem.wf = true) (lo hi : Nat) : (s.clearKeys lo hi).mem.wf = true :=
  SMap.wf_clearRange h lo hi

/-- Writing listed bytes, each at a key of its own, keeps the canonical form. -/
theorem Memory.foldl_write_wf {m : Memory} (h : m.wf = true) (k : Nat × Byte → Nat) (bs : List (Nat × Byte)) :
    (bs.foldl (fun (m : Memory) b => m.write (k b) b.2) m).wf = true := by
  induction bs generalizing m with
  | nil => exact h
  | cons b bs ih => exact ih (Memory.write_wf h _ _)

theorem State.restoreBytes_wf {s : State} (h : s.mem.wf = true) (unit off size : Nat) (g : SaveGroup) :
    (s.restoreBytes unit off size g).mem.wf = true := by
  unfold State.restoreBytes
  dsimp only
  refine Memory.foldl_write_wf ?_ _ _
  split
  · exact State.clearKeys_wf h _ _
  · exact State.clearKeys_wf (State.clearKeys_wf h _ _) _ _

/-- The machine at power-on has the canonical form. -/
theorem State.reset_mem_wf : State.reset.mem.wf = true := rfl

end Sys2Proof.Machine
end

