-- ==== Sys2Proof/Laws/PerInstr.lean ====
section
/-! SUPPORT. Statements about every instruction as syntax, one lemma per constructor: how many words an instruction has and
that each of them is a 32-bit word whose length selector says so (07 R114, R116). -/

namespace Sys2Proof.Laws.Encodes

/-- The words of an encoding, if it has any, are 32-bit numbers, as many as the selector of the first says. -/
def Fits (ws : List Nat) : Prop :=
  (∀ w ∈ ws, w < 2 ^ 32) ∧ ∀ w rest, ws = w :: rest → wordCount w = ws.length

/-- The encoding of an instruction is one word or two, each of 32 bits, as its first word's selector says; an event has
none. -/
def Statement (i : Instr) : Prop := Fits (encode i)

theorem fits_nil : Fits [] := ⟨by simp, by simp⟩

theorem fits_one {w : Nat} (h : w < 2 ^ 32) (hs : fSel w ≠ 1) : Fits [w] := by
  refine ⟨by simpa using h, ?_⟩
  intro w' rest e
  obtain ⟨rfl, -⟩ := List.cons.inj e
  simp [wordCount, hs]

theorem fits_two {w v : Nat} (h : w < 2 ^ 32) (hs : fSel w = 1) (hv : v < 2 ^ 32) : Fits [w, v] := by
  refine ⟨by simpa using ⟨h, hv⟩, ?_⟩
  intro w' rest e
  obtain ⟨rfl, -⟩ := List.cons.inj e
  simp [wordCount, hs]

theorem encG_bounds (g : Guard) : encG g ≤ 60 ∧ encG g % 4 = 0 := by
  obtain ⟨q, n⟩ := g
  cases n <;> simp [encG] <;> omega

/-- A word laid out as format A is 32 bits with the selector it was given. -/
theorem encA_bounds {sel maj min d a b : Nat} (g : Guard) (hs : sel < 4) (hm : maj < 64) (hi : min < 4) (hd : d < 64)
    (ha : a < 64) (hb : b < 64) : encA sel maj min g d a b < 2 ^ 32 ∧ fSel (encA sel maj min g d a b) = sel := by
  have := encG_bounds g
  unfold encA fSel
  omega

/-- A one-word format A encoding fits. -/
theorem fits_A {maj min d a b : Nat} (g : Guard) (hm : maj < 64) (hi : min < 4) (hd : d < 64) (ha : a < 64) (hb : b < 64) :
    Fits [encA 0 maj min g d a b] := by
  have h := encA_bounds (sel := 0) g (by decide) hm hi hd ha hb
  exact fits_one h.1 (by omega)

/-- A two-word format W encoding fits. -/
theorem fits_W {maj min d a b v : Nat} (g : Guard) (hm : maj < 64) (hi : min < 4) (hd : d < 64) (ha : a < 64) (hb : b < 64)
    (hv : v < 2 ^ 32) : Fits [encA 1 maj min g d a b, v] := by
  have h := encA_bounds (sel := 1) g (by decide) hm hi hd ha hb
  exact fits_two h.1 h.2 hv

/-- An offset-layout encoding fits. -/
theorem fits_off {maj : Nat} (g : Guard) (off : BitVec 18) (hm : maj < 64) : Fits [encOff maj g off] := by
  have := encG_bounds g
  exact fits_one (by unfold encOff; omega) (by unfold encOff fSel; omega)

/-- A format B encoding whose immediate may run on over the ga field fits. -/
theorem fits_B {maj d a imm : Nat} (hm : maj < 64) (hd : d < 64) (hi : a * 2 ^ 12 + imm < 2 ^ 18) :
    Fits [encB maj d a imm] := by
  have h : encB maj d a imm < 2 ^ 30 := by
    generalize hx : a * 2 ^ 12 + imm = x at hi
    have : encB maj d a imm = maj * 2 ^ 24 + d * 2 ^ 18 + x := by rw [← hx]; simp [encB, Nat.add_assoc]
    rw [this]; omega
  refine fits_one (Nat.lt_trans h (by decide)) ?_
  rw [fSel, Nat.div_eq_of_lt h]; decide

/-- A patch word fits. -/
theorem fits_P {ti fs act val : Nat} (ht : ti < 64) (hf : fs < 32) (ha : act < 8) (hv : val < 2 ^ 16) :
    Fits [encP ti fs act val] :=
  fits_one (by unfold encP; omega) (by unfold encP fSel; omega)

theorem cond_bit (b : Bool) (n : Nat) : (bif b then n else 0) ≤ n := by cases b <;> simp

theorem nop (g : Guard) : Statement (.nop g) :=
  fits_A g (by decide) (by decide) (by decide) (by decide) (by decide)
theorem halt (g : Guard) : Statement (.halt g) :=
  fits_A g (by decide) (by decide) (by decide) (by decide) (by decide)
theorem tret (g : Guard) : Statement (.tret g) :=
  fits_A g (by decide) (by decide) (by decide) (by decide) (by decide)
theorem add (g : Guard) (d : BitVec 6) (a : BitVec 6) (b : BitVec 6) : Statement (.add g d a b) :=
  fits_A g (by decide) (by decide) (by omega) (by omega) (by omega)
theorem sub (g : Guard) (d : BitVec 6) (a : BitVec 6) (b : BitVec 6) : Statement (.sub g d a b) :=
  fits_A g (by decide) (by decide) (by omega) (by omega) (by omega)
theorem mul (g : Guard) (d : BitVec 6) (a : BitVec 6) (b : BitVec 6) : Statement (.mul g d a b) :=
  fits_A g (by decide) (by decide) (by omega) (by omega) (by omega)
theorem mad (g : Guard) (d : BitVec 6) (a : BitVec 6) (b : BitVec 6) : Statement (.mad g d a b) :=
  fits_A g (by decide) (by decide) (by omega) (by omega) (by omega)
theorem mulh (g : Guard) (d : BitVec 6) (a : BitVec 6) (b : BitVec 6) : Statement (.mulh g d a b) :=
  fits_A g (by decide) (by decide) (by omega) (by omega) (by omega)
theorem mulhu (g : Guard) (d : BitVec 6) (a : BitVec 6) (b : BitVec 6) : Statement (.mulhu g d a b) :=
  fits_A g (by decide) (by decide) (by omega) (by omega) (by omega)
theorem div (g : Guard) (d : BitVec 6) (a : BitVec 6) (b : BitVec 6) : Statement (.div g d a b) :=
  fits_A g (by decide) (by decide) (by omega) (by omega) (by omega)
theorem divu (g : Guard) (d : BitVec 6) (a : BitVec 6) (b : BitVec 6) : Statement (.divu g d a b) :=
  fits_A g (by decide) (by decide) (by omega) (by omega) (by omega)
theorem rem (g : Guard) (d : BitVec 6) (a : BitVec 6) (b : BitVec 6) : Statement (.rem g d a b) :=
  fits_A g (by decide) (by decide) (by omega) (by omega) (by omega)
theorem remu (g : Guard) (d : BitVec 6) (a : BitVec 6) (b : BitVec 6) : Statement (.remu g d a b) :=
  fits_A g (by decide) (by decide) (by omega) (by omega) (by omega)
theorem min (g : Guard) (d : BitVec 6) (a : BitVec 6) (b : BitVec 6) : Statement (.min g d a b) :=
  fits_A g (by decide) (by decide) (by omega) (by omega) (by omega)
theorem max (g : Guard) (d : BitVec 6) (a : BitVec 6) (b : BitVec 6) : Statement (.max g d a b) :=
  fits_A g (by decide) (by decide) (by omega) (by omega) (by omega)
theorem minu (g : Guard) (d : BitVec 6) (a : BitVec 6) (b : BitVec 6) : Statement (.minu g d a b) :=
  fits_A g (by decide) (by decide) (by omega) (by omega) (by omega)
theorem maxu (g : Guard) (d : BitVec 6) (a : BitVec 6) (b : BitVec 6) : Statement (.maxu g d a b) :=
  fits_A g (by decide) (by decide) (by omega) (by omega) (by omega)
theorem abs (g : Guard) (d : BitVec 6) (a : BitVec 6) : Statement (.abs g d a) :=
  fits_A g (by decide) (by decide) (by omega) (by omega) (by decide)
theorem sel (s : Guard) (d : BitVec 6) (a : BitVec 6) (b : BitVec 6) : Statement (.sel s d a b) :=
  fits_A s (by decide) (by decide) (by omega) (by omega) (by omega)
theorem and (g : Guard) (d : BitVec 6) (a : BitVec 6) (b : BitVec 6) : Statement (.and g d a b) :=
  fits_A g (by decide) (by decide) (by omega) (by omega) (by omega)
theorem or (g : Guard) (d : BitVec 6) (a : BitVec 6) (b : BitVec 6) : Statement (.or g d a b) :=
  fits_A g (by decide) (by decide) (by omega) (by omega) (by omega)
theorem xor (g : Guard) (d : BitVec 6) (a : BitVec 6) (b : BitVec 6) : Statement (.xor g d a b) :=
  fits_A g (by decide) (by decide) (by omega) (by omega) (by omega)
theorem andn (g : Guard) (d : BitVec 6) (a : BitVec 6) (b : BitVec 6) : Statement (.andn g d a b) :=
  fits_A g (by decide) (by decide) (by omega) (by omega) (by omega)
theorem shl (g : Guard) (d : BitVec 6) (a : BitVec 6) (b : BitVec 6) : Statement (.shl g d a b) :=
  fits_A g (by decide) (by decide) (by omega) (by omega) (by omega)
theorem shr (g : Guard) (d : BitVec 6) (a : BitVec 6) (b : BitVec 6) : Statement (.shr g d a b) :=
  fits_A g (by decide) (by decide) (by omega) (by omega) (by omega)
theorem sar (g : Guard) (d : BitVec 6) (a : BitVec 6) (b : BitVec 6) : Statement (.sar g d a b) :=
  fits_A g (by decide) (by decide) (by omega) (by omega) (by omega)
theorem rotl (g : Guard) (d : BitVec 6) (a : BitVec 6) (b : BitVec 6) : Statement (.rotl g d a b) :=
  fits_A g (by decide) (by decide) (by omega) (by omega) (by omega)
theorem clz (g : Guard) (d : BitVec 6) (a : BitVec 6) : Statement (.clz g d a) :=
  fits_A g (by decide) (by decide) (by omega) (by omega) (by decide)
theorem ctz (g : Guard) (d : BitVec 6) (a : BitVec 6) : Statement (.ctz g d a) :=
  fits_A g (by decide) (by decide) (by omega) (by omega) (by decide)
theorem popc (g : Guard) (d : BitVec 6) (a : BitVec 6) : Statement (.popc g d a) :=
  fits_A g (by decide) (by decide) (by omega) (by omega) (by decide)
theorem brev (g : Guard) (d : BitVec 6) (a : BitVec 6) : Statement (.brev g d a) :=
  fits_A g (by decide) (by decide) (by omega) (by omega) (by decide)
theorem cmp (g : Guard) (c : BitVec 3) (p : BitVec 3) (a : BitVec 6) (b : BitVec 6) : Statement (.cmp g c p a b) :=
  fits_A g (by decide) (by decide) (by omega) (by omega) (by omega)
theorem cmpAnd (g : Guard) (c : BitVec 3) (p : BitVec 3) (a : BitVec 6) (b : BitVec 6) : Statement (.cmpAnd g c p a b) :=
  fits_A g (by decide) (by decide) (by omega) (by omega) (by omega)
theorem cmpOr (g : Guard) (c : BitVec 3) (p : BitVec 3) (a : BitVec 6) (b : BitVec 6) : Statement (.cmpOr g c p a b) :=
  fits_A g (by decide) (by decide) (by omega) (by omega) (by omega)
theorem cmpXor (g : Guard) (c : BitVec 3) (p : BitVec 3) (a : BitVec 6) (b : BitVec 6) : Statement (.cmpXor g c p a b) :=
  fits_A g (by decide) (by decide) (by omega) (by omega) (by omega)
theorem mov (g : Guard) (d : BitVec 6) (a : BitVec 6) : Statement (.mov g d a) :=
  fits_A g (by decide) (by decide) (by omega) (by omega) (by decide)
theorem lld (g : Guard) (l : BitVec 4) (a : BitVec 6) (b : BitVec 6) : Statement (.lld g l a b) :=
  fits_A g (by decide) (by decide) (by omega) (by omega) (by omega)
theorem lset (g : Guard) (l : BitVec 4) (a : BitVec 6) (f : BitVec 6) : Statement (.lset g l a f) :=
  fits_A g (by decide) (by decide) (by omega) (by omega) (by omega)
theorem lget (g : Guard) (d : BitVec 6) (l : BitVec 4) (f : BitVec 6) : Statement (.lget g d l f) :=
  fits_A g (by decide) (by decide) (by omega) (by omega) (by omega)
theorem lmov (g : Guard) (l : BitVec 4) (m : BitVec 4) : Statement (.lmov g l m) :=
  fits_A g (by decide) (by decide) (by omega) (by omega) (by decide)
theorem leaIndexed (g : Guard) (sz : BitVec 2) (d : BitVec 6) (a : BitVec 6) (b : BitVec 6) : Statement (.leaIndexed g sz d a b) :=
  fits_A g (by decide) (by omega) (by omega) (by omega) (by omega)
theorem bra (g : Guard) (off : BitVec 18) : Statement (.bra g off) :=
  fits_off g off (by decide)
theorem call (g : Guard) (off : BitVec 18) : Statement (.call g off) :=
  fits_off g off (by decide)
theorem callr (g : Guard) (d : BitVec 6) (a : BitVec 6) : Statement (.callr g d a) :=
  fits_A g (by decide) (by decide) (by omega) (by omega) (by decide)
theorem jmpr (g : Guard) (a : BitVec 6) : Statement (.jmpr g a) :=
  fits_A g (by decide) (by decide) (by decide) (by omega) (by decide)
theorem ret (g : Guard) (a : BitVec 6) : Statement (.ret g a) :=
  fits_A g (by decide) (by decide) (by decide) (by omega) (by decide)
theorem exit (g : Guard) : Statement (.exit g) :=
  fits_A g (by decide) (by decide) (by decide) (by decide) (by decide)
theorem brk (g : Guard) : Statement (.brk g) :=
  fits_A g (by decide) (by decide) (by decide) (by decide) (by decide)
theorem trap (g : Guard) (code : BitVec 6) : Statement (.trap g code) :=
  fits_A g (by decide) (by decide) (by decide) (by decide) (by omega)
theorem yield (g : Guard) : Statement (.yield g) :=
  fits_A g (by decide) (by decide) (by decide) (by decide) (by decide)
theorem dflush (g : Guard) : Statement (.dflush g) :=
  fits_A g (by decide) (by decide) (by decide) (by decide) (by decide)
theorem fadd (g : Guard) (f : BitVec 2) (d : BitVec 6) (a : BitVec 6) (b : BitVec 6) : Statement (.fadd g f d a b) :=
  fits_A g (by decide) (by omega) (by omega) (by omega) (by omega)
theorem fsub (g : Guard) (f : BitVec 2) (d : BitVec 6) (a : BitVec 6) (b : BitVec 6) : Statement (.fsub g f d a b) :=
  fits_A g (by decide) (by omega) (by omega) (by omega) (by omega)
theorem fmul (g : Guard) (f : BitVec 2) (d : BitVec 6) (a : BitVec 6) (b : BitVec 6) : Statement (.fmul g f d a b) :=
  fits_A g (by decide) (by omega) (by omega) (by omega) (by omega)
theorem ffma (g : Guard) (f : BitVec 2) (d : BitVec 6) (a : BitVec 6) (b : BitVec 6) : Statement (.ffma g f d a b) :=
  fits_A g (by decide) (by omega) (by omega) (by omega) (by omega)
theorem fmin (g : Guard) (f : BitVec 2) (d : BitVec 6) (a : BitVec 6) (b : BitVec 6) : Statement (.fmin g f d a b) :=
  fits_A g (by decide) (by omega) (by omega) (by omega) (by omega)
theorem fmax (g : Guard) (f : BitVec 2) (d : BitVec 6) (a : BitVec 6) (b : BitVec 6) : Statement (.fmax g f d a b) :=
  fits_A g (by decide) (by omega) (by omega) (by omega) (by omega)
theorem fabs (g : Guard) (f : BitVec 2) (d : BitVec 6) (a : BitVec 6) : Statement (.fabs g f d a) :=
  fits_A g (by decide) (by omega) (by omega) (by omega) (by decide)
theorem fneg (g : Guard) (f : BitVec 2) (d : BitVec 6) (a : BitVec 6) : Statement (.fneg g f d a) :=
  fits_A g (by decide) (by omega) (by omega) (by omega) (by decide)
theorem fcmp (g : Guard) (f : BitVec 2) (c : BitVec 3) (p : BitVec 3) (a : BitVec 6) (b : BitVec 6) : Statement (.fcmp g f c p a b) :=
  fits_A g (by decide) (by omega) (by omega) (by omega) (by omega)
theorem fdiv (g : Guard) (f : BitVec 2) (d : BitVec 6) (a : BitVec 6) (b : BitVec 6) : Statement (.fdiv g f d a b) :=
  fits_A g (by decide) (by omega) (by omega) (by omega) (by omega)
theorem fsqrt (g : Guard) (f : BitVec 2) (d : BitVec 6) (a : BitVec 6) : Statement (.fsqrt g f d a) :=
  fits_A g (by decide) (by omega) (by omega) (by omega) (by decide)
theorem frcp (g : Guard) (f : BitVec 2) (d : BitVec 6) (a : BitVec 6) : Statement (.frcp g f d a) :=
  fits_A g (by decide) (by omega) (by omega) (by omega) (by decide)
theorem frsq (g : Guard) (f : BitVec 2) (d : BitVec 6) (a : BitVec 6) : Statement (.frsq g f d a) :=
  fits_A g (by decide) (by omega) (by omega) (by omega) (by decide)
theorem fexp2 (g : Guard) (f : BitVec 2) (d : BitVec 6) (a : BitVec 6) : Statement (.fexp2 g f d a) :=
  fits_A g (by decide) (by omega) (by omega) (by omega) (by decide)
theorem flog2 (g : Guard) (f : BitVec 2) (d : BitVec 6) (a : BitVec 6) : Statement (.flog2 g f d a) :=
  fits_A g (by decide) (by omega) (by omega) (by omega) (by decide)
theorem fsin (g : Guard) (f : BitVec 2) (d : BitVec 6) (a : BitVec 6) : Statement (.fsin g f d a) :=
  fits_A g (by decide) (by omega) (by omega) (by omega) (by decide)
theorem fcos (g : Guard) (f : BitVec 2) (d : BitVec 6) (a : BitVec 6) : Statement (.fcos g f d a) :=
  fits_A g (by decide) (by omega) (by omega) (by omega) (by decide)
theorem frnd (g : Guard) (f : BitVec 2) (d : BitVec 6) (a : BitVec 6) : Statement (.frnd g f d a) :=
  fits_A g (by decide) (by omega) (by omega) (by omega) (by decide)
theorem fclass (g : Guard) (f : BitVec 2) (d : BitVec 6) (a : BitVec 6) : Statement (.fclass g f d a) :=
  fits_A g (by decide) (by omega) (by omega) (by omega) (by decide)
theorem ldIndexed (g : Guard) (sz : BitVec 2) (d : BitVec 6) (a : BitVec 6) (b : BitVec 6) : Statement (.ldIndexed g sz d a b) :=
  fits_A g (by decide) (by omega) (by omega) (by omega) (by omega)
theorem ldSxIndexed (g : Guard) (sz : BitVec 2) (d : BitVec 6) (a : BitVec 6) (b : BitVec 6) : Statement (.ldSxIndexed g sz d a b) :=
  fits_A g (by decide) (by omega) (by omega) (by omega) (by omega)
theorem stIndexed (g : Guard) (sz : BitVec 2) (d : BitVec 6) (a : BitVec 6) (b : BitVec 6) : Statement (.stIndexed g sz d a b) :=
  fits_A g (by decide) (by omega) (by omega) (by omega) (by omega)
theorem ldAcqIndexed (g : Guard) (sz : BitVec 2) (d : BitVec 6) (a : BitVec 6) (b : BitVec 6) : Statement (.ldAcqIndexed g sz d a b) :=
  fits_A g (by decide) (by omega) (by omega) (by omega) (by omega)
theorem stRelIndexed (g : Guard) (sz : BitVec 2) (d : BitVec 6) (a : BitVec 6) (b : BitVec 6) : Statement (.stRelIndexed g sz d a b) :=
  fits_A g (by decide) (by omega) (by omega) (by omega) (by omega)
theorem fenceFull (g : Guard) : Statement (.fenceFull g) :=
  fits_A g (by decide) (by decide) (by decide) (by decide) (by decide)
theorem fenceAcq (g : Guard) : Statement (.fenceAcq g) :=
  fits_A g (by decide) (by decide) (by decide) (by decide) (by decide)
theorem fenceRel (g : Guard) : Statement (.fenceRel g) :=
  fits_A g (by decide) (by decide) (by decide) (by decide) (by decide)
theorem fencePort (g : Guard) : Statement (.fencePort g) :=
  fits_A g (by decide) (by decide) (by decide) (by decide) (by decide)
theorem mon (g : Guard) (a : BitVec 6) : Statement (.mon g a) :=
  fits_A g (by decide) (by decide) (by decide) (by omega) (by decide)
theorem mwait (g : Guard) : Statement (.mwait g) :=
  fits_A g (by decide) (by decide) (by decide) (by decide) (by decide)
theorem semwait (g : Guard) (a : BitVec 6) (b : BitVec 6) : Statement (.semwait g a b) :=
  fits_A g (by decide) (by decide) (by decide) (by omega) (by omega)
theorem semsig (g : Guard) (a : BitVec 6) (b : BitVec 6) : Statement (.semsig g a b) :=
  fits_A g (by decide) (by decide) (by decide) (by omega) (by omega)
theorem deqp (g : Guard) (d : BitVec 6) (p : BitVec 6) : Statement (.deqp g d p) :=
  fits_A g (by decide) (by decide) (by omega) (by omega) (by decide)
theorem portq (g : Guard) (d : BitVec 6) (p : BitVec 6) : Statement (.portq g d p) :=
  fits_A g (by decide) (by decide) (by omega) (by omega) (by decide)
theorem join (g : Guard) : Statement (.join g) :=
  fits_A g (by decide) (by decide) (by decide) (by decide) (by decide)
theorem flrd (g : Guard) (d : BitVec 6) : Statement (.flrd g d) :=
  fits_A g (by decide) (by decide) (by omega) (by decide) (by decide)
theorem flcl (g : Guard) (a : BitVec 6) : Statement (.flcl g a) :=
  fits_A g (by decide) (by decide) (by decide) (by omega) (by decide)
theorem gangq (g : Guard) (d : BitVec 6) : Statement (.gangq g d) :=
  fits_A g (by decide) (by decide) (by omega) (by decide) (by decide)
theorem divb (g : Guard) (off : BitVec 18) : Statement (.divb g off) :=
  fits_off g off (by decide)
theorem rbget (g : Guard) (b : BitVec 6) : Statement (.rbget g b) :=
  fits_A g (by decide) (by decide) (by omega) (by decide) (by decide)
theorem rbput (g : Guard) (b : BitVec 6) : Statement (.rbput g b) :=
  fits_A g (by decide) (by decide) (by omega) (by decide) (by decide)
theorem lend (g : Guard) : Statement (.lend g) :=
  fits_A g (by decide) (by decide) (by decide) (by decide) (by decide)
theorem halloc (g : Guard) (p : BitVec 3) (d : BitVec 6) (a : BitVec 6) : Statement (.halloc g p d a) :=
  fits_A g (by decide) (by decide) (by omega) (by omega) (by omega)
theorem hfree (g : Guard) (a : BitVec 6) : Statement (.hfree g a) :=
  fits_A g (by decide) (by decide) (by decide) (by omega) (by decide)
theorem hrsh (g : Guard) (d : BitVec 6) (a : BitVec 6) (b : BitVec 6) : Statement (.hrsh g d a b) :=
  fits_A g (by decide) (by decide) (by omega) (by omega) (by omega)
theorem eres (g : Guard) (d : BitVec 6) (a : BitVec 6) (b : BitVec 6) : Statement (.eres g d a b) :=
  fits_A g (by decide) (by decide) (by omega) (by omega) (by omega)
theorem erel (g : Guard) (a : BitVec 6) : Statement (.erel g a) :=
  fits_A g (by decide) (by decide) (by decide) (by omega) (by decide)
theorem eset (g : Guard) (a : BitVec 6) (b : BitVec 6) : Statement (.eset g a b) :=
  fits_A g (by decide) (by decide) (by decide) (by omega) (by omega)
theorem tmld (g : Guard) (k : BitVec 6) (a : BitVec 6) (e : BitVec 6) : Statement (.tmld g k a e) :=
  fits_A g (by decide) (by decide) (by omega) (by omega) (by omega)
theorem addi (d : BitVec 6) (a : BitVec 6) (imm : BitVec 12) : Statement (.addi d a imm) :=
  fits_B (by decide) (by omega) (by omega)
theorem cmpi (c : BitVec 3) (p : BitVec 3) (a : BitVec 6) (imm : BitVec 12) : Statement (.cmpi c p a imm) :=
  fits_B (by decide) (by omega) (by omega)
theorem movi (d : BitVec 6) (imm : BitVec 18) : Statement (.movi d imm) :=
  fits_B (by decide) (by omega) (by omega)
theorem ldBShort (d : BitVec 6) (a : BitVec 6) (imm : BitVec 12) : Statement (.ldBShort d a imm) :=
  fits_B (by decide) (by omega) (by omega)
theorem ldHShort (d : BitVec 6) (a : BitVec 6) (imm : BitVec 12) : Statement (.ldHShort d a imm) :=
  fits_B (by decide) (by omega) (by omega)
theorem ldWShort (d : BitVec 6) (a : BitVec 6) (imm : BitVec 12) : Statement (.ldWShort d a imm) :=
  fits_B (by decide) (by omega) (by omega)
theorem ldDShort (d : BitVec 6) (a : BitVec 6) (imm : BitVec 12) : Statement (.ldDShort d a imm) :=
  fits_B (by decide) (by omega) (by omega)
theorem ldSxBShort (d : BitVec 6) (a : BitVec 6) (imm : BitVec 12) : Statement (.ldSxBShort d a imm) :=
  fits_B (by decide) (by omega) (by omega)
theorem ldSxHShort (d : BitVec 6) (a : BitVec 6) (imm : BitVec 12) : Statement (.ldSxHShort d a imm) :=
  fits_B (by decide) (by omega) (by omega)
theorem ldSxWShort (d : BitVec 6) (a : BitVec 6) (imm : BitVec 12) : Statement (.ldSxWShort d a imm) :=
  fits_B (by decide) (by omega) (by omega)
theorem stBShort (d : BitVec 6) (a : BitVec 6) (imm : BitVec 12) : Statement (.stBShort d a imm) :=
  fits_B (by decide) (by omega) (by omega)
theorem stHShort (d : BitVec 6) (a : BitVec 6) (imm : BitVec 12) : Statement (.stHShort d a imm) :=
  fits_B (by decide) (by omega) (by omega)
theorem stWShort (d : BitVec 6) (a : BitVec 6) (imm : BitVec 12) : Statement (.stWShort d a imm) :=
  fits_B (by decide) (by omega) (by omega)
theorem stDShort (d : BitVec 6) (a : BitVec 6) (imm : BitVec 12) : Statement (.stDShort d a imm) :=
  fits_B (by decide) (by omega) (by omega)
theorem pref (k : BitVec 2) (a : BitVec 6) (imm : BitVec 12) : Statement (.pref k a imm) :=
  fits_B (by decide) (by omega) (by omega)
theorem rngb (d : BitVec 6) (a : BitVec 6) (imm : BitVec 12) : Statement (.rngb d a imm) :=
  fits_B (by decide) (by omega) (by omega)
theorem pfx (kind : BitVec 3) (v : BitVec 27) : Statement (.pfx kind v) :=
  fits_one (by omega) (by unfold fSel; omega)
theorem moviWide (g : Guard) (d : BitVec 6) (imm : BitVec 32) : Statement (.moviWide g d imm) :=
  fits_W g (by decide) (by decide) (by omega) (by decide) (by decide) (by omega)
theorem moviHi (g : Guard) (d : BitVec 6) (imm : BitVec 32) : Statement (.moviHi g d imm) :=
  fits_W g (by decide) (by decide) (by omega) (by decide) (by decide) (by omega)
theorem addiWide (g : Guard) (d : BitVec 6) (a : BitVec 6) (imm : BitVec 32) : Statement (.addiWide g d a imm) :=
  fits_W g (by decide) (by decide) (by omega) (by omega) (by decide) (by omega)
theorem leaImm (g : Guard) (d : BitVec 6) (a : BitVec 6) (imm : BitVec 32) : Statement (.leaImm g d a imm) :=
  fits_W g (by decide) (by decide) (by omega) (by omega) (by decide) (by omega)
theorem ldOffset32 (g : Guard) (sz : BitVec 2) (d : BitVec 6) (a : BitVec 6) (imm : BitVec 32) : Statement (.ldOffset32 g sz d a imm) :=
  fits_W g (by decide) (by omega) (by omega) (by omega) (by decide) (by omega)
theorem ldSxOffset32 (g : Guard) (sz : BitVec 2) (d : BitVec 6) (a : BitVec 6) (imm : BitVec 32) : Statement (.ldSxOffset32 g sz d a imm) :=
  fits_W g (by decide) (by omega) (by omega) (by omega) (by decide) (by omega)
theorem stOffset32 (g : Guard) (sz : BitVec 2) (d : BitVec 6) (a : BitVec 6) (imm : BitVec 32) : Statement (.stOffset32 g sz d a imm) :=
  fits_W g (by decide) (by omega) (by omega) (by omega) (by decide) (by omega)
theorem ldAcqOffset32 (g : Guard) (sz : BitVec 2) (d : BitVec 6) (a : BitVec 6) (imm : BitVec 32) : Statement (.ldAcqOffset32 g sz d a imm) :=
  fits_W g (by decide) (by omega) (by omega) (by omega) (by decide) (by omega)
theorem stRelOffset32 (g : Guard) (sz : BitVec 2) (d : BitVec 6) (a : BitVec 6) (imm : BitVec 32) : Statement (.stRelOffset32 g sz d a imm) :=
  fits_W g (by decide) (by omega) (by omega) (by omega) (by decide) (by omega)
theorem atom (g : Guard) (ord : BitVec 2) (d : BitVec 6) (a : BitVec 6) (b : BitVec 6) (disp : BitVec 16) (dbl : Bool) (op : BitVec 4) : Statement (.atom g ord d a b disp dbl op) := by
  cases dbl <;> exact fits_W g (by decide) (by omega) (by omega) (by omega) (by omega) (by simp only [cond_true, cond_false]; omega)
theorem cas (g : Guard) (ord : BitVec 2) (d : BitVec 6) (a : BitVec 6) (b : BitVec 6) (disp : BitVec 16) (dbl : Bool) : Statement (.cas g ord d a b disp dbl) := by
  cases dbl <;> exact fits_W g (by decide) (by omega) (by omega) (by omega) (by omega) (by simp only [cond_true, cond_false]; omega)
theorem csrr (g : Guard) (d : BitVec 6) (csr : BitVec 12) : Statement (.csrr g d csr) :=
  fits_W g (by decide) (by decide) (by omega) (by decide) (by decide) (by omega)
theorem csrw (g : Guard) (a : BitVec 6) (csr : BitVec 12) : Statement (.csrw g a csr) :=
  fits_W g (by decide) (by decide) (by decide) (by omega) (by decide) (by omega)
theorem csrs (g : Guard) (a : BitVec 6) (csr : BitVec 12) : Statement (.csrs g a csr) :=
  fits_W g (by decide) (by decide) (by decide) (by omega) (by decide) (by omega)
theorem extb (g : Guard) (d : BitVec 6) (a : BitVec 6) (pos : BitVec 6) (width : BitVec 7) : Statement (.extb g d a pos width) :=
  fits_W g (by decide) (by decide) (by omega) (by omega) (by decide) (by omega)
theorem extbSx (g : Guard) (d : BitVec 6) (a : BitVec 6) (pos : BitVec 6) (width : BitVec 7) : Statement (.extbSx g d a pos width) :=
  fits_W g (by decide) (by decide) (by omega) (by omega) (by decide) (by omega)
theorem insb (g : Guard) (d : BitVec 6) (a : BitVec 6) (pos : BitVec 6) (width : BitVec 7) : Statement (.insb g d a pos width) :=
  fits_W g (by decide) (by decide) (by omega) (by omega) (by decide) (by omega)
theorem qop (g : Guard) (p : BitVec 3) (qa : BitVec 3) (qb : BitVec 3) (tt : BitVec 4) : Statement (.qop g p qa qb tt) :=
  fits_W g (by decide) (by decide) (by omega) (by omega) (by omega) (by omega)
theorem fcvt (g : Guard) (d : BitVec 6) (a : BitVec 6) (src : BitVec 4) (dst : BitVec 4) : Statement (.fcvt g d a src dst) :=
  fits_W g (by decide) (by decide) (by omega) (by omega) (by decide) (by omega)
theorem loop (g : Guard) (a : BitVec 6) (imm : BitVec 32) : Statement (.loop g a imm) :=
  fits_W g (by decide) (by decide) (by decide) (by omega) (by decide) (by omega)
theorem vote (g : Guard) (d : BitVec 6) (idx : BitVec 3) (flag : Bool) (kind : BitVec 4) (mask : BitVec 32) : Statement (.vote g d idx flag kind mask) := by
  cases flag <;> exact fits_W g (by decide) (by decide) (by omega) (by omega) (by simp only [cond_true, cond_false]; omega) (by omega)
theorem shfl (g : Guard) (d : BitVec 6) (a : BitVec 6) (b : BitVec 6) (mask : BitVec 32) : Statement (.shfl g d a b mask) :=
  fits_W g (by decide) (by decide) (by omega) (by omega) (by omega) (by omega)
theorem redx (g : Guard) (d : BitVec 6) (a : BitVec 6) (cls : BitVec 2) (kind : BitVec 4) (mask : BitVec 32) : Statement (.redx g d a cls kind mask) :=
  fits_W g (by decide) (by decide) (by omega) (by omega) (by omega) (by omega)
theorem tex (g : Guard) (d : BitVec 6) (a : BitVec 6) (b : BitVec 6) (l : BitVec 6) : Statement (.tex g d a b l) :=
  fits_W g (by decide) (by decide) (by omega) (by omega) (by omega) (by omega)
theorem texg (g : Guard) (d : BitVec 6) (a : BitVec 6) (b : BitVec 6) (l : BitVec 6) (ch : BitVec 2) : Statement (.texg g d a b l ch) :=
  fits_W g (by decide) (by decide) (by omega) (by omega) (by omega) (by omega)
theorem texq (g : Guard) (d : BitVec 6) (a : BitVec 6) (b : BitVec 6) : Statement (.texq g d a b) :=
  fits_W g (by decide) (by decide) (by omega) (by omega) (by omega) (by decide)
theorem raybox (g : Guard) (d : BitVec 6) (a : BitVec 6) (b : BitVec 6) (p : BitVec 3) : Statement (.raybox g d a b p) :=
  fits_W g (by decide) (by decide) (by omega) (by omega) (by omega) (by omega)
theorem raytri (g : Guard) (d : BitVec 6) (a : BitVec 6) (b : BitVec 6) (p : BitVec 3) : Statement (.raytri g d a b p) :=
  fits_W g (by decide) (by decide) (by omega) (by omega) (by omega) (by omega)
theorem rast (g : Guard) (a : BitVec 6) (b : BitVec 6) (p : BitVec 3) : Statement (.rast g a b p) :=
  fits_W g (by decide) (by decide) (by decide) (by omega) (by omega) (by omega)
theorem bary (g : Guard) (d : BitVec 6) (a : BitVec 6) (b : BitVec 6) : Statement (.bary g d a b) :=
  fits_W g (by decide) (by decide) (by omega) (by omega) (by omega) (by decide)
theorem xop (g : Guard) (d : BitVec 6) (a : BitVec 6) (b : BitVec 6) (c : BitVec 6) (k : BitVec 4) : Statement (.xop g d a b c k) :=
  fits_W g (by decide) (by decide) (by omega) (by omega) (by omega) (by omega)
theorem patld (g : Guard) (a : BitVec 6) (k : BitVec 4) : Statement (.patld g a k) :=
  fits_W g (by decide) (by decide) (by decide) (by omega) (by decide) (by omega)
theorem patdr (g : Guard) (k : BitVec 4) : Statement (.patdr g k) :=
  fits_W g (by decide) (by decide) (by decide) (by decide) (by decide) (by omega)
theorem patq (g : Guard) (d : BitVec 6) (k : BitVec 4) : Statement (.patq g d k) :=
  fits_W g (by decide) (by decide) (by omega) (by decide) (by decide) (by omega)
theorem fork (g : Guard) (a : BitVec 6) (n : BitVec 4) : Statement (.fork g a n) :=
  fits_W g (by decide) (by decide) (by decide) (by omega) (by decide) (by omega)
theorem forkToken (g : Guard) (n : BitVec 4) : Statement (.forkToken g n) :=
  fits_W g (by decide) (by decide) (by decide) (by decide) (by decide) (by omega)
theorem rdv (g : Guard) (mask : BitVec 9) : Statement (.rdv g mask) :=
  fits_W g (by decide) (by decide) (by decide) (by decide) (by decide) (by omega)
theorem spawn (g : Guard) (a : BitVec 6) : Statement (.spawn g a) :=
  fits_W g (by decide) (by decide) (by decide) (by omega) (by decide) (by decide)
theorem tenq (g : Guard) (d : BitVec 6) (a : BitVec 6) (b : BitVec 6) : Statement (.tenq g d a b) :=
  fits_W g (by decide) (by decide) (by omega) (by omega) (by omega) (by decide)
theorem wdone (g : Guard) : Statement (.wdone g) :=
  fits_W g (by decide) (by decide) (by decide) (by decide) (by decide) (by decide)
theorem ssync (g : Guard) : Statement (.ssync g) :=
  fits_W g (by decide) (by decide) (by decide) (by decide) (by decide) (by decide)
theorem govrd (g : Guard) (d : BitVec 6) : Statement (.govrd g d) :=
  fits_W g (by decide) (by decide) (by omega) (by decide) (by decide) (by decide)
theorem enqp (g : Guard) (a : BitVec 6) (b : BitVec 6) (p : BitVec 6) : Statement (.enqp g a b p) :=
  fits_W g (by decide) (by decide) (by decide) (by omega) (by omega) (by omega)
theorem enqpNb (g : Guard) (q : BitVec 3) (a : BitVec 6) (b : BitVec 6) (p : BitVec 6) : Statement (.enqpNb g q a b p) :=
  fits_W g (by decide) (by decide) (by decide) (by omega) (by omega) (by omega)
theorem amend (t : BitVec 6) (f : BitVec 5) (v : BitVec 16) : Statement (.amend t f v) :=
  fits_P (by omega) (by omega) (by decide) (by omega)
theorem issueField (t : BitVec 6) (f : BitVec 5) (v : BitVec 16) : Statement (.issueField t f v) :=
  fits_P (by omega) (by omega) (by decide) (by omega)
theorem issue (t : BitVec 6) : Statement (.issue t) :=
  fits_P (by omega) (by decide) (by decide) (by decide)
theorem issueAdd (t : BitVec 6) (f : BitVec 5) (v : BitVec 16) : Statement (.issueAdd t f v) :=
  fits_P (by omega) (by omega) (by decide) (by omega)
theorem idle (v : BitVec 16) : Statement (.idle v) :=
  fits_P (by decide) (by decide) (by decide) (by omega)
theorem sloop (b : BitVec 6) (st : BitVec 3) (n : BitVec 13) : Statement (.sloop b st n) :=
  fits_P (by omega) (by decide) (by decide) (by omega)
theorem sdone : Statement (.sdone) :=
  fits_P (by decide) (by decide) (by decide) (by decide)
theorem idleEnd : Statement (.idleEnd) := fits_nil
theorem sequencerResume : Statement (.sequencerResume) := fits_nil
theorem portCommandTake : Statement (.portCommandTake) := fits_nil
theorem vadd : Statement (.vadd) := fits_nil
theorem vsub : Statement (.vsub) := fits_nil
theorem vmul : Statement (.vmul) := fits_nil
theorem vfma : Statement (.vfma) := fits_nil
theorem vmin : Statement (.vmin) := fits_nil
theorem vmax : Statement (.vmax) := fits_nil
theorem vabs : Statement (.vabs) := fits_nil
theorem vcmp : Statement (.vcmp) := fits_nil
theorem vsel : Statement (.vsel) := fits_nil
theorem vlog : Statement (.vlog) := fits_nil
theorem vshf : Statement (.vshf) := fits_nil
theorem vidle : Statement (.vidle) := fits_nil
theorem vidleEnd : Statement (.vidleEnd) := fits_nil
theorem vxop : Statement (.vxop) := fits_nil
theorem vexp2 : Statement (.vexp2) := fits_nil
theorem vlog2 : Statement (.vlog2) := fits_nil
theorem vrcp : Statement (.vrcp) := fits_nil
theorem vrsq : Statement (.vrsq) := fits_nil
theorem vsqrt : Statement (.vsqrt) := fits_nil
theorem vcvt : Statement (.vcvt) := fits_nil
theorem vpackmx : Statement (.vpackmx) := fits_nil
theorem vunpk : Statement (.vunpk) := fits_nil
theorem vscale : Statement (.vscale) := fits_nil
theorem vsrnd : Statement (.vsrnd) := fits_nil
theorem vred : Statement (.vred) := fits_nil
theorem vscan : Statement (.vscan) := fits_nil
theorem vperm : Statement (.vperm) := fits_nil
theorem vbcast : Statement (.vbcast) := fits_nil
theorem vtrn : Statement (.vtrn) := fits_nil
theorem cpy : Statement (.cpy) := fits_nil
theorem gath : Statement (.gath) := fits_nil
theorem scat : Statement (.scat) := fits_nil
theorem mcst : Statement (.mcst) := fits_nil
theorem halo : Statement (.halo) := fits_nil
theorem coll : Statement (.coll) := fits_nil
theorem dpos : Statement (.dpos) := fits_nil
theorem wld : Statement (.wld) := fits_nil
theorem mma : Statement (.mma) := fits_nil
theorem mmw : Statement (.mmw) := fits_nil
theorem acrd : Statement (.acrd) := fits_nil
theorem acz : Statement (.acz) := fits_nil
theorem commandComplete (seq : BitVec 32) : Statement (.commandComplete seq) := fits_nil
theorem copyChunkComplete : Statement (.copyChunkComplete) := fits_nil
theorem streamSlotReturn : Statement (.streamSlotReturn) := fits_nil
theorem semIncrementApply (tile : Nat) : Statement (.semIncrementApply tile) := fits_nil
theorem remoteWaitAdmit (tile : Nat) : Statement (.remoteWaitAdmit tile) := fits_nil
theorem convergenceTest (gid : Nat) : Statement (.convergenceTest gid) := fits_nil
theorem serviceCheck (core : Nat) : Statement (.serviceCheck core) := fits_nil
theorem fenceComplete (tid : Nat) : Statement (.fenceComplete tid) := fits_nil
theorem ssyncComplete (wave : Nat) : Statement (.ssyncComplete wave) := fits_nil
theorem wdoneComplete (gid : Nat) : Statement (.wdoneComplete gid) := fits_nil
theorem govrdComplete (wave : Nat) : Statement (.govrdComplete wave) := fits_nil
theorem epochClose (wave : Nat) : Statement (.epochClose wave) := fits_nil
theorem groupEnd (gid : Nat) : Statement (.groupEnd gid) := fits_nil
theorem waveRetire (wave : Nat) : Statement (.waveRetire wave) := fits_nil
theorem queueDrainRound : Statement (.queueDrainRound) := fits_nil
theorem dispatchDecision : Statement (.dispatchDecision) := fits_nil
theorem groupStart (wave : Nat) : Statement (.groupStart wave) := fits_nil
theorem preemptDeadline (wave : Nat) : Statement (.preemptDeadline wave) := fits_nil
theorem drainDeadline (wave : Nat) : Statement (.drainDeadline wave) := fits_nil
theorem saveComplete (wave : Nat) : Statement (.saveComplete wave) := fits_nil
theorem tileStopComplete (tile : Nat) : Statement (.tileStopComplete tile) := fits_nil
theorem watchdogExpiry (unit : Agent) : Statement (.watchdogExpiry unit) := fits_nil
theorem patternEntryEvictable (core : Nat) : Statement (.patternEntryEvictable core) := fits_nil
theorem replayGateTimeout (line : Nat) : Statement (.replayGateTimeout line) := fits_nil
theorem homeAdmitReadShared (line : Nat) : Statement (.homeAdmitReadShared line) := fits_nil
theorem homeAdmitReadExclusive (line : Nat) : Statement (.homeAdmitReadExclusive line) := fits_nil
theorem homeAdmitUpgrade (line : Nat) : Statement (.homeAdmitUpgrade line) := fits_nil
theorem homeWritebackArrive (line : Nat) (unit : Nat) : Statement (.homeWritebackArrive line unit) := fits_nil
theorem homeInvalidationAck (line : Nat) (unit : Nat) : Statement (.homeInvalidationAck line unit) := fits_nil
theorem homeFetchDataArrive (line : Nat) : Statement (.homeFetchDataArrive line) := fits_nil
theorem homeForwardResponse (line : Nat) : Statement (.homeForwardResponse line) := fits_nil
theorem l1InvalidationReceive (line : Nat) (unit : Nat) : Statement (.l1InvalidationReceive line unit) := fits_nil
theorem l1ForwardReceive (line : Nat) (unit : Nat) : Statement (.l1ForwardReceive line unit) := fits_nil
theorem l1GrantReceive (line : Nat) (unit : Nat) : Statement (.l1GrantReceive line unit) := fits_nil
theorem l1WritebackAck (line : Nat) (unit : Nat) : Statement (.l1WritebackAck line unit) := fits_nil
theorem homeAtomicPerform (line : Nat) : Statement (.homeAtomicPerform line) := fits_nil
theorem redirectedAtomicResend (tid : Nat) : Statement (.redirectedAtomicResend tid) := fits_nil
theorem peerReadAtTarget (src : Nat) (dst : Nat) (line : Nat) : Statement (.peerReadAtTarget src dst line) := fits_nil
theorem peerWriteAtTarget (src : Nat) (dst : Nat) (line : Nat) (data : List (Nat × Byte)) : Statement (.peerWriteAtTarget src dst line data) := fits_nil
theorem peerInvalidateReceive (dst : Nat) (line : Nat) : Statement (.peerInvalidateReceive dst line) := fits_nil
theorem peerTimeout (a : Agent) : Statement (.peerTimeout a) := fits_nil
theorem companionAccess (write : Bool) (pa : Nat) (size : Nat) (value : Nat) : Statement (.companionAccess write pa size value) := fits_nil
theorem hostEnqueue (desc : Nat) (node : Nat) : Statement (.hostEnqueue desc node) := fits_nil
theorem pageWalkComplete : Statement (.pageWalkComplete) := fits_nil
theorem faultReportRelease : Statement (.faultReportRelease) := fits_nil
theorem frameTableWrite (idx : Nat) (e : FrameEntry) : Statement (.frameTableWrite idx e) := fits_nil
theorem recordControlWrite (asid : Nat) (e : RecordBlock) : Statement (.recordControlWrite asid e) := fits_nil
theorem asidEntryWrite (asid : Nat) (e : AsidEntry) : Statement (.asidEntryWrite asid e) := fits_nil
theorem watchQueueRegister (va : Nat) (asid : Nat) : Statement (.watchQueueRegister va asid) := fits_nil
theorem faultQueueRegister (base : Nat) (entries : Nat) (head : Nat) (tail : Nat) : Statement (.faultQueueRegister base entries head tail) := fits_nil
theorem pageFaultReplay (tag : Nat) : Statement (.pageFaultReplay tag) := fits_nil
theorem pageFaultRefuse (tag : Nat) : Statement (.pageFaultRefuse tag) := fits_nil
theorem shootdown (asid : Nat) (lo : Nat) (hi : Nat) : Statement (.shootdown asid lo hi) := fits_nil
theorem freeze (pa : Nat) (size : Nat) : Statement (.freeze pa size) := fits_nil
theorem thaw (pa : Nat) : Statement (.thaw pa) := fits_nil
theorem directNodeWrite (va : Nat) (asid : Nat) : Statement (.directNodeWrite va asid) := fits_nil
theorem preemptRequest (wave : Nat) : Statement (.preemptRequest wave) := fits_nil
theorem fabricDomainRegister (pkgs : List Nat) : Statement (.fabricDomainRegister pkgs) := fits_nil
theorem scrubWrite (pa : Nat) (data : List Byte) : Statement (.scrubWrite pa data) := fits_nil
theorem fsubmit (v : Word) : Statement (.fsubmit v) := fits_nil
theorem hstatWrite (v : Word) : Statement (.hstatWrite v) := fits_nil
theorem linkPinWrite (n : Nat) (v : Word) : Statement (.linkPinWrite n v) := fits_nil
theorem drstGo (v : Word) : Statement (.drstGo v) := fits_nil
theorem dieQuiesceEnd : Statement (.dieQuiesceEnd) := fits_nil
theorem allowWrite (d : Nat) (v : Word) : Statement (.allowWrite d v) := fits_nil
theorem cecntRead (r : CountRead) : Statement (.cecntRead r) := fits_nil
theorem keyCommit (v : Word) : Statement (.keyCommit v) := fits_nil
theorem hostRegWrite (off : Nat) (size : Nat) (v : Word) : Statement (.hostRegWrite off size v) := fits_nil
theorem energyAllowanceReached (m : MeterReading) : Statement (.energyAllowanceReached m) := fits_nil
theorem energyWindowEnd (used : List Nat) : Statement (.energyWindowEnd used) := fits_nil
theorem thermalTrip (d : Nat) : Statement (.thermalTrip d) := fits_nil
theorem thermalClear : Statement (.thermalClear) := fits_nil
theorem linkMeasureWindow (n : Nat) (pctUsed : Nat) (pctLower : Nat) : Statement (.linkMeasureWindow n pctUsed pctLower) := fits_nil
theorem retrainWindowEnd (n : Nat) : Statement (.retrainWindowEnd n) := fits_nil
theorem linkRetrainFail (n : Nat) : Statement (.linkRetrainFail n) := fits_nil
theorem flitCheckFail (n : Nat) : Statement (.flitCheckFail n) := fits_nil
theorem correctedError (d : Nat) : Statement (.correctedError d) := fits_nil
theorem uncorrectableError (place : ErrPlace) : Statement (.uncorrectableError place) := fits_nil
theorem patrolScrub (line : Nat) : Statement (.patrolScrub line) := fits_nil
theorem powerGood : Statement (.powerGood) := fits_nil
theorem selfTestDone (err : Nat) : Statement (.selfTestDone err) := fits_nil
theorem hbmTrainingDone (err : Nat) : Statement (.hbmTrainingDone err) := fits_nil
theorem hbmInitDone (err : Nat) : Statement (.hbmInitDone err) := fits_nil
theorem packageReset : Statement (.packageReset) := fits_nil
theorem illegalInstructionEncoding (w : Half) : Statement (.illegalInstructionEncoding w) := fits_nil
theorem remoteScratchpadAccess (tid : Nat) : Statement (.remoteScratchpadAccess tid) := fits_nil
theorem hostTransactionComplete (tid : Nat) : Statement (.hostTransactionComplete tid) := fits_nil
theorem driverPathAccess (write poisoned : Bool) (pa : Nat) (data : List Byte) : Statement (.driverPathAccess write poisoned pa data) := fits_nil
theorem nodeDiscard (wave : Nat) : Statement (.nodeDiscard wave) := fits_nil
theorem haltedWaveResumeOrDiscard (wave : Nat) (resume : Bool) : Statement (.haltedWaveResumeOrDiscard wave resume) := fits_nil

end Sys2Proof.Laws.Encodes
end

