-- ==== Sys2Proof/Tests/Slice0.lean ====
section
/-! SUPPORT. Tests of the model on fixed values: words of every encoding, terms each check of well-formedness refuses, single
steps whose results were worked out from the manual by hand, and for each statement with hypotheses a state that meets
them. -/

namespace Sys2Proof.Tests

open Sys2Proof Sys2Proof.Machine Sys2Proof.Claims

/-! ## Well-formedness: a term each check refuses, and one at its edge that passes -/

/-- R121: qg = 0 with gn = 1 is no guard. -/
theorem test_guardRefused : wellFormed (.nop ⟨0, true⟩) = false ∧ wellFormed (.nop ⟨0, false⟩) = true := by decide

/-- R121: nor does SEL's selecting predicate take it. -/
theorem test_selGuardRefused : wellFormed (.sel ⟨0, true⟩ 1 2 3) = false := by decide

/-- R137: a core float format is 0 to 2. -/
theorem test_floatFormatRefused :
    wellFormed (.fadd ⟨0, false⟩ 3 1 2 3) = false ∧ wellFormed (.fadd ⟨0, false⟩ 2 1 2 3) = true := by decide

/-- Table 7.12: a sign-extending load has no doubleword size. -/
theorem test_signExtendedDoublewordRefused : wellFormed (.ldSxIndexed ⟨0, false⟩ 3 1 2 3) = false ∧
    wellFormed (.ldSxOffset32 ⟨0, false⟩ 3 1 2 0) = false := by decide

/-- R227: a register block is 0 to 5. -/
theorem test_blockRefused : wellFormed (.rbget ⟨0, false⟩ 6) = false ∧ wellFormed (.rbput ⟨0, false⟩ 6) = false ∧
    wellFormed (.rbput ⟨0, false⟩ 5) = true := by decide

/-- R187: PREF has kinds 0 and 1. -/
theorem test_prefetchKindRefused : wellFormed (.pref 2 1 0) = false ∧ wellFormed (.pref 1 1 0) = true := by decide

/-- Table 7.13: operation codes from 0xC on, and a doubleword .fadd, are refused. -/
theorem test_atomOperationRefused : wellFormed (.atom ⟨0, false⟩ 0 1 2 3 0 false 0xC) = false ∧
    wellFormed (.atom ⟨0, false⟩ 0 1 2 3 0 true 0xB) = false ∧
    wellFormed (.atom ⟨0, false⟩ 0 1 2 3 0 false 0xB) = true := by decide

/-- R8: a CSR that Table 0.4 does not list. -/
theorem test_csrRefused : wellFormed (.csrr ⟨0, false⟩ 1 0x007) = false ∧ wellFormed (.csrw ⟨0, false⟩ 1 0x007) = false ∧
    wellFormed (.csrs ⟨0, false⟩ 1 0x007) = false ∧ wellFormed (.csrr ⟨0, false⟩ 1 0x070) = true := by decide

/-- Table 7.12: a field of no bits, or one that leaves the register. -/
theorem test_bitFieldRefused : wellFormed (.extb ⟨0, false⟩ 1 2 0 0) = false ∧
    wellFormed (.extbSx ⟨0, false⟩ 1 2 1 64) = false ∧ wellFormed (.insb ⟨0, false⟩ 1 2 63 2) = false ∧
    wellFormed (.insb ⟨0, false⟩ 1 2 63 1) = true := by decide

/-- Table 7.12: format codes 0x6 and from 0xD on. -/
theorem test_conversionRefused : wellFormed (.fcvt ⟨0, false⟩ 1 2 0x6 0) = false ∧
    wellFormed (.fcvt ⟨0, false⟩ 1 2 0 0xD) = false ∧ wellFormed (.fcvt ⟨0, false⟩ 1 2 0xC 0) = true := by decide

/-- Table 7.12: a LOOP offset of 0, or below. -/
theorem test_loopOffsetRefused : wellFormed (.loop ⟨0, false⟩ 1 0) = false ∧
    wellFormed (.loop ⟨0, false⟩ 1 0x80000000) = false ∧ wellFormed (.loop ⟨0, false⟩ 1 0x7FFFFFFF) = true := by decide

/-- R221, R222: VOTE's kinds, predicate and flag numbers. -/
theorem test_voteRefused : wellFormed (.vote ⟨0, false⟩ 1 2 false 4 0) = false ∧
    wellFormed (.vote ⟨0, false⟩ 8 2 false 0 0) = false ∧ wellFormed (.vote ⟨0, false⟩ 8 5 true 2 0) = false ∧
    wellFormed (.vote ⟨0, false⟩ 8 4 true 2 0) = true := by decide

/-- R221, R224: REDX's kinds and source classes. -/
theorem test_reductionRefused : wellFormed (.redx ⟨0, false⟩ 1 2 0 11 0) = false ∧
    wellFormed (.redx ⟨0, false⟩ 1 2 3 0 0) = false ∧ wellFormed (.redx ⟨0, false⟩ 1 2 1 8 0) = false ∧
    wellFormed (.redx ⟨0, false⟩ 1 8 1 0 0) = false ∧ wellFormed (.redx ⟨0, false⟩ 1 1 2 0 0) = false ∧
    wellFormed (.redx ⟨0, false⟩ 1 7 1 7 0) = true := by decide

/-- R212: register pairs start at an even number, quads at a multiple of 4. -/
theorem test_pairsAndQuadsRefused : wellFormed (.tex ⟨0, false⟩ 1 2 3 4) = false ∧
    wellFormed (.texg ⟨0, false⟩ 1 2 3 4 0) = false ∧ wellFormed (.raybox ⟨0, false⟩ 1 2 6 1) = false ∧
    wellFormed (.raytri ⟨0, false⟩ 1 2 4 1) = false ∧ wellFormed (.raytri ⟨0, false⟩ 2 2 6 1) = false ∧
    wellFormed (.raytri ⟨0, false⟩ 2 2 4 1) = true := by decide

/-- R246, R247: FORK names engines 1 to 9, and g0 is the form that pushes a token. -/
theorem test_forkRefused : wellFormed (.fork ⟨0, false⟩ 0 1) = false ∧ wellFormed (.fork ⟨0, false⟩ 1 0) = false ∧
    wellFormed (.fork ⟨0, false⟩ 1 10) = false ∧ wellFormed (.forkToken ⟨0, false⟩ 10) = false ∧
    wellFormed (.forkToken ⟨0, false⟩ 9) = true := by decide

/-- R144, R145: a field selector that does not exist, or a value its field does not hold. -/
theorem test_patchFieldRefused : wellFormed (.amend 0 26 0) = false ∧ wellFormed (.issueField 0 21 4) = false ∧
    wellFormed (.issueAdd 0 26 0) = false ∧ wellFormed (.issueField 0 21 3) = true := by decide

/-! ## Refused words (R114, R122, R137-R139, R147) -/

/-- A reserved field that is set, an unused opcode, a refused value and the wrong selector each have their name. -/
theorem test_refusedWords : decodeCore 0x00000041 0 = .error .reservedField ∧
    decodeCore 0x00000000 0 = .error .unusedOpcode ∧ decodeCore 0x00000005 0 = .error .refusedValue ∧
    decodeCore 0xC00D0000 0 = .error .selector ∧ decodePatch 0x00000001 = .error .selector ∧
    decodePatch 0xC0060000 = .error .unusedOpcode ∧ decodeCore 0x54000000 0x800 = .error .reservedField := by decide

/-! ## Decoding: one word of every encoding, written out from its row of Tables 7.7, 7.10-7.14 and 11.1 -/

/-- Words of family System: base word, guard ?!q2 and every field at a value of its own. -/
theorem test_decodeSystem : (([
  (0x00000015, 0x0, .nop ⟨2, true⟩),
  (0x00000016, 0x0, .halt ⟨2, true⟩),
  (0x00000017, 0x0, .tret ⟨2, true⟩)] : List (Nat × Nat × Instr)).all fun x =>
  decide (decodeCore x.1 x.2.1 = .ok x.2.2)) = true := by decide

/-- Words of family IntegerRegister: base word, guard ?!q2 and every field at a value of its own. -/
theorem test_decodeIntegerRegister : (([
  (0x0158BD14, 0x0, .add ⟨2, true⟩ 22 11 52),
  (0x0158BD15, 0x0, .sub ⟨2, true⟩ 22 11 52),
  (0x0158BD16, 0x0, .mul ⟨2, true⟩ 22 11 52),
  (0x0158BD17, 0x0, .mad ⟨2, true⟩ 22 11 52),
  (0x0258BD14, 0x0, .mulh ⟨2, true⟩ 22 11 52),
  (0x0258BD15, 0x0, .mulhu ⟨2, true⟩ 22 11 52),
  (0x0258BD16, 0x0, .div ⟨2, true⟩ 22 11 52),
  (0x0258BD17, 0x0, .divu ⟨2, true⟩ 22 11 52),
  (0x0358BD14, 0x0, .rem ⟨2, true⟩ 22 11 52),
  (0x0358BD15, 0x0, .remu ⟨2, true⟩ 22 11 52),
  (0x0358BD16, 0x0, .min ⟨2, true⟩ 22 11 52),
  (0x0358BD17, 0x0, .max ⟨2, true⟩ 22 11 52),
  (0x0458BD14, 0x0, .minu ⟨2, true⟩ 22 11 52),
  (0x0458BD15, 0x0, .maxu ⟨2, true⟩ 22 11 52),
  (0x0458B016, 0x0, .abs ⟨2, true⟩ 22 11),
  (0x0458BD17, 0x0, .sel ⟨2, true⟩ 22 11 52),
  (0x0558BD14, 0x0, .and ⟨2, true⟩ 22 11 52),
  (0x0558BD15, 0x0, .or ⟨2, true⟩ 22 11 52),
  (0x0558BD16, 0x0, .xor ⟨2, true⟩ 22 11 52),
  (0x0558BD17, 0x0, .andn ⟨2, true⟩ 22 11 52),
  (0x0658BD14, 0x0, .shl ⟨2, true⟩ 22 11 52),
  (0x0658BD15, 0x0, .shr ⟨2, true⟩ 22 11 52),
  (0x0658BD16, 0x0, .sar ⟨2, true⟩ 22 11 52),
  (0x0658BD17, 0x0, .rotl ⟨2, true⟩ 22 11 52),
  (0x0758B014, 0x0, .clz ⟨2, true⟩ 22 11),
  (0x0758B015, 0x0, .ctz ⟨2, true⟩ 22 11),
  (0x0758B016, 0x0, .popc ⟨2, true⟩ 22 11),
  (0x0758B017, 0x0, .brev ⟨2, true⟩ 22 11)] : List (Nat × Nat × Instr)).all fun x =>
  decide (decodeCore x.1 x.2.1 = .ok x.2.2)) = true := by decide

/-- Words of family CompareAndLayout: base word, guard ?!q2 and every field at a value of its own. -/
theorem test_decodeCompareAndLayout : (([
  (0x08ACBD14, 0x0, .cmp ⟨2, true⟩ 5 3 11 52),
  (0x08ACBD15, 0x0, .cmpAnd ⟨2, true⟩ 5 3 11 52),
  (0x08ACBD16, 0x0, .cmpOr ⟨2, true⟩ 5 3 11 52),
  (0x08ACBD17, 0x0, .cmpXor ⟨2, true⟩ 5 3 11 52),
  (0x0958B014, 0x0, .mov ⟨2, true⟩ 22 11),
  (0x0A24BD14, 0x0, .lld ⟨2, true⟩ 9 11 52),
  (0x0A24B155, 0x0, .lset ⟨2, true⟩ 9 11 5),
  (0x0A586156, 0x0, .lget ⟨2, true⟩ 22 6 5),
  (0x0A246017, 0x0, .lmov ⟨2, true⟩ 9 6),
  (0x0B58BD16, 0x0, .leaIndexed ⟨2, true⟩ 2 22 11 52)] : List (Nat × Nat × Instr)).all fun x =>
  decide (decodeCore x.1 x.2.1 = .ok x.2.2)) = true := by decide

/-- Words of family ControlFlow: base word, guard ?!q2 and every field at a value of its own. -/
theorem test_decodeControlFlow : (([
  (0x0CA97054, 0x0, .bra ⟨2, true⟩ 173505),
  (0x0DA97054, 0x0, .call ⟨2, true⟩ 173505),
  (0x0E58B014, 0x0, .callr ⟨2, true⟩ 22 11),
  (0x0E00B015, 0x0, .jmpr ⟨2, true⟩ 11),
  (0x0E00B016, 0x0, .ret ⟨2, true⟩ 11),
  (0x0E000017, 0x0, .exit ⟨2, true⟩),
  (0x0F000014, 0x0, .brk ⟨2, true⟩),
  (0x0F000B15, 0x0, .trap ⟨2, true⟩ 44),
  (0x0F000016, 0x0, .yield ⟨2, true⟩),
  (0x0F000017, 0x0, .dflush ⟨2, true⟩)] : List (Nat × Nat × Instr)).all fun x =>
  decide (decodeCore x.1 x.2.1 = .ok x.2.2)) = true := by decide

/-- Words of family FloatArithmetic: base word, guard ?!q2 and every field at a value of its own. -/
theorem test_decodeFloatArithmetic : (([
  (0x1058BD15, 0x0, .fadd ⟨2, true⟩ 1 22 11 52),
  (0x1158BD15, 0x0, .fsub ⟨2, true⟩ 1 22 11 52),
  (0x1258BD15, 0x0, .fmul ⟨2, true⟩ 1 22 11 52),
  (0x1358BD15, 0x0, .ffma ⟨2, true⟩ 1 22 11 52),
  (0x1458BD15, 0x0, .fmin ⟨2, true⟩ 1 22 11 52),
  (0x1558BD15, 0x0, .fmax ⟨2, true⟩ 1 22 11 52),
  (0x1658B015, 0x0, .fabs ⟨2, true⟩ 1 22 11),
  (0x1758B015, 0x0, .fneg ⟨2, true⟩ 1 22 11),
  (0x18ACBD15, 0x0, .fcmp ⟨2, true⟩ 1 5 3 11 52)] : List (Nat × Nat × Instr)).all fun x =>
  decide (decodeCore x.1 x.2.1 = .ok x.2.2)) = true := by decide

/-- Words of family FloatFunctions: base word, guard ?!q2 and every field at a value of its own. -/
theorem test_decodeFloatFunctions : (([
  (0x1958BD15, 0x0, .fdiv ⟨2, true⟩ 1 22 11 52),
  (0x1A58B015, 0x0, .fsqrt ⟨2, true⟩ 1 22 11),
  (0x1B58B015, 0x0, .frcp ⟨2, true⟩ 1 22 11),
  (0x1C58B015, 0x0, .frsq ⟨2, true⟩ 1 22 11),
  (0x1D58B015, 0x0, .fexp2 ⟨2, true⟩ 1 22 11),
  (0x1E58B015, 0x0, .flog2 ⟨2, true⟩ 1 22 11),
  (0x1F58B015, 0x0, .fsin ⟨2, true⟩ 1 22 11),
  (0x2058B015, 0x0, .fcos ⟨2, true⟩ 1 22 11),
  (0x2158B015, 0x0, .frnd ⟨2, true⟩ 1 22 11),
  (0x2258B015, 0x0, .fclass ⟨2, true⟩ 1 22 11)] : List (Nat × Nat × Instr)).all fun x =>
  decide (decodeCore x.1 x.2.1 = .ok x.2.2)) = true := by decide

/-- Words of family MemoryAndWaits: base word, guard ?!q2 and every field at a value of its own. -/
theorem test_decodeMemoryAndWaits : (([
  (0x2358BD16, 0x0, .ldIndexed ⟨2, true⟩ 2 22 11 52),
  (0x2458BD16, 0x0, .ldSxIndexed ⟨2, true⟩ 2 22 11 52),
  (0x2558BD16, 0x0, .stIndexed ⟨2, true⟩ 2 22 11 52),
  (0x2658BD16, 0x0, .ldAcqIndexed ⟨2, true⟩ 2 22 11 52),
  (0x2758BD16, 0x0, .stRelIndexed ⟨2, true⟩ 2 22 11 52),
  (0x28000014, 0x0, .fenceFull ⟨2, true⟩),
  (0x28000015, 0x0, .fenceAcq ⟨2, true⟩),
  (0x28000016, 0x0, .fenceRel ⟨2, true⟩),
  (0x28000017, 0x0, .fencePort ⟨2, true⟩),
  (0x2900B014, 0x0, .mon ⟨2, true⟩ 11),
  (0x29000015, 0x0, .mwait ⟨2, true⟩),
  (0x2900BD16, 0x0, .semwait ⟨2, true⟩ 11 52),
  (0x2900BD17, 0x0, .semsig ⟨2, true⟩ 11 52)] : List (Nat × Nat × Instr)).all fun x =>
  decide (decodeCore x.1 x.2.1 = .ok x.2.2)) = true := by decide

/-- Words of family PortsAndProof: base word, guard ?!q2 and every field at a value of its own. -/
theorem test_decodePortsAndProof : (([
  (0x2A583014, 0x0, .deqp ⟨2, true⟩ 22 3),
  (0x2A583015, 0x0, .portq ⟨2, true⟩ 22 3),
  (0x2B000014, 0x0, .join ⟨2, true⟩),
  (0x2B580015, 0x0, .flrd ⟨2, true⟩ 22),
  (0x2B00B016, 0x0, .flcl ⟨2, true⟩ 11),
  (0x2B580017, 0x0, .gangq ⟨2, true⟩ 22),
  (0x2CA97054, 0x0, .divb ⟨2, true⟩ 173505),
  (0x2D140014, 0x0, .rbget ⟨2, true⟩ 5),
  (0x2D140015, 0x0, .rbput ⟨2, true⟩ 5),
  (0x2D000016, 0x0, .lend ⟨2, true⟩)] : List (Nat × Nat × Instr)).all fun x =>
  decide (decodeCore x.1 x.2.1 = .ok x.2.2)) = true := by decide

/-- Words of family HoopsAndEasel: base word, guard ?!q2 and every field at a value of its own. -/
theorem test_decodeHoopsAndEasel : (([
  (0x2E58B0D4, 0x0, .halloc ⟨2, true⟩ 3 22 11),
  (0x2E00B015, 0x0, .hfree ⟨2, true⟩ 11),
  (0x2E58BD16, 0x0, .hrsh ⟨2, true⟩ 22 11 52),
  (0x2F58BD14, 0x0, .eres ⟨2, true⟩ 22 11 52),
  (0x2F00B015, 0x0, .erel ⟨2, true⟩ 11),
  (0x2F00BD16, 0x0, .eset ⟨2, true⟩ 11 52),
  (0x2FB4B1D7, 0x0, .tmld ⟨2, true⟩ 45 11 7)] : List (Nat × Nat × Instr)).all fun x =>
  decide (decodeCore x.1 x.2.1 = .ok x.2.2)) = true := by decide

/-- Words of family ShortImmediates: base word, guard ?!q2 and every field at a value of its own. -/
theorem test_decodeShortImmediates : (([
  (0x3058BA5C, 0x0, .addi 22 11 2652),
  (0x31ACBA5C, 0x0, .cmpi 5 3 11 2652),
  (0x325AA5C1, 0x0, .movi 22 173505),
  (0x3358BA5C, 0x0, .ldBShort 22 11 2652),
  (0x3458BA5C, 0x0, .ldHShort 22 11 2652),
  (0x3558BA5C, 0x0, .ldWShort 22 11 2652),
  (0x3658BA5C, 0x0, .ldDShort 22 11 2652),
  (0x3758BA5C, 0x0, .ldSxBShort 22 11 2652),
  (0x3858BA5C, 0x0, .ldSxHShort 22 11 2652),
  (0x3958BA5C, 0x0, .ldSxWShort 22 11 2652),
  (0x3A58BA5C, 0x0, .stBShort 22 11 2652),
  (0x3B58BA5C, 0x0, .stHShort 22 11 2652),
  (0x3C58BA5C, 0x0, .stWShort 22 11 2652),
  (0x3D58BA5C, 0x0, .stDShort 22 11 2652),
  (0x3E04BA5C, 0x0, .pref 1 11 2652),
  (0x3F58BA5C, 0x0, .rngb 22 11 2652)] : List (Nat × Nat × Instr)).all fun x =>
  decide (decodeCore x.1 x.2.1 = .ok x.2.2)) = true := by decide

/-- Words of family Prefix: base word, guard ?!q2 and every field at a value of its own. -/
theorem test_decodePrefix : (([
  (0x9DA5A5A5, 0x0, .pfx 3 94741925)] : List (Nat × Nat × Instr)).all fun x =>
  decide (decodeCore x.1 x.2.1 = .ok x.2.2)) = true := by decide

/-- Words of family PatchWords: base word, guard ?!q2 and every field at a value of its own. -/
theorem test_decodePatchWords : (([
  (0xED68A5C3, 0x0, .amend 45 13 42435),
  (0xED69A5C3, 0x0, .issueField 45 13 42435),
  (0xED020000, 0x0, .issue 45),
  (0xED6BA5C3, 0x0, .issueAdd 45 13 42435),
  (0xC004A5C3, 0x0, .idle 42435),
  (0xE305D234, 0x0, .sloop 35 6 4660),
  (0xC00D0000, 0x0, .sdone)] : List (Nat × Nat × Instr)).all fun x =>
  decide (decodePatch x.1 = .ok x.2.2)) = true := by decide

/-- Words of family WideImmediatesAndMemory: base word, guard ?!q2 and every field at a value of its own. -/
theorem test_decodeWideImmediatesAndMemory : (([
  (0x40580014, 0x89ABCDEF, .moviWide ⟨2, true⟩ 22 0x89ABCDEF),
  (0x40580015, 0x89ABCDEF, .moviHi ⟨2, true⟩ 22 0x89ABCDEF),
  (0x4058B016, 0x89ABCDEF, .addiWide ⟨2, true⟩ 22 11 0x89ABCDEF),
  (0x4058B017, 0x89ABCDEF, .leaImm ⟨2, true⟩ 22 11 0x89ABCDEF),
  (0x4158B016, 0x89ABCDEF, .ldOffset32 ⟨2, true⟩ 2 22 11 0x89ABCDEF),
  (0x4258B015, 0x89ABCDEF, .ldSxOffset32 ⟨2, true⟩ 1 22 11 0x89ABCDEF),
  (0x4358B017, 0x89ABCDEF, .stOffset32 ⟨2, true⟩ 3 22 11 0x89ABCDEF),
  (0x4458B015, 0x89ABCDEF, .ldAcqOffset32 ⟨2, true⟩ 1 22 11 0x89ABCDEF),
  (0x4558B016, 0x89ABCDEF, .stRelOffset32 ⟨2, true⟩ 2 22 11 0x89ABCDEF),
  (0x4658BD17, 0x9ABC0019, .atom ⟨2, true⟩ 3 22 11 52 0x9ABC true 9),
  (0x4758BD15, 0x9ABC0010, .cas ⟨2, true⟩ 1 22 11 52 0x9ABC true)] : List (Nat × Nat × Instr)).all fun x =>
  decide (decodeCore x.1 x.2.1 = .ok x.2.2)) = true := by decide

/-- Words of family WideCsrsAndFields: base word, guard ?!q2 and every field at a value of its own. -/
theorem test_decodeWideCsrsAndFields : (([
  (0x48580014, 0x62, .csrr ⟨2, true⟩ 22 0x062),
  (0x4800B015, 0x10, .csrw ⟨2, true⟩ 11 0x010),
  (0x4800B016, 0x11, .csrs ⟨2, true⟩ 11 0x011),
  (0x4958B014, 0xA18, .extb ⟨2, true⟩ 22 11 24 40),
  (0x4958B015, 0x1000, .extbSx ⟨2, true⟩ 22 11 0 64),
  (0x4958B016, 0x7F, .insb ⟨2, true⟩ 22 11 63 1),
  (0x4A143194, 0xB, .qop ⟨2, true⟩ 5 3 6 0xB),
  (0x4B58B014, 0x1C, .fcvt ⟨2, true⟩ 22 11 0x1 0xC),
  (0x4C00B014, 0x123, .loop ⟨2, true⟩ 11 0x123)] : List (Nat × Nat × Instr)).all fun x =>
  decide (decodeCore x.1 x.2.1 = .ok x.2.2)) = true := by decide

/-- Words of family WideProof: base word, guard ?!q2 and every field at a value of its own. -/
theorem test_decodeWideProof : (([
  (0x4D583494, 0x89ABCDEF, .vote ⟨2, true⟩ 22 3 false 2 0x89ABCDEF),
  (0x4D58BD15, 0x89ABCDEF, .shfl ⟨2, true⟩ 22 11 52 0x89ABCDEF),
  (0x4D58B156, 0x89ABCDEF, .redx ⟨2, true⟩ 22 11 0 5 0x89ABCDEF),
  (0x4E58BD14, 0x21, .tex ⟨2, true⟩ 22 11 52 33),
  (0x4E58BD15, 0xA1, .texg ⟨2, true⟩ 22 11 52 33 2),
  (0x4E5CBD16, 0x0, .texq ⟨2, true⟩ 23 11 52),
  (0x4F5CBD14, 0x5, .raybox ⟨2, true⟩ 23 11 52 5),
  (0x4F58BD15, 0x5, .raytri ⟨2, true⟩ 22 11 52 5),
  (0x4F00BD16, 0x5, .rast ⟨2, true⟩ 11 52 5),
  (0x4F58BD17, 0x0, .bary ⟨2, true⟩ 22 11 52)] : List (Nat × Nat × Instr)).all fun x =>
  decide (decodeCore x.1 x.2.1 = .ok x.2.2)) = true := by decide

/-- Words of family WideTileAndScheduling: base word, guard ?!q2 and every field at a value of its own. -/
theorem test_decodeWideTileAndScheduling : (([
  (0x5058BD14, 0x2100D, .xop ⟨2, true⟩ 22 11 52 33 13),
  (0x5100B014, 0xD, .patld ⟨2, true⟩ 11 13),
  (0x51000015, 0xD, .patdr ⟨2, true⟩ 13),
  (0x51580016, 0xD, .patq ⟨2, true⟩ 22 13),
  (0x5200B014, 0x9, .fork ⟨2, true⟩ 11 9),
  (0x52000014, 0x9, .forkToken ⟨2, true⟩ 9),
  (0x52000015, 0x2AA, .rdv ⟨2, true⟩ 0x155),
  (0x5200B016, 0x0, .spawn ⟨2, true⟩ 11),
  (0x5258BD17, 0x0, .tenq ⟨2, true⟩ 22 11 52),
  (0x53000014, 0x0, .wdone ⟨2, true⟩),
  (0x53000015, 0x0, .ssync ⟨2, true⟩),
  (0x53580016, 0x0, .govrd ⟨2, true⟩ 22),
  (0x5400BD14, 0x21, .enqp ⟨2, true⟩ 11 52 33),
  (0x5400BD15, 0x521, .enqpNb ⟨2, true⟩ 5 11 52 33)] : List (Nat × Nat × Instr)).all fun x =>
  decide (decodeCore x.1 x.2.1 = .ok x.2.2)) = true := by decide

/-! ## Small states -/

/-- A live thread of group 0 of wave 1, at address 0x10000. -/
def thread0 : Thread := { (default : Thread) with live := true, gid := 1024, pc := 0x10000 }

/-- The thread with some registers set. -/
def withRegs (l : List (Nat × Word)) : Thread := { thread0 with g := l.foldl (fun m p => m.set p.1 p.2) [] }

/-- A package that is up with every feature and a command in its ring, wave 1 running in address space 1, and the 64 KiB page at
0x10000 translated to the same addresses with every permission. -/
def upState : State := { (default : State) with
  waves := [(1, { (default : Wave) with state := .running, asid := 1, groups := 1, placedOnce := true })]
  tlbs := [(0, [⟨1, 0x10000, 0, 0x1003F⟩]), (96, [⟨1, 0x10000, 0, 0x1003F⟩])]
  host := { (default : HostRegs) with
    power := true, ready := true, fack := true, state := 4, facc := BitVec.ofNat 128 (0x7F + 3 * 2 ^ 64)
    cring := [(1, 16), (2, 15), (3, 1)] } }

/-- The thread on slot 0 of proof core 0, with 4 KiB of group memory. -/
def onProof (t : Thread) : State := { upState with
  threads := [(0, t)], cur := .thread 0
  groups := [(1024, { (default : Group) with
    unit := 96, placed := true, started := true, threads := 1, gmSize := 4096 })] }

/-- The thread as the control core of tile 0, with what its tile holds. -/
def onTile (t : Thread) (tile : Tile) : State := { upState with
  threads := [(65536, t)], cur := .thread 65536
  groups := [(1024, { (default : Group) with unit := 0, placed := true, started := true, threads := 1 })]
  tiles := [(0, { tile with group := 1025, sram := 1 })] }

/-- The same, with the turn given to an engine of the tile. -/
def onEngine (e : Nat) (g : Engine) : State :=
  { onTile thread0 { (default : Tile) with engines := [(e, g)] } with cur := .engine 0 e }

/-! ## Forms a table lists that a state can execute -/

/-- A table lists the instruction, and the thread of the state can execute it, with all that it needs. -/
def Met (table : State → Nat → Instr → Option Effect) (s : State) (tid : Nat) (i : Instr) : Prop :=
  ∃ e, table s tid i = some e ∧ wellFormed i = true ∧ Able s tid e.spec ∧ e.needs

theorem met_of {table : State → Nat → Instr → Option Effect} {s : State} {tid : Nat} {i : Instr} {e : Effect}
    (h : table s tid i = some e) (w : wellFormed i = true) (a : canExecute s tid e.spec = true) (n : e.needs) :
    Met table s tid i := ⟨e, h, w, able_of_canExecute a, n⟩

/-- The guard that is always true. -/
def always : Guard := ⟨0, false⟩

/-- O1: every register-only integer instruction. -/
theorem witness_integer : ∀ i ∈ [Instr.add always 1 2 3, .sub always 1 2 3, .mul always 1 2 3, .mad always 1 2 3, .abs always 1 2,
    .mulh always 1 2 3, .mulhu always 1 2 3, .div always 1 2 3, .divu always 1 2 3, .rem always 1 2 3, .remu always 1 2 3,
    .min always 1 2 3, .max always 1 2 3, .minu always 1 2 3, .maxu always 1 2 3, .sel always 1 2 3, .and always 1 2 3,
    .or always 1 2 3, .xor always 1 2 3, .andn always 1 2 3, .shl always 1 2 3, .shr always 1 2 3, .sar always 1 2 3,
    .rotl always 1 2 3, .clz always 1 2, .ctz always 1 2, .popc always 1 2, .brev always 1 2, .mov always 1 2,
    .leaIndexed always 3 1 2 3], Met intEffect (onProof thread0) 0 i := by
  repeat (refine List.forall_mem_cons.2 ⟨met_of rfl rfl rfl trivial, ?_⟩)
  exact fun _ h => absurd h List.not_mem_nil

/-- O1: the immediate forms, bit fields at their limits, and RNGB, here on a control core. -/
theorem witness_integerImmediate : ∀ i ∈ [Instr.addi 1 2 0x800, .addiWide always 1 2 0x80000000, .leaImm always 1 2 0x80000000,
    .movi 1 0x20000, .moviWide always 1 0x80000000, .moviHi always 0 7, .extb always 1 2 0 64, .extb always 1 2 63 1,
    .extbSx always 1 2 0 64, .extbSx always 1 2 63 1, .insb always 1 2 0 64, .insb always 1 2 63 1, .rngb 1 2 0xFFF],
    Met intEffect (onTile thread0 default) 65536 i := by
  repeat (refine List.forall_mem_cons.2 ⟨met_of rfl rfl rfl trivial, ?_⟩)
  exact fun _ h => absurd h List.not_mem_nil

/-- O1: an integer instruction after a prefix it accepts. -/
theorem witness_integerPrefix :
    Met intEffect (onProof { thread0 with pfx := [0x87400000] }) 0 (.add always 1 2 3) :=
  met_of rfl rfl rfl trivial

/-- O2. -/
theorem witness_predicate : ∀ i ∈ [Instr.cmp always 7 1 2 3, .cmpAnd always 0 1 2 3, .cmpOr always 5 1 2 3,
    .cmpXor always 6 0 2 3, .cmpi 2 1 2 0x800, .qop always 7 1 2 0xF], Met predEffect (onProof thread0) 0 i := by
  repeat (refine List.forall_mem_cons.2 ⟨met_of rfl rfl rfl trivial, ?_⟩)
  exact fun _ h => absurd h List.not_mem_nil

/-- O3. -/
theorem witness_float : ∀ i ∈ [Instr.fadd always 0 1 2 3, .fsub always 1 1 2 3, .fmul always 2 1 2 3, .fdiv always 0 1 2 3,
    .ffma always 0 1 2 3, .fsqrt always 0 1 2, .frnd always 0 1 2, .fmin always 0 1 2 3, .fmax always 0 1 2 3,
    .fabs always 0 1 2, .fneg always 0 1 2, .fclass always 0 1 2, .fcmp always 0 7 1 2 3, .frcp always 0 1 2,
    .frsq always 0 1 2, .fexp2 always 0 1 2, .flog2 always 0 1 2, .fsin always 0 1 2, .fcos always 0 1 2,
    .fcvt always 1 2 0 0xC], Met floatEffect (onProof thread0) 0 i := by
  repeat (refine List.forall_mem_cons.2 ⟨met_of rfl rfl rfl trivial, ?_⟩)
  exact fun _ h => absurd h List.not_mem_nil

/-! ## Loads, stores and atomics -/

/-- A thread whose g2 holds an address in the translated page, and g3 zero. -/
def addressed : Thread := withRegs [(2, 0x10008)]

/-- What the statements about accesses ask of a form and a state at once. -/
def AccessMet (form : Thread → Instr → Option MemForm) (s : State) (tid : Nat) (l : Loc) (i : Instr) : Prop :=
  ∃ f, form (s.thread tid) i = some f ∧ wellFormed i = true ∧ Able s tid f.spec ∧ (f.release = true → AllPerformed s tid) ∧
    s.resolve (s.who tid) f.need f.va.toNat f.size = .at l ∧ Immediate s tid (f.access s tid l) ∧ s.poisoned l = false ∧
    Keyed s tid l

/-- No store is outstanding in another package. -/
theorem performed_of {s : State} {tid : Nat} (h : s.peerInv = []) : AllPerformed s tid := by
  unfold AllPerformed; rw [h]; exact fun _ m => absurd m List.not_mem_nil

theorem accessMet_of {form : Thread → Instr → Option MemForm} {s : State} {tid : Nat} {l : Loc} {i : Instr} {f : MemForm}
    (h : form (s.thread tid) i = some f) (w : wellFormed i = true) (a : canExecute s tid f.spec = true)
    (r : s.resolve (s.who tid) f.need f.va.toNat f.size = .at l) (m : Immediate s tid (f.access s tid l))
    (p : s.poisoned l = false) (k : Keyed s tid l) (hp : s.peerInv = []) : AccessMet form s tid l i :=
  ⟨f, h, w, able_of_canExecute a, fun _ => performed_of hp, r, m, p, k⟩

set_option maxRecDepth 20000 in
/-- O4: every load, of a doubleword of device memory at its alignment. -/
theorem witness_load : ∀ i ∈ [Instr.ldIndexed always 3 1 2 3, .ldSxIndexed always 2 1 2 3, .ldAcqIndexed always 0 1 2 3,
    .ldBShort 1 2 7, .ldHShort 1 2 0xFFE, .ldWShort 1 2 4, .ldDShort 1 2 0xFF8, .ldSxBShort 1 2 0, .ldSxHShort 1 2 0,
    .ldSxWShort 1 2 0, .ldOffset32 always 3 1 2 0xFFF0, .ldSxOffset32 always 0 1 2 0xFFFFFFF8,
    .ldAcqOffset32 always 2 1 2 0], ∃ l sx f, loadStoreForm ((onProof addressed).thread 0) i = some f ∧ f.op = .load sx ∧
      AccessMet loadStoreForm (onProof addressed) 0 l i := by
  repeat (refine List.forall_mem_cons.2 ⟨⟨_, _, _, rfl, rfl, accessMet_of rfl rfl rfl rfl
    ⟨.inl rfl, rfl, rfl, rfl, .inr rfl⟩ rfl (fun _ => ⟨rfl, rfl⟩) rfl⟩, ?_⟩)
  exact fun _ h => absurd h List.not_mem_nil

set_option maxRecDepth 20000 in
/-- O5: every store. -/
theorem witness_store : ∀ i ∈ [Instr.stIndexed always 3 1 2 3, .stRelIndexed always 0 1 2 3, .stBShort 1 2 7,
    .stHShort 1 2 0xFFE, .stWShort 1 2 4, .stDShort 1 2 0xFF8, .stOffset32 always 3 1 2 0xFFF0,
    .stRelOffset32 always 2 1 2 0], ∃ l f, loadStoreForm ((onProof addressed).thread 0) i = some f ∧ f.op = .store ∧
      AccessMet loadStoreForm (onProof addressed) 0 l i := by
  repeat (refine List.forall_mem_cons.2 ⟨⟨_, _, rfl, rfl, accessMet_of rfl rfl rfl rfl
    ⟨.inl rfl, rfl, rfl, rfl, .inr rfl⟩ rfl (fun _ => ⟨rfl, rfl⟩) rfl⟩, ?_⟩)
  exact fun _ h => absurd h List.not_mem_nil

set_option maxRecDepth 20000 in
/-- O6: every atomic operation, and CAS that finds what it expects (zero) or not (here g4). -/
theorem witness_atomic : ∀ i ∈ [Instr.atom always 3 1 2 3 0 true 0, .atom always 0 1 2 3 0 true 1,
    .atom always 0 1 2 3 0 true 2, .atom always 1 1 2 3 0 true 3, .atom always 0 1 2 3 0 true 4, .atom always 0 1 2 3 0 true 5,
    .atom always 2 1 2 3 0 true 6, .atom always 0 1 2 3 0 true 7, .atom always 0 1 2 3 0 true 8, .atom always 0 1 2 3 0 true 9,
    .atom always 0 1 2 3 0 false 10, .atom always 0 1 2 3 4 false 0xB, .cas always 0 1 2 3 0 true, .cas always 3 2 2 3 0 true],
    ∃ l, AccessMet atomicForm (onProof addressed) 0 l i := by
  repeat (refine List.forall_mem_cons.2 ⟨⟨_, accessMet_of rfl rfl rfl rfl
    ⟨.inl rfl, rfl, rfl, rfl, .inr rfl⟩ rfl (fun _ => ⟨rfl, rfl⟩) rfl⟩, ?_⟩)
  exact fun _ h => absurd h List.not_mem_nil

/-- O6: both outcomes of a CAS occur: the word is 0, and the expected value g4 is 0 or g2 is not. -/
theorem witness_casOutcomes : littleEndian (onProof addressed).byteAt ⟨.hbm, 0x10008⟩ 8 = (addressed.rd 4).toNat % 2 ^ 64 ∧
    littleEndian (onProof addressed).byteAt ⟨.hbm, 0x10008⟩ 8 ≠ (addressed.rd 2).toNat % 2 ^ 64 := by decide

/-- O4, O5: the last word of a thread's own group memory, and the first of a tile's scratchpad, can be reached at once. -/
theorem witness_ownMemory :
    AccessMet loadStoreForm (onProof (withRegs [(2, 0x01E0000000000FF8)])) 0 ⟨.gm 0, 0xFF8⟩ (.ldDShort 1 2 0) ∧
    AccessMet loadStoreForm (onTile (withRegs [(2, 0x01E0000000000000)]) default) 65536 ⟨.sp 0, 0⟩ (.stDShort 1 2 0) :=
  ⟨accessMet_of rfl rfl rfl (by decide) ⟨.inl rfl, rfl, trivial⟩ rfl (fun h => absurd h (by decide)) rfl,
   accessMet_of rfl rfl rfl (by decide) ⟨.inl rfl, rfl, rfl⟩ rfl (fun h => absurd h (by decide)) rfl⟩

/-- The state of a thread's wave in deterministic mode. -/
def deterministic (s : State) : State := { s with waves := [(1, { (default : Wave) with
  state := .running, asid := 1, groups := 1, placedOnce := true, node := { (default : Node) with ctl := 0x800000 } })] }

set_option maxRecDepth 20000 in
/-- O4: a load in deterministic mode is not held in the buffer. -/
theorem witness_loadUnbuffered : ∃ s : State, s.det 0 = true ∧
    AccessMet loadStoreForm s 0 ⟨.hbm, 0x10008⟩ (.ldDShort 1 2 0) :=
  ⟨deterministic (onProof addressed), rfl,
    accessMet_of rfl rfl rfl rfl ⟨.inr (.inr ⟨_, rfl⟩), rfl, rfl, rfl, .inr rfl⟩ rfl (fun _ => ⟨rfl, rfl⟩) rfl⟩

set_option maxRecDepth 20000 in
/-- O5, O6: stores, an atomic and a CAS that deterministic mode buffers. -/
theorem witness_buffered : ∀ x ∈ [(loadStoreForm, Instr.stDShort 1 2 0xFF8), (loadStoreForm, .stBShort 1 2 7),
    (loadStoreForm, .stRelIndexed always 0 1 2 3), (atomicForm, .atom always 3 1 2 3 0 true 0), (atomicForm, .cas always 0 1 2 3 0 true)],
    let s := deterministic (onProof addressed)
    ∃ f l, x.1 (s.thread 0) x.2 = some f ∧ wellFormed x.2 = true ∧ Able s 0 f.spec ∧ (f.release = true → AllPerformed s 0) ∧
      s.resolve (s.who 0) f.need f.va.toNat f.size = .at l ∧ s.det 0 = true ∧ l.buffered = true ∧
      (s.storesNow (s.thread 0).gid).wf = true := by
  repeat (refine List.forall_mem_cons.2 ⟨⟨_, _, rfl, rfl, able_of_canExecute rfl, fun _ => performed_of rfl, rfl, rfl, rfl, rfl⟩, ?_⟩)
  exact fun _ h => absurd h List.not_mem_nil

/-- O7: a memory in canonical form, and a line under the key in force. -/
theorem witness_storeBytes : (onProof addressed).mem.wf = true ∧ KeyedFor (onProof addressed) 1 ⟨.hbm, 0x10008⟩ :=
  ⟨rfl, fun _ => ⟨rfl, rfl⟩⟩

/-- A form that a thread of a state can execute, with what it needs of its address and operation. -/
def Accessing (s : State) (tid : Nat) (i : Instr) (P : MemForm → Prop) : Prop :=
  ∃ f, memForm (s.thread tid) i = some f ∧ wellFormed i = true ∧ Able s tid f.spec ∧ f.release = false ∧ P f

/-- The same thread, its unit's TLB holding a leaf for the page of its address. -/
def withLeaf (leaf : Word) : State := { onProof addressed with tlbs := [(96, [⟨1, 0x10000, 0, leaf⟩])] }

set_option maxRecDepth 20000 in
/-- O8: addresses above the address space and misaligned ones; leaves without R, without W, without U, and of no memory type; the
first offsets beyond a group's range and a scratchpad; the ends of both empty ranges; the windows of a tile without a
group and of another address space; and a poisoned line met by a load and by an atomic. -/
theorem witness_accessFaults :
    Accessing (onProof (withRegs [(2, 0x0200000000000000)])) 0 (.ldDShort 1 2 0) (fun f => 2 ^ 57 ≤ f.va.toNat) ∧
    (∀ a ∈ [(0x10009 : Word), 0x01FFFFFFFFFFFFFF], Accessing (onProof (withRegs [(2, a)])) 0 (.ldDShort 1 2 0) fun f =>
      f.va.toNat < 2 ^ 57 ∧ f.va.toNat % f.size ≠ 0) ∧
    (∀ x ∈ [((0x1003B : Word), Instr.ldDShort 1 2 0), (0x10037, .stDShort 1 2 0), (0x1001F, .ldDShort 1 2 0),
      (0x100FF, .ldDShort 1 2 0)], Accessing (withLeaf x.1) 0 x.2 fun f => f.va.toNat < 0x01E0000000000000 ∧
        f.va.toNat % f.size = 0 ∧ ∃ level e, (withLeaf x.1).tlbLookup 96 1 f.va.toNat = some (level, e) ∧
          LeafRefuses e f.need false) ∧
    Accessing (onTile (withRegs [(2, 0x01E0000001740000)]) default) 65536 (.ldDShort 1 2 0) (fun f =>
      scratchBytes (onTile thread0 default) 0 < f.va.toNat - 0x01E0000000000000 + f.size) ∧
    Accessing (onProof (withRegs [(2, 0x01E0000000001000)])) 0 (.stDShort 1 2 0) (fun f =>
      4096 < f.va.toNat - 0x01E0000000000000 + f.size) ∧
    (∀ a ∈ [(0x01E0000002000000 : Word), 0x01EFFFFFFFFFFFF8], Accessing (onProof (withRegs [(2, a)])) 0 (.ldDShort 1 2 0) fun f =>
      0x01E0000002000000 ≤ f.va.toNat ∧ f.va.toNat < 0x01F0000000000000) ∧
    Accessing (onTile (withRegs [(2, 0x01F0000001740000)]) default) 65536 (.ldDShort 1 2 0) (fun f =>
      scratchBytes (onTile thread0 default) 0 < f.va.toNat - 0x01F0000000000000 + f.size) ∧
    (Accessing (onProof (withRegs [(2, 0x01F00000BE000000)])) 0 (.ldDShort 1 2 0) (fun f =>
      (f.va.toNat - 0x01F0000000000000) / 0x02000000 = 95) ∧ ((onProof thread0).tile 95).group = 0) ∧
    (∀ a ∈ [(0x01F00000C0000000 : Word), 0x01FFFFFFFFFFFFF8], Accessing (onProof (withRegs [(2, a)])) 0 (.ldDShort 1 2 0) fun f =>
      0x01F00000C0000000 ≤ f.va.toNat ∧ f.va.toNat < 2 ^ 57) ∧
    ∀ i ∈ [Instr.ldDShort 1 2 0, .atom always 0 1 2 3 0 true 0],
      let s : State := { onProof addressed with poison := [(0x200, true)] }
      Accessing s 0 i fun f => f.op ≠ .store ∧ s.resolve (s.who 0) f.need f.va.toNat f.size = .at ⟨.hbm, 0x10008⟩ ∧
        Immediate s 0 (f.access s 0 ⟨.hbm, 0x10008⟩) ∧ s.poisoned ⟨.hbm, 0x10008⟩ = true := by
  refine ⟨⟨_, rfl, rfl, able_of_canExecute rfl, rfl, by decide⟩, ?_, ?_, ⟨_, rfl, rfl, able_of_canExecute rfl, rfl, by decide⟩,
    ⟨_, rfl, rfl, able_of_canExecute rfl, rfl, by decide⟩, ?_, ⟨_, rfl, rfl, able_of_canExecute rfl, rfl, by decide⟩,
    ⟨⟨_, rfl, rfl, able_of_canExecute rfl, rfl, by decide⟩, rfl⟩, ?_, ?_⟩
  on_goal 2 =>
    refine List.forall_mem_cons.2 ⟨⟨_, rfl, rfl, able_of_canExecute rfl, rfl, by decide, by decide, _, _, rfl, .inl (by decide)⟩,
      List.forall_mem_cons.2 ⟨⟨_, rfl, rfl, able_of_canExecute rfl, rfl, by decide, by decide, _, _, rfl, .inr (.inl (by decide))⟩,
      List.forall_mem_cons.2 ⟨⟨_, rfl, rfl, able_of_canExecute rfl, rfl, by decide, by decide, _, _, rfl,
        .inr (.inr (.inl (by decide)))⟩, List.forall_mem_cons.2 ⟨⟨_, rfl, rfl, able_of_canExecute rfl, rfl, by decide, by decide, _, _,
          rfl, .inr (.inr (.inr (by decide)))⟩, fun _ h => absurd h List.not_mem_nil⟩⟩⟩⟩
  on_goal 4 =>
    refine List.forall_mem_cons.2 ⟨⟨_, rfl, rfl, able_of_canExecute rfl, rfl, by decide, rfl, ⟨.inl rfl, rfl, rfl, rfl, .inr rfl⟩, rfl⟩,
      List.forall_mem_cons.2 ⟨⟨_, rfl, rfl, able_of_canExecute rfl, rfl, by decide, rfl, ⟨.inl rfl, rfl, rfl, rfl, .inr rfl⟩, rfl⟩,
        fun _ h => absurd h List.not_mem_nil⟩⟩
  all_goals
    refine List.forall_mem_cons.2 ⟨⟨_, rfl, rfl, able_of_canExecute rfl, rfl, by decide⟩, List.forall_mem_cons.2
      ⟨⟨_, rfl, rfl, able_of_canExecute rfl, rfl, by decide⟩, fun _ h => absurd h List.not_mem_nil⟩⟩

/-- O9. -/
theorem witness_fence : ∀ i ∈ [Instr.fenceFull always, .fenceAcq always, .fenceRel always],
    Met fenceEffect (onProof thread0) 0 i := by
  refine List.forall_mem_cons.2 ⟨met_of rfl rfl rfl (performed_of rfl), List.forall_mem_cons.2 ⟨met_of rfl rfl rfl trivial,
    List.forall_mem_cons.2 ⟨met_of rfl rfl rfl (performed_of rfl), fun _ h => absurd h List.not_mem_nil⟩⟩⟩

/-- O9: FENCE.port with a command outstanding nowhere but complete. -/
theorem witness_fencePort : Met fenceEffect (onProof { thread0 with ports := [(3, [⟨0, true, 5⟩])] }) 0 (.fencePort always) :=
  met_of rfl rfl rfl (by decide)

/-- O10. -/
theorem witness_prefetch : wellFormed (.pref 1 2 0) = true ∧
    Able (onProof addressed) 0 { reads := [2], accept := hintPrefix } := ⟨rfl, able_of_canExecute rfl⟩

/-- O11: MON of the last byte of a block, and MWAIT with a monitor not armed, triggered, and neither. -/
theorem witness_monitor :
    (let s := onProof (withRegs [(2, 0x1007F)])
     Able s 0 { guard := some always, reads := [2] } ∧ s.resolve (s.who 0) { r := true } 0x1007F 1 = .at ⟨.hbm, 0x1007F⟩ ∧
     s.poisoned ⟨.hbm, 0x1007F⟩ = false ∧ s.readHeld (s.who 0) ⟨.hbm, 0x10000⟩ = false ∧ s.watchedVa 1 0x1007F = false) ∧
    Able (onProof thread0) 0 { guard := some always } ∧
    Able (onProof { thread0 with mon := ⟨true, true, ⟨.hbm, 0x10000⟩, 0x10000, []⟩ }) 0 { guard := some always } ∧
    Able (onProof { thread0 with mon := ⟨true, false, ⟨.hbm, 0x10000⟩, 0x10000, []⟩ }) 0 { guard := some always } :=
  ⟨⟨able_of_canExecute rfl, by decide, rfl, by decide, rfl⟩, able_of_canExecute rfl, able_of_canExecute rfl,
   able_of_canExecute rfl⟩

/-! ## Control flow, CSRs, ports, patterns, lanes, the tile -/

/-- O12: branches, calls and jumps to a multiple of 4, and a loop entered and skipped. -/
theorem witness_flow : ∀ i ∈ [Instr.nop always, .bra always 0x3FFFF, .call always 0x20000, .callr always 1 2, .jmpr always 2,
    .ret always 2, .loop always 2 1, .loop always 3 0x7FFFFFFF], Met flowEffect (onProof addressed) 0 i := by
  refine List.forall_mem_cons.2 ⟨met_of rfl rfl rfl trivial, List.forall_mem_cons.2 ⟨met_of rfl rfl rfl trivial,
    List.forall_mem_cons.2 ⟨met_of rfl rfl rfl trivial, ?_⟩⟩⟩
  repeat (refine List.forall_mem_cons.2 ⟨met_of rfl rfl rfl (by decide), ?_⟩)
  exact fun _ h => absurd h List.not_mem_nil

/-- O12: LEND at the end of its last trip and of an earlier one, above another loop. -/
theorem witness_loopEnd :
    Met flowEffect (onProof { thread0 with loops := [⟨0xFF00, 0x10000, 1⟩, ⟨0x8000, 0x20000, 7⟩] }) 0 (.lend always) ∧
    Met flowEffect (onProof { thread0 with loops := [⟨0x8000, 0x20000, 7⟩, ⟨0xFF00, 0x10000, 2⟩] }) 0 (.lend always) :=
  ⟨met_of rfl rfl rfl trivial, met_of rfl rfl rfl trivial⟩

/-- A control core's thread at level S. -/
def handler : Thread := { thread0 with prv := true }

/-- O13: every CSR is read, and written at level S with a legal value. -/
theorem witness_csr : ∀ n ∈ csrNumbers, Met csrEffect (onTile handler default) 65536 (.csrr always 1 (BitVec.ofNat 12 n)) ∧
    Met csrEffect (onTile handler default) 65536 (.csrw always 2 (BitVec.ofNat 12 n)) ∧
    Met csrEffect (onTile handler default) 65536 (.csrs always 2 (BitVec.ofNat 12 n)) := by
  unfold csrNumbers
  repeat (refine List.forall_mem_cons.2 ⟨⟨met_of rfl rfl rfl trivial, met_of rfl rfl rfl (by decide),
    met_of rfl rfl rfl (by decide)⟩, ?_⟩)
  exact fun _ h => absurd h List.not_mem_nil

/-- O13: the CSRs that report the machine around a thread, of a control core and of a proof core. -/
theorem witness_csrFields : ∀ n ∈ [0x000, 0x006, 0x020, 0x031, 0x041, 0x050, 0x051, 0x060, 0x061, 0x062, 0x070],
    (csrFields (onTile handler default) 65631 n).isSome = true ∧ (csrFields (onProof thread0) 0 n).isSome = true := by decide

/-- O13: level U writes c.fmode with the highest rounding mode, c.flags and c.rkey. -/
theorem witness_csrUser : Met csrEffect (onProof (withRegs [(2, 9)])) 0 (.csrw always 2 0x010) ∧
    Met csrEffect (onProof (withRegs [(2, 31)])) 0 (.csrw always 2 0x011) ∧
    Met csrEffect (onProof (withRegs [(2, 31)])) 0 (.csrs always 2 0x022) :=
  ⟨met_of rfl rfl rfl (by decide), met_of rfl rfl rfl (by decide), met_of rfl rfl rfl (by decide)⟩

/-- A control core whose wave binds port 63 to strip X of its own tile (E8). -/
def withPort (l : List PortSlot) : State := { onTile { thread0 with ports := [(63, l)] } default with
  waves := [(1, { (default : Wave) with
    state := .running, asid := 1, groups := 1, placedOnce := true
    node := { (default : Node) with ports := [(63, 0xFF800000)] } })] }

/-- O14: a push with seven commands outstanding, a busy port, a result that is there, and the counts. -/
theorem witness_port : Met portEffect (withPort (List.replicate 7 ⟨0, false, 0⟩)) 65536 (.enqp always 1 2 63) ∧
    Met portEffect (withPort (List.replicate 7 ⟨0, false, 0⟩)) 65536 (.enqpNb always 1 1 2 63) ∧
    Met portEffect (withPort (List.replicate 8 ⟨0, false, 0⟩)) 65536 (.enqpNb always 1 1 2 63) ∧
    Met portEffect (withPort [⟨0, true, 7⟩]) 65536 (.deqp always 1 63) ∧
    Met portEffect (withPort [⟨0, true, 7⟩]) 65536 (.portq always 1 63) :=
  ⟨met_of rfl rfl rfl ⟨⟨by decide, fun _ => rfl, .inl ⟨rfl, by decide⟩⟩, by decide, performed_of rfl, .inl (by decide)⟩,
   met_of rfl rfl rfl ⟨⟨by decide, fun _ => rfl, .inl ⟨rfl, by decide⟩⟩, performed_of rfl, .inl (by decide)⟩,
   met_of rfl rfl rfl ⟨by decide, fun _ => rfl, .inl ⟨rfl, by decide⟩⟩,
   met_of rfl rfl rfl ⟨by decide, rfl, by decide⟩, met_of rfl rfl rfl trivial⟩

/-- The image of a pattern of one source whose only cell adds zero to it (Tables 17.1 to 17.4). -/
def image1 : List Byte := leBytes 8 0x110001 ++ leBytes 8 1 ++ leBytes 8 0x0880000000000000 ++ List.replicate 184 0

/-- A proof thread with the pattern in slot 15 of its group. -/
def withPattern : State := { onProof addressed with
  groups := [(1024, { (default : Group) with
    unit := 96, placed := true, started := true, threads := 1, gmSize := 4096, patterns := [(15, ⟨true, image1, 0, 0, false⟩)] })] }

/-- O15. -/
theorem witness_tatting : Met tattingEffect withPattern 0 (.patdr always 15) ∧
    Met tattingEffect withPattern 0 (.patq always 1 15) ∧ Met tattingEffect withPattern 0 (.patq always 1 0) ∧
    Met tattingEffect withPattern 0 (.xop always 1 2 3 4 15) :=
  ⟨met_of rfl rfl rfl ⟨rfl, rfl⟩, met_of rfl rfl rfl trivial, met_of rfl rfl rfl trivial,
   met_of rfl rfl (by decide) ⟨rfl, by decide⟩⟩

/-- A proof thread of a wave that declares six register blocks. -/
def withBlocks (held : BitVec 6) : State := { onProof { thread0 with held := held } with
  waves := [(1, { (default : Wave) with
    state := .running, asid := 1, groups := 1, placedOnce := true, node := { (default : Node) with place := 0x600000000 } })] }

/-- O16: blocks 0 and 5, held, free and not held. -/
theorem witness_lane : Met laneEffect (onProof addressed) 0 (.flrd always 1) ∧
    Met laneEffect (onProof addressed) 0 (.flcl always 2) ∧ Met laneEffect (onProof addressed) 0 (.gangq always 1) ∧
    Met laneEffect (withBlocks 0x20) 0 (.rbget always 5) ∧ Met laneEffect (withBlocks 0x1F) 0 (.rbget always 5) ∧
    Met laneEffect (withBlocks 0x3E) 0 (.rbput always 0) ∧
    Able (withBlocks 0x20) 0 { guard := some always, kind := .proof } ∧ ((withBlocks 0x20).thread 0).held.getLsbD 5 = true :=
  ⟨met_of rfl rfl rfl trivial, met_of rfl rfl rfl trivial, met_of rfl rfl rfl trivial, met_of rfl rfl rfl (by decide),
   met_of rfl rfl rfl (by decide), met_of rfl rfl rfl (by decide), able_of_canExecute rfl, by decide⟩

/-- O17: layout fields at the edges of the table with values at the edge of their width, FORK of the first and last engine,
a token pushed at 14, and RDV of two engines' tokens. -/
theorem witness_strandControl :
    Met strandEffect (onTile (withRegs [(2, 0xFFFFFFFF)]) default) 65536 (.lld always 15 2 3) ∧
    Met strandEffect (onTile (withRegs [(2, 0xFFFFFFFF)]) default) 65536 (.lset always 15 2 0) ∧
    Met strandEffect (onTile (withRegs [(2, 0xFFF)]) default) 65536 (.lset always 0 2 8) ∧
    Met strandEffect (onTile thread0 default) 65536 (.lget always 1 15 8) ∧
    Met strandEffect (onTile thread0 default) 65536 (.lmov always 15 0) ∧
    Met strandEffect (onTile addressed { (default : Tile) with hoops := [(0, { (default : Hoop) with present := true })] }) 65536
      (.fork always 2 1) ∧
    Met strandEffect (onTile addressed default) 65536 (.fork always 2 9) ∧
    Met strandEffect (onTile thread0 { (default : Tile) with tokens := [(9, 14)] }) 65536 (.forkToken always 9) ∧
    Met strandEffect (onTile thread0 { (default : Tile) with tokens := [(16, 1), (144, 15)] }) 65536 (.rdv always 0x101) :=
  ⟨met_of rfl rfl rfl trivial, met_of rfl rfl rfl (by decide), met_of rfl rfl rfl (by decide), met_of rfl rfl rfl trivial,
   met_of rfl rfl rfl trivial, met_of rfl rfl rfl ⟨by decide, fun _ => rfl, rfl, performed_of rfl⟩,
   met_of rfl rfl rfl ⟨by decide, fun h => absurd h (by decide), rfl, performed_of rfl⟩,
   met_of rfl rfl rfl ⟨by decide, performed_of rfl⟩,
   met_of rfl rfl rfl (by decide)⟩

/-- A template or pattern image in the thread's own memory, at offset 0. -/
def withImage (s : State) (space : Space) (bs : List Byte) : State := s.setBytes ⟨space, 0⟩ bs

/-- O18: TMLD for the first and last engine, with the image in the tile's scratchpad. -/
theorem witness_templateLoad : ∀ e ∈ [(1 : BitVec 6), 9],
    let s := withImage (onTile (withRegs [(2, 0x01E0000000000000)]) default) (.sp 0) (leBytes 32 0x20C)
    ∃ r bs, wellFormed (.tmld always 63 2 e) = true ∧
      Able s 65536 { guard := some always, kind := .control, reads := [2], noHandler := true } ∧ 1 ≤ e.toNat ∧ e.toNat ≤ 9 ∧
      ((s.thread 65536).rd 2).toNat % 32 = 0 ∧ (s.engine (tileOf 65536) e.toNat).strand = none ∧
      s.readPlain 65536 ((s.thread 65536).rd 2).toNat true 32 = .ok r bs := by
  repeat (refine List.forall_mem_cons.2 ⟨⟨_, _, rfl, able_of_canExecute rfl, by decide, by decide, by decide, rfl, rfl⟩, ?_⟩)
  exact fun _ h => absurd h List.not_mem_nil

set_option maxRecDepth 100000 in
/-- O18: PATLD of a legal image, with it in the group's memory. -/
theorem witness_patternLoad :
    let s := withImage (onProof (withRegs [(2, 0x01E0000000000000)])) (.gm 0) image1
    ∃ r q head rest, wellFormed (.patld always 2 15) = true ∧ Able s 0 { guard := some always, reads := [2], tat := true } ∧
      (s.thread 0).wait = none ∧ ((s.thread 0).rd 2).toNat % 16 = 0 ∧
      s.readPlain 0 ((s.thread 0).rd 2).toNat true 16 = .ok r head ∧
      r.readPlain 0 (((s.thread 0).rd 2).toNat + 16) true (patBytes head - 16) = .ok q rest ∧ patCheck (head ++ rest) = none ∧
      q.slotBound (unitOf 0) 15 = false ∧ (((q.group (s.thread 0).gid).patterns.get 15).valid = true ∨
        (q.group (s.thread 0).gid).unit < 96 ∨ (q.storeEntries (q.group (s.thread 0).gid).unit).length < 64) :=
  ⟨_, _, _, _, rfl, able_of_canExecute rfl, rfl, by decide, rfl, rfl, by decide, rfl, .inr (.inr (by decide))⟩

/-- O19: name words of the own tile; a count at its threshold (g3), one below it (g6), and a sum that just fits. -/
theorem witness_semaphore :
    let s := onTile (withRegs [(2, 0x1803F), (3, 5), (4, 0x803F), (5, 0xFFFFFA), (6, 6)]) { (default : Tile) with sems := [(63, 5)] }
    s.semName 65536 ((s.thread 65536).rd 2).toNat false = .at 0 63 ∧ ((s.semFlush 0).tile 0).sems.get 63 = 5 ∧
    (s.semFlush 0).semHeld 0 (unitOf 65536 != 0) = false ∧ s.semName 65536 ((s.thread 65536).rd 4).toNat true = .at 0 63 ∧
    ((s.semFlush 0).tile 0).sems.get 63 + ((s.thread 65536).rd 5).toNat < 2 ^ 24 ∧ AllPerformed s 65536 ∧
    OpenWay s 65536 0 ∧ Able s 65536 { guard := some always, reads := [2, 3] } ∧
    Able s 65536 { guard := some always, reads := [2, 6] } ∧ Able s 65536 { guard := some always, reads := [4, 5] } :=
  ⟨by decide, by decide, by decide, by decide, by decide, performed_of rfl, .inl (by decide), able_of_canExecute rfl,
   able_of_canExecute rfl, able_of_canExecute rfl⟩


/-! ## Traps, gathering, collectives, the life of threads and waves -/

/-- O20, O22: TRAP and BRK at level U on a control core, whose tile stops with it, and at level S. -/
theorem witness_traps : (Able (onTile thread0 default) 65536 { guard := some always, transfer := true } ∧
      ((onTile thread0 default).thread 65536).prv = false ∧ wellFormed (.trap always 63) = true ∧
      wellFormed (.brk always) = true) ∧
    Able (onTile handler default) 65536 { guard := some always, transfer := true } ∧
    ((onTile handler default).thread 65536).prv = true :=
  ⟨⟨able_of_canExecute rfl, rfl, rfl, rfl⟩, able_of_canExecute rfl, rfl⟩

/-- A strand of engine 9 of tile 0 at an address, with what its tile holds. -/
def onStrand (st : Strand) (g : Engine) : State := onEngine 9 { g with strand := some st }

/-- O21: a thread at level U, and a strand. -/
theorem witness_illegal : ((onProof thread0).cur = .thread 0 ∧ (onProof thread0).mayIssue 0 = true ∧
      ((onProof thread0).thread 0).prv = false) ∧
    (onStrand default default).cur = .engine 0 9 ∧ ((onStrand default default).engine 0 9).strand.isSome = true := by decide

/-- O22, O23: HALT and TRET of a handler; of a proof core and of a control core, whose engines go on from their cut. -/
theorem witness_handler :
    Able (onTile handler default) 65536 { guard := some always, transfer := true, privileged := true } ∧
    Able (onProof handler) 0 { guard := some always, transfer := true, privileged := true } ∧
    wellFormed (.halt always) = true ∧ wellFormed (.tret always) = true :=
  ⟨able_of_canExecute rfl, able_of_canExecute rfl, rfl, rfl⟩

/-- O24: a first and a second prefix word, and an instruction whose guard, predicate 7 negated, is false. -/
theorem witness_prefixGuard : ((onProof thread0).mayIssue 0 = true ∧ ((onProof thread0).thread 0).pfx.length < 2) ∧
    ((onProof { thread0 with pfx := [0x80000000] }).thread 0).pfx.length < 2 ∧
    (∃ e, (intEffect (onProof { thread0 with q := 0x80 }) 0 (.add ⟨7, true⟩ 1 2 3) <|> predEffect
      (onProof { thread0 with q := 0x80 }) 0 (.add ⟨7, true⟩ 1 2 3) <|> floatEffect
      (onProof { thread0 with q := 0x80 }) 0 (.add ⟨7, true⟩ 1 2 3)) = some e ∧ e.spec.guard = some ⟨7, true⟩) ∧
    (onProof { thread0 with q := 0x80 }).mayIssue 0 = true ∧
    ((onProof { thread0 with q := 0x80 }).thread 0).guard ⟨7, true⟩ = false :=
  ⟨by decide, by decide, ⟨_, rfl, rfl⟩, by decide, by decide⟩

/-- O24: each other guarded form of a proof core and of a control core, where predicate 7 negated is false; and ADD after a prefix it
accepts. -/
theorem witness_guardFalse : (∀ i ∈ [Instr.lend ⟨7, true⟩, .trap ⟨7, true⟩ 0, .brk ⟨7, true⟩, .exit ⟨7, true⟩, .tret ⟨7, true⟩,
      .halt ⟨7, true⟩, .mon ⟨7, true⟩ 2, .mwait ⟨7, true⟩, .semwait ⟨7, true⟩ 1 2, .semsig ⟨7, true⟩ 1 2, .deqp ⟨7, true⟩ 1 3,
      .rbput ⟨7, true⟩ 0, .tex ⟨7, true⟩ 8 2 3 4, .texg ⟨7, true⟩ 8 2 3 4 0, .texq ⟨7, true⟩ 1 2 3, .raybox ⟨7, true⟩ 4 2 8 1,
      .raytri ⟨7, true⟩ 4 2 8 1, .rast ⟨7, true⟩ 1 2 3, .bary ⟨7, true⟩ 1 2 3, .spawn ⟨7, true⟩ 2, .tenq ⟨7, true⟩ 1 2 3,
      .patld ⟨7, true⟩ 2 3],
      let s := onProof { thread0 with q := 0x80, prv := true }
      ∃ n x, guardedForm i = some (n, x) ∧ x.guard = some ⟨7, true⟩ ∧ wellFormed i = true ∧ x.kind ≠ .control ∧
        s.mayIssue 0 = true ∧ s.feature 3 = true ∧ (s.thread 0).guard ⟨7, true⟩ = false) ∧
    (∀ i ∈ [Instr.halloc ⟨7, true⟩ 7 3 2, .hfree ⟨7, true⟩ 2, .hrsh ⟨7, true⟩ 4 2 3, .eres ⟨7, true⟩ 4 2 3, .erel ⟨7, true⟩ 2,
      .eset ⟨7, true⟩ 2 3, .tmld ⟨7, true⟩ 1 2 3, .lset ⟨7, true⟩ 1 2 3, .lget ⟨7, true⟩ 1 2 3, .ssync ⟨7, true⟩],
      let s := onTile { thread0 with q := 0x80 } default
      ∃ n x, guardedForm i = some (n, x) ∧ x.guard = some ⟨7, true⟩ ∧ wellFormed i = true ∧ x.kind ≠ .proof ∧
        s.mayIssue 65536 = true ∧ (s.thread 65536).guard ⟨7, true⟩ = false) ∧
    ∃ n x, formOf (onProof { thread0 with q := 0x80, pfx := [0x87400000] }) 0 (.add ⟨7, true⟩ 1 2 3) = some (n, x) ∧
      firstBadPrefix [0x87400000] = none ∧ accepts x.accept 0x87400000 = true := by
  refine ⟨?_, ?_, ⟨_, _, rfl, by decide, by decide⟩⟩
  all_goals
    repeat (refine List.forall_mem_cons.2 ⟨⟨_, _, rfl, by decide⟩, ?_⟩)
    exact fun _ h => absurd h List.not_mem_nil

/-- O24: a prefix of no kind, a refused field, a repeated kind and a third word; a prefix before a branch, and one that AND does
not accept. -/
theorem witness_badPrefix : (∀ x ∈ [([0x98000000], (0x98000000 : BitVec 32)), ([0x90000000, 0x85000000], 0x85000000),
      ([0x87000000, 0x87400000], 0x87400000), ([0x87000000, 0x88000000, 0x90000000], 0x90000000)],
      firstBadPrefix x.1 = some x.2) ∧
    (prologue (onProof thread0) 0 (.and always 1 2 3)).isSome = true ∧
    (∃ x, prologue (onProof thread0) 0 (.bra always 4) = some x ∧ x.transfer = true) ∧
    firstBadPrefix [0x90000000] = none ∧ firstBadPrefix [0x87000000] = none ∧
    ∃ x, prologue (onProof { thread0 with pfx := [0x87000000] }) 0 (.and always 1 2 3) = some x ∧
      accepts x.accept 0x87000000 = false :=
  ⟨by decide, rfl, ⟨_, rfl, rfl⟩, by decide, by decide, ⟨_, rfl, by decide⟩⟩

/-- O25: a thread at level U and each privileged form. -/
theorem witness_privileged : ((onProof thread0).mayIssue 0 = true ∧ ((onProof thread0).thread 0).pfx = [] ∧
      ((onProof thread0).thread 0).prv = false) ∧ csrSystem 0x000 = true ∧ csrSystem 0x001 = true := by decide

/-- O26: a register of a block not held among those read (the value of a store, the source of a shuffle) and among those
written, and a pending register of a control core. -/
theorem witness_registerFaults : (∀ x ∈ [(Instr.add always 1 16 63, (16 : BitVec 6)), (.add always 63 1 2, 63),
      (.ffma always 0 17 1 2, 17), (.stIndexed always 3 24 1 2, 24), (.cas always 0 16 2 3 0 true, 16),
      (.shfl always 3 56 6 7, 56)], ∃ p, prologue (onProof thread0) 0 x.1 = some p ∧ wellFormed x.1 = true ∧
      Reaches (onProof thread0) 0 p ∧ (p.reads ++ p.writes).find? (fun r => !isControl 0 && (decide (16 ≤ r.toNat) &&
        !((onProof thread0).thread 0).held.getLsbD ((r.toNat - 16) / 8))) = some x.2) ∧
    let s := onTile { thread0 with pend := [(1, 5), (63, 7)] } default
    ∀ x ∈ [(Instr.add always 1 2 63, (63 : BitVec 6)), (.cas always 0 1 2 3 0 true, 1), (.lld always 15 1 3, 1)],
      ∃ p, prologue s 65536 x.1 = some p ∧ wellFormed x.1 = true ∧ Reaches s 65536 p ∧
        p.reads.find? (fun y => decide (y ≠ 0) && decide ((s.thread 65536).pend.get y.toNat ≠ 0)) = some x.2 := by
  constructor
  · repeat (refine List.forall_mem_cons.2 ⟨⟨_, rfl, rfl, ⟨rfl, by decide, by decide, by decide, by decide, by decide, by decide, rfl⟩,
      by decide⟩, ?_⟩)
    exact fun _ h => absurd h List.not_mem_nil
  · repeat (refine List.forall_mem_cons.2 ⟨⟨_, rfl, rfl, ⟨rfl, by decide, by decide, by decide, by decide, by decide, by decide, rfl⟩,
      by decide⟩, ?_⟩)
    exact fun _ h => absurd h List.not_mem_nil

/-- A proof thread with a pattern in slot 15 of its group. -/
def patterned (t : Thread) (img : List Byte) : State := { onProof t with
  groups := [(1024, { (default : Group) with
    unit := 96, placed := true, started := true, threads := 1, patterns := [(15, ⟨true, img, 0, 0, false⟩)] })] }

/-- The image above with two results. -/
def image2 : List Byte := leBytes 8 0x150001 ++ image1.drop 8

/-- O26: XOP on an empty slot; with a source not held and a pending one; and of two results with an odd register, and with a
destination not held. -/
theorem witness_xopFaults : wellFormed (.xop always 17 16 3 4 15) = true ∧
    (∀ s ∈ [onProof thread0, patterned thread0 image1, patterned { thread0 with pend := [(2, 5)] } image1, patterned thread0 image2],
      Reaches s 0 { guard := some always, kind := .proof, tat := true }) ∧
    (((onProof thread0).group ((onProof thread0).thread 0).gid).patterns.get 15).valid = false ∧
    (((patterned thread0 image1).group 1024).patterns.get 15).valid = true ∧
    ([16, 3, 4] : List (BitVec 6)).take (patNsrc image1) = [16] ∧ patTwo image1 = false ∧ patTwo image2 = true ∧
    (thread0.held.getLsbD ((16 - 16) / 8) = false) ∧ (17 : BitVec 6).getLsbD 0 = true ∧ (16 : BitVec 6).getLsbD 0 = false := by
  refine ⟨rfl, ?_, rfl, rfl, by decide, by decide, by decide, rfl, rfl, rfl⟩
  repeat (refine List.forall_mem_cons.2 ⟨⟨rfl, by decide, by decide, by decide, by decide, by decide, by decide, rfl⟩, ?_⟩)
  exact fun _ h => absurd h List.not_mem_nil

/-- Two threads of one group in lanes 0 and 31 of core 0; thread 0 has the turn and the other stands at `w`. -/
def pair (t : Thread) (w : Wait) (pc : Word) : State :=
  { (onProof t).setThread 31 { thread0 with wait := some w, pc := pc } with
    groups := [(1024, { (default : Group) with unit := 96, placed := true, started := true, threads := 2, gmSize := 4096 })] }

/-- O27: each gathering form, with the other thread of the group elsewhere. -/
theorem witness_gathering : ∀ i ∈ [Instr.divb always 0x20000, .join always, .vote always 7 1 true 0 0xFFFFFFFF,
    .vote always 8 7 false 3 1, .shfl always 4 5 6 0x80000000, .redx always 4 5 0 0 0xFFFFFFFF, .redx always 4 7 1 2 0,
    .redx always 4 0 2 7 3, .redx always 4 5 0 10 3], ∃ n x w, gatherForm ((pair thread0 .fence 0x20000).thread 0) i = some (n, x, w) ∧
      wellFormed i = true ∧ Able (pair thread0 .fence 0x20000) 0 x ∧ Alone (pair thread0 .fence 0x20000) 0 ∧
      ((pair thread0 .fence 0x20000).thread 0).granted = false := by
  repeat (refine List.forall_mem_cons.2 ⟨⟨_, _, _, rfl, rfl, able_of_canExecute rfl, .inl rfl, rfl⟩, ?_⟩)
  exact fun _ h => absurd h List.not_mem_nil

/-- O28: the other thread of the group stands at the same DIVB with its branch not taken, or at the same JOIN. -/
theorem witness_releases :
    (let s := pair thread0 (.divb false 0x20000) 0x10000
     let p := s.waits 0 1 (.divb true (0x10000 + 4 * (0x20000 : BitVec 18).signExtend 64))
     p.members 1024 = [0, 31] ∧ (p.thread 0).wait = some (.divb true (0x10000 + 4 * (0x20000 : BitVec 18).signExtend 64)) ∧
       (p.thread 31).wait = some (.divb false 0x20000) ∧ ∀ m ∈ p.members 1024, (p.thread m).granted = false ∧
         (p.thread m).pc = 0x10000) ∧
    Able (pair thread0 (.divb false 0x20000) 0x10000) 0 { kind := .proof, transfer := true } ∧
    (∀ m ∈ ((pair thread0 .join 0x10000).waits 0 1 .join).members 1024,
      (((pair thread0 .join 0x10000).waits 0 1 .join).thread m).wait = some .join ∧
      (((pair thread0 .join 0x10000).waits 0 1 .join).thread m).granted = false ∧
      (((pair thread0 .join 0x10000).waits 0 1 .join).thread m).pc = 0x10000) ∧
    Able (pair thread0 .join 0x10000) 0 { guard := some always, kind := .proof } ∧
    (pair thread0 .join 0x10000).det 0 = false ∧ (pair thread0 .join 0x10000).recorded 0 = false :=
  ⟨by decide, able_of_canExecute rfl, by decide, able_of_canExecute rfl, rfl, rfl⟩

/-- Every other lane's thread stands at the collective, when a check of the lanes says so. -/
theorem laneWaits {s : State} {i : Instr} (h : ∀ l < 32, l ≠ 0 →
    (lane s 0 l).all (fun u => decide (u.wait = some (.collective i) ∧ u.pc = (s.thread 0).pc)) = true) (l : Nat) (hl : l < 32)
    (h0 : l ≠ 0) (u : Thread) (hu : lane s 0 l = some u) : u.wait = some (.collective i) ∧ u.pc = (s.thread 0).pc := by
  have := h l hl h0
  rw [hu] at this
  exact of_decide_eq_true this

/-- O29: each collective with the thread it names in lane 31 at the same instruction, and one that names only its own lane. -/
theorem witness_collective : ∀ i ∈ [Instr.vote always 7 1 true 0 0x80000001, .vote always 8 7 false 3 0x80000001,
    .shfl always 4 5 6 0x80000001, .redx always 4 5 0 0 0x80000001, .redx always 4 7 1 2 0, .redx always 4 0 2 7 0],
    let s := pair thread0 (.collective i) 0x10000
    ∃ x, gatherForm (s.thread 0) i = some (2, x, .collective i) ∧ wellFormed i = true ∧ Able s 0 x ∧ Alone s 0 ∧
      (s.thread 0).granted = false ∧ (s.thread 0).wdone = false ∧ (s.thread 0).step = false ∧
      ∀ l < 32, takesPart 0 (BitVec.ofNat 32 (collectiveMask i)) l = true → l ≠ 0 → ∀ u, lane s 0 l = some u →
        u.wait = some (.collective i) ∧ u.pc = (s.thread 0).pc := by
  repeat (refine List.forall_mem_cons.2 ⟨⟨_, rfl, rfl, able_of_canExecute rfl, .inl rfl, rfl, rfl, rfl,
    fun l hl _ h0 => laneWaits (by decide) l hl h0⟩, ?_⟩)
  exact fun _ h => absurd h List.not_mem_nil

/-- O30: a first WDONE on a proof core and on a control core, and one after the first; DFLUSH, YIELD, and GOVRD of the first
and last step and of the query. -/
theorem witness_life : (∀ i ∈ [Instr.wdone always, .dflush always, .yield always], Met lifeEffect (onProof thread0) 0 i) ∧
    Met lifeEffect (onTile thread0 default) 65536 (.wdone always) ∧
    Met lifeEffect (onProof { thread0 with wdone := true }) 0 (.wdone always) ∧
    (∀ v ∈ [(0 : Word), 63, 0xFFFFFFFFFFFFFFFF], Met lifeEffect (onProof (withRegs [(2, v)])) 0 (.govrd always 2)) := by
  refine ⟨?_, met_of rfl rfl rfl ⟨⟨rfl, rfl⟩, rfl, fun _ => by decide, performed_of rfl⟩, met_of rfl rfl rfl rfl, ?_⟩
  · exact List.forall_mem_cons.2 ⟨met_of rfl rfl rfl ⟨⟨rfl, rfl⟩, rfl, fun h => absurd h (by decide), performed_of rfl⟩,
      List.forall_mem_cons.2 ⟨met_of rfl rfl rfl ⟨rfl, rfl⟩, List.forall_mem_cons.2 ⟨met_of rfl rfl rfl rfl,
        fun _ h => absurd h List.not_mem_nil⟩⟩⟩
  · repeat (refine List.forall_mem_cons.2 ⟨met_of rfl rfl rfl ⟨rfl, by decide, performed_of rfl⟩, ?_⟩)
    exact fun _ h => absurd h List.not_mem_nil

/-- Two groups of wave 1 on tiles 0 and 1, the control cores of both at SSYNC. -/
def atSync (w : Wave) (g : Group) : State :=
  let t : Thread := { thread0 with wait := some (.ssync []), resume := 0x10008, arrived := if g.flushes = 0 then 0 else 1 }
  { upState with
    threads := [(65536, t), (65537, { t with gid := 1025 })]
    groups := [(1024, { g with unit := 0, placed := true, started := true, threads := 1 }),
      (1025, { g with unit := 1, placed := true, started := true, threads := 1 })]
    waves := [(1, { w with state := .running, asid := 1, groups := 2, placedOnce := true })] }

/-- A wave in deterministic mode. -/
def detWave : Wave := { (default : Wave) with node := { (default : Node) with ctl := 0x800000 } }

/-- O31: a control core that has not been granted its SSYNC; one that has, in a wave that does not record and in one whose
digest region is full; a wave both of whose groups meet it, not recording, replaying, and in deterministic mode; and
one in deterministic mode with fresh groups. -/
theorem witness_ssync : Able (onTile thread0 default) 65536 { guard := some always, kind := .control, noHandler := true } ∧
    (let s := onTile { thread0 with granted := true } default
     Able s 65536 { guard := some always, kind := .control, noHandler := true } ∧ (s.thread 65536).granted = true ∧
     s.recorded 65536 = false) ∧
    (let s : State := { onTile { thread0 with granted := true } default with
      waves := [(1, { (default : Wave) with state := .running, asid := 1, groups := 1, placedOnce := true, recMode := 1 })] }
     Able s 65536 { guard := some always, kind := .control, noHandler := true } ∧ (s.waveOfThread 65536).recMode = 1 ∧
     (s.records.get (s.waveOfThread 65536).asid).block.diglen.toNat <
       32 * ((s.records.get (s.waveOfThread 65536).asid).digests + 1)) ∧
    (∀ w ∈ [((default : Wave), (default : Group)), ({ (default : Wave) with recMode := 2 }, default),
        (detWave, { (default : Group) with flushes := 1 })],
      let s := atSync w.1 w.2
      s.openGroups 1 ≠ [] ∧ (s.wave 1).groups ≤ 1024 ∧ ∀ g ∈ s.openGroups 1, atSsync s g = true ∧
        (s.waveDet 1 = true → (s.thread (controlTid (s.group g).unit)).arrived = 1) ∧
        (s.thread (controlTid (s.group g).unit)).step = false) ∧
    let s := atSync detWave default
    s.waveDet 1 = true ∧ (∃ g ∈ s.openGroups 1, ¬ (atSsync s g = true ∧ (s.thread (controlTid (s.group g).unit)).arrived = 1)) ∧
      (s.openGroups 1).filter (fun g => atSsync s g && (s.thread (controlTid (s.group g).unit)).arrived == 0 &&
        decide ((s.group g).flushes ≤ (s.group g).epoch)) ≠ [] :=
  ⟨able_of_canExecute rfl, ⟨able_of_canExecute rfl, rfl, rfl⟩, ⟨able_of_canExecute rfl, rfl, by decide⟩, by decide, by decide⟩

/-- O32: on a control core with its engines idle, and on a proof core with a result still queued. -/
theorem witness_exit : (Able (onTile thread0 default) 65536 { guard := some always, transfer := true, noHandler := true } ∧
      (onTile thread0 default).tileIdle 0 = true ∧ (onTile thread0 default).recorded 65536 = false) ∧
    Able (onProof { thread0 with ports := [(0, [⟨0, true, 7⟩])] }) 0
      { guard := some always, transfer := true, noHandler := true } ∧
    ∀ p ∈ ((onProof { thread0 with ports := [(0, [⟨0, true, 7⟩])] }).thread 0).ports, ∀ x ∈ p.2, x.done = true :=
  ⟨⟨able_of_canExecute rfl, by decide, rfl⟩, able_of_canExecute rfl, by decide⟩

/-! ## The ready pool, hoops, assists -/

/-- O33: a node record that asks for one proof thread, in the thread's group memory (Tables 19.1 to 19.3: CTL with KIND and
SRAM 1, ID 7). -/
def withNode : State := ((withImage (onProof (withRegs [(2, 0x01E0000000000000)])) (.gm 0) (leBytes 8 0x1004000)).setBytes
  ⟨.gm 0, 40⟩ [7])

set_option maxRecDepth 100000 in
/-- O33. -/
theorem witness_spawn : ∃ r bs, Able withNode 0 { guard := some always, reads := [2] } ∧ wellFormed (.spawn always 2) = true ∧
    (withNode.thread 0).wait = none ∧ ((withNode.thread 0).rd 2).toNat % 128 = 0 ∧ (withNode.waveOfThread 0).depth ≠ 7 ∧
    AllPerformed withNode 0 ∧ withNode.readPlain 0 ((withNode.thread 0).rd 2).toNat true 640 = .ok r bs ∧
    r.reason1 (parseNode bs) = false ∧ (parseNode bs).reason2 = false ∧ (parseNode bs).reason3 = false ∧
    (parseNode bs).reason5 = false ∧ r.poolReason (parseNode bs) = none ∧ r.waves.length < 4096 :=
  ⟨_, _, able_of_canExecute rfl, rfl, rfl, by decide, by decide, performed_of rfl, rfl, by decide +kernel, by decide +kernel,
   by decide +kernel, by decide +kernel, by decide +kernel, by decide⟩

/-- A ring descriptor at 0x10000 of device memory: HEAD 5, TAIL, the ring at 0x10080, its capacity. -/
def withRing (tail cap : Nat) : State := ((((onProof (withRegs [(2, 0x10000), (3, 0x80)])).setBytes ⟨.hbm, 0x10000⟩ [5]).setBytes
  ⟨.hbm, 0x10008⟩ [BitVec.ofNat 8 tail]).setBytes ⟨.hbm, 0x10010⟩ (leBytes 4 0x10080)).setBytes ⟨.hbm, 0x10018⟩ (leBytes 4 cap)

set_option maxRecDepth 20000 in
/-- O34: a ring with room for one node, a full one, and capacities of 8 and 2^21 entries. -/
theorem witness_tenq : ∀ x ∈ [(20, 16), (21, 16), (5, 8), (5, 0x200000)],
    let s := withRing x.1 x.2
    let l : Loc := ⟨.hbm, 0x10000⟩
    (Able s 0 { guard := some always, reads := [2, 3], writes := [4] } ∧ wellFormed (.tenq always 4 2 3) = true ∧
      AllPerformed s 0 ∧ (s.thread 0).rd 2 &&& 0x7F = 0 ∧ ((s.thread 0).rd 3).toNat % 128 = 0) ∧
    s.resolve (s.who 0) { r := true, w := true } ((s.thread 0).rd 2).toNat 8 = .at l ∧ s.det 0 = false ∧ (s.thread 0).holds = 0 ∧
    s.watchedVa 1 0x10000 = false ∧ s.blocked (unitOf 0) l = false ∧ s.poisoned l = false ∧ Keyed s 0 l ∧ s.numAt l 8 = 5 ∧
    s.numAt (l.plus 8) 8 = x.1 ∧ s.numAt (l.plus 24) 4 = x.2 ∧
    ∃ r, s.resolve (s.who 0) { w := true } ((s.numAt (l.plus 16) 8 + x.1 % x.2 * 8) % 2 ^ 64) 8 = .at r ∧
      (recalled s 0 l).blocked 1000 r = false := by
  repeat (refine List.forall_mem_cons.2 ⟨⟨⟨able_of_canExecute rfl, rfl, performed_of rfl, by decide, by decide⟩, by decide, rfl, rfl,
    rfl, rfl, rfl, fun _ => ⟨rfl, rfl⟩, by decide, by decide, by decide, ⟨_, rfl, by decide⟩⟩, ?_⟩)
  exact fun _ h => absurd h List.not_mem_nil

/-- A tile with a hoop of shape Q, first quarter, on queue 0, one record in the easel, and a wave that has 64 KiB of it. -/
def withHoops (t : Thread) : State := { onTile t { (default : Tile) with
    hoops := [(0, { (default : Hoop) with present := true })]
    easel := [(0, BitVec.ofNat 64 (2 ^ 38 + 2 ^ 2))] } with
  waves := [(1, { (default : Wave) with
    state := .running, asid := 1, groups := 1, placedOnce := true, node := { (default : Node) with mem := 0x10000 } })] }

set_option maxRecDepth 20000 in
/-- O34: TENQ that deterministic mode buffers, and a ring in another package that has answered. -/
theorem witness_tenqMore : (let s := deterministic (withRing 20 16)
      Able s 0 { guard := some always, reads := [2, 3], writes := [4] } ∧ s.det 0 = true ∧
        s.resolve (s.who 0) { r := true, w := true } ((s.thread 0).rd 2).toNat 8 = .at ⟨.hbm, 0x10000⟩) ∧
    (⟨.peer 1, 0x10080⟩ : Loc).space.foreign = true ∧
    ({ withRing 20 16 with answers := [⟨.thread 0, (⟨.peer 1, 0x10080⟩ : Loc).key / 128⟩] } : State).peerAnswered (.thread 0)
      ⟨.peer 1, 0x10080⟩ = true :=
  ⟨⟨able_of_canExecute rfl, rfl, rfl⟩, rfl, by decide⟩

/-- O35: HALLOC of a quarter and of the last shape, which does not fit; HFREE; HRSH that frees and places; ERES of the least
and the greatest range; EREL that finds no command and one that began before now; ESET. -/
theorem witness_hoops :
    (∀ v ∈ [(0 : Word), 0x38, 7], Met hoopEffect (withHoops (withRegs [(2, v)])) 65536 (.halloc always 7 3 2)) ∧
    Met hoopEffect (withHoops (withRegs [(2, 0x8000)])) 65536 (.hfree always 2) ∧
    Met hoopEffect (withHoops (withRegs [(2, 0x8000), (3, 0x80038000)])) 65536 (.hrsh always 4 2 3) ∧
    (∀ v ∈ [(1 : Word), 1572864], Met hoopEffect (withHoops (withRegs [(2, v), (3, 4)])) 65536 (.eres always 4 2 3)) ∧
    Met hoopEffect (withHoops (withRegs [(2, 1)])) 65536 (.erel always 2) ∧
    Met hoopEffect (withHoops { withRegs [(2, 1)] with wait := some .erel, erel := some (0, [0x100000005]) }) 65536 (.erel always 2) ∧
    Met hoopEffect (withHoops (withRegs [(2, 1), (3, 0x14FFFC)])) 65536 (.eset always 2 3) := by
  refine ⟨?_, met_of rfl rfl rfl (by decide),
    met_of rfl rfl rfl ⟨by decide, by decide, by unfold legalRequest; decide, by decide⟩, ?_,
    met_of rfl rfl rfl ⟨by decide, show ∀ e ∈ [1, 2, 3, 4], ∀ c ∈ ((withHoops (withRegs [(2, 1)])).engine 0 e).issued ++
      ((withHoops (withRegs [(2, 1)])).engine 0 e).started, c.namesRecord 0 = false by decide⟩,
    met_of rfl rfl rfl ⟨by decide, show ∀ id ∈ [0x100000005], (((withHoops thread0).engine 0 (id / 2 ^ 32)).command
      (id % 2 ^ 32)).isNone = true by decide⟩,
    met_of rfl rfl rfl (by unfold legalRecord; decide)⟩
  · repeat (refine List.forall_mem_cons.2 ⟨met_of rfl rfl rfl (by unfold legalRequest; decide), ?_⟩)
    exact fun _ h => absurd h List.not_mem_nil
  · repeat (refine List.forall_mem_cons.2 ⟨met_of rfl rfl rfl ⟨by decide, by decide, by unfold legalRecord; decide⟩, ?_⟩)
    exact fun _ h => absurd h List.not_mem_nil

/-- O36: a package with a hoop, and a hoop that is placed beside it. -/
theorem witness_hoopsApart : HoopsApart (withHoops thread0).allHoops ∧ (withHoops thread0).tiles.wf = true ∧
    (∀ p ∈ (withHoops thread0).tiles, p.2.hoops.wf = true) ∧
    placeHoop [0, 1, 2, 3] (withHoops thread0).allHoops 0 0 = some ⟨0, 1, 0, 1⟩ := by
  refine ⟨?_, rfl, ?_, by decide⟩
  · show List.Pairwise _ [_]
    exact List.pairwise_singleton _ _
  · intro p hp
    cases hp with
    | head => rfl
    | tail _ h => exact absurd h List.not_mem_nil

/-- A proof thread with a descriptor in its group memory: one FP32 texel at offset 128; filter and level choice as given. -/
def withTexture (filt mip : Nat) : State := withImage (onProof (withRegs [(2, 0x01E0000000000000)])) (.gm 0)
  (leBytes 16 (0x01E0000000000080 + filt * 2 ^ 105 + mip * 2 ^ 107))

/-- O37: a nearest texel of one level, a gather, the two texels of two levels, and a size query. -/
theorem witness_texture : ∀ f ∈ [(0, 0), (1, 2)], ∃ r bs x, ((((withTexture f.1 f.2).thread 0).rd 2).toNat % 16 = 0 ∧
    (withTexture f.1 f.2).readPlain 0 (((withTexture f.1 f.2).thread 0).rd 2).toNat true 16 = .ok r bs ∧
    textureOf (leNat bs) = some x) ∧ wellFormed (.tex always 4 2 3 5) = true ∧ wellFormed (.texg always 4 2 3 5 3) = true ∧
    wellFormed (.texq always 4 2 3) = true ∧ Able (withTexture f.1 f.2) 0 (assist always [2, 3, 5] [4, 5]) ∧
    Able (withTexture f.1 f.2) 0 (assist always [2, 3] [4]) ∧
    ∃ r0 v0 r1 v1 r2 a b c d, State.readTexels 0 x 0 false (x.taps 0 0 0) r = .ok r0 v0 ∧
      State.readTexels 0 x 1 false [] r0 = .ok r1 v1 ∧ State.readTexels 0 x 0 true (x.bilinear 0 0 0) r = .ok r2 [a, b, c, d] := by
  repeat (refine List.forall_mem_cons.2 ⟨⟨_, _, _, ⟨by decide, rfl, rfl⟩, rfl, rfl, rfl, able_of_canExecute rfl,
    able_of_canExecute rfl, ⟨_, _, _, _, _, _, _, _, _, rfl, rfl, rfl⟩⟩, ?_⟩)
  exact fun _ h => absurd h List.not_mem_nil

/-- O38: records of zeros in group memory, and a ray in four registers. -/
theorem witness_rayRaster :
    let s := onProof (withRegs [(2, 0x01E0000000000000)])
    wellFormed (.raybox always 4 2 8 1) = true ∧ wellFormed (.raytri always 4 2 8 1) = true ∧
    wellFormed (.rast always 2 3 1) = true ∧ wellFormed (.bary always 4 2 3) = true ∧
    Able s 0 (assist always [2, 8, 9, 10, 11] [4]) ∧ Able s 0 (assist always [2, 8, 9, 10, 11] [4, 5]) ∧
    Able s 0 (assist always [2, 3] []) ∧ Able s 0 (assist always [2, 3] [4]) ∧ ((s.thread 0).rd 2).toNat % 16 = 0 ∧
    (∃ r bs, s.readPlain 0 ((s.thread 0).rd 2).toNat true 24 = .ok r bs) ∧
    ∃ r bs, s.readPlain 0 ((s.thread 0).rd 2).toNat true 36 = .ok r bs :=
  ⟨rfl, rfl, rfl, rfl, able_of_canExecute rfl, able_of_canExecute rfl, able_of_canExecute rfl, able_of_canExecute rfl, by decide,
   ⟨_, _, rfl⟩, ⟨_, _, rfl⟩⟩

/-! ## Strands and commands -/

/-- A template copy from its opcode, class and other fields. -/
def template (cls opc rest : Nat) : BitVec 256 := BitVec.ofNat 256 (opc + cls * 2 ^ 8 + rest)

/-- Engine 5 of tile 0 with a strand and a VIDLE in template slot 63. -/
def onWord (st : Strand) : State :=
  onEngine 5 { (default : Engine) with strand := some st, templates := [(63, template 2 0x0C 0)] }

/-- A strand in a slot that is valid: outside any loop. -/
def validStrand : Strand := { (default : Strand) with pc := 0x10000 }

/-- A strand in a slot that is not: stage 1 of two in the first round of a loop. -/
def skippedStrand : Strand := { validStrand with loop := some ⟨0x10000, 2, 2, 3, 0, 1, 0⟩ }

/-- O39: the last field and value of a VIDLE template, the three ISSUEs, a field that no class has, a slot not valid, and an
ISSUE of a template of no class. -/
theorem witness_patchWords : Fetching (onWord validStrand) 0 5 validStrand ∧ validStrand.valid = true ∧
    Fetching (onWord skippedStrand) 0 5 skippedStrand ∧ skippedStrand.valid = false ∧
    (∃ x, patched (.amend 63 1 0xFFFF) ((onWord validStrand).engine 0 5).templates = some (63, some x, false)) ∧
    (∀ i ∈ [Instr.issueField 63 1 0xFFFF, .issue 63, .issueAdd 63 1 0xFFFF], ∃ x c,
      patched i ((onWord validStrand).engine 0 5).templates = some (63, some x, true) ∧
      (onWord validStrand).issueCheck 0 5 (nextCommand (onWord validStrand) 0 5 x) = .ok c) ∧
    patched (.amend 63 31 0) ((onWord validStrand).engine 0 5).templates = some (63, none, false) ∧
    ∃ x cause val, patched (.issue 62) ((onWord validStrand).engine 0 5).templates = some (62, some x, true) ∧
      (onWord validStrand).issueCheck 0 5 (nextCommand (onWord validStrand) 0 5 x) = .error (cause, val) := by
  refine ⟨⟨rfl, rfl, rfl, rfl, rfl, rfl⟩, rfl, ⟨rfl, rfl, rfl, rfl, rfl, rfl⟩, by decide, ⟨_, rfl⟩, ?_, rfl, ⟨_, _, _, rfl, rfl⟩⟩
  repeat (refine List.forall_mem_cons.2 ⟨⟨_, _, rfl, rfl⟩, ?_⟩)
  exact fun _ h => absurd h List.not_mem_nil

/-- O40: a strand outside a loop, the longest loop body and one whose length is its number of stages. -/
theorem witness_strandWords : Fetching (onWord validStrand) 0 5 validStrand ∧ validStrand.loop = none ∧
    (63 : BitVec 6) ≠ 0 ∧ (63 : BitVec 6).toNat % ((6 : BitVec 3).toNat + 1) = 0 ∧
    (8 : BitVec 6).toNat % ((7 : BitVec 3).toNat + 1) = 0 ∧ (0x1FFF : BitVec 13) ≠ 0 :=
  ⟨⟨rfl, rfl, rfl, rfl, rfl, rfl⟩, rfl, by decide, by decide, by decide, by decide⟩

/-- O41: the shortest loop and one of three words in three stages. -/
theorem witness_loopRuns : (0 < 1 ∧ 1 % 1 = 0) ∧ 0 < 3 ∧ 3 % 3 = 0 := by decide

/-- Engine 5 with one started command. -/
def started (e : Nat) (c : Command) : State := onEngine e { (default : Engine) with started := [c] }

/-- A started VIDLE with nothing left to wait for. -/
def vidleNow : Command := { (default : Command) with seq := 1, image := template 2 0x0C 0, started := true }

/-- A copy command whose chunk has been performed. -/
def chunkDone : Command := { (default : Command) with seq := 1, image := template 6 1 0, started := true, phase := 1 }

set_option maxRecDepth 100000 in
/-- O42: each clause, in the cycle it is due. -/
theorem witness_engineEvents :
    ((onWord { validStrand with idling := true }).cur = .engine 0 5 ∧
      ((onWord { validStrand with idling := true }).tile 0).stopped = false ∧
      ({ validStrand with idling := true } : Strand).idleUntil ≤ (onWord { validStrand with idling := true }).cycle) ∧
    (let g : Engine := { (default : Engine) with full := true, issued := List.replicate 15 vidleNow };
      ((onEngine 9 g).engine 0 9).full = true ∧ ((onEngine 9 g).engine 0 9).issued.length < 16) ∧
    (((started 5 vidleNow).tile 0).stopped = false ∧ ((started 5 vidleNow).engine 0 5).started = [vidleNow] ∧
      imgClass vidleNow.image = 2 ∧ imgOpc vidleNow.image = 0x0C ∧ vidleNow.finished = false ∧
      vidleNow.cursor ≤ (started 5 vidleNow).cycle) ∧
    (portWordOk 0 = true ∧ portWordOk 63 = true ∧ portWordOk 64 = false) ∧
    (portImage (template 2 0x0C 0) 63 = template 2 0x0C 0 ∧ ∃ c, (onWord validStrand).issueCheck 0 5
      (nextCommand (onWord validStrand) 0 5 (template 2 0x0C 0)) = .ok c) ∧
    (({ vidleNow with finished := true } : Command).finished = true ∧ imgPush vidleNow.image = 0) ∧
    (((started 9 chunkDone).engine 0 9).started = [chunkDone] ∧ imgClass chunkDone.image = 6 ∧ chunkDone.phase = 1 ∧
      chunkDone.cen = false) ∧
    (let g : Engine := { (default : Engine) with returns := [(3, 1)] };
      (∀ j < 3, (g.returns).get j = 0) ∧ 0 < g.returns.get 3) := by
  refine ⟨by decide, by decide, ⟨rfl, rfl, rfl, rfl, rfl, by decide⟩, by decide +kernel, ⟨by decide +kernel, ⟨_, rfl⟩⟩, by decide, ⟨rfl, rfl, rfl, by decide⟩,
    by decide⟩

set_option maxRecDepth 100000 in
/-- O42: a port command taken; a finished command with a token to push and with a queue full; and a chunk of a copy to the own
tile, and of a DPOS to a neighbour, whose count goes to a semaphore. -/
theorem witness_engineEventsMore :
    (let p : PortCommand := ⟨⟨65536, 3, 7, 1024, 5, 1⟩, 63⟩
     let s := onEngine 5 { (default : Engine) with portq := [p], templates := [(63, template 2 0x0C 0)], order := [0x900000001] }
     portWordOk p.word = true ∧ (s.engine 0 5).portq = [p] ∧
       let u := s.setEngine 0 5 { s.engine 0 5 with portq := [] }
       ∃ c, u.issueCheck 0 5 { nextCommand u 0 5 (portImage ((s.engine 0 5).templates.get 63) p.word) with
         rkey := p.src.rkey, port := some p.src, after := (s.engine 0 5).order } = .ok c) ∧
    (let c : Command := { vidleNow with image := template 2 0x0C (3 * 2 ^ 44), finished := true }
     let pushes := (List.range 10).filter fun n => (imgPush c.image).testBit n
     c.port = none ∧ pushes = [0, 1] ∧
       pushes.find? (fun n => decide (15 ≤ ((started 5 c).tile 0).tokenCount 5 n)) = none ∧
       pushes.find? (fun n => decide (15 ≤ ({ (default : Tile) with tokens := [(5 * 16 + 1, 15)] } : Tile).tokenCount 5 n)) = some 1) ∧
    (let c := { chunkDone with image := template 6 1 (2 ^ 87 + 0x7F * 2 ^ 80 + 2 ^ 98) }
     (started 9 c).engine 0 9 = { (default : Engine) with started := [c] } ∧ c.cen = true ∧ GoesTo (started 9 c) 0 c 0) ∧
    let c := { chunkDone with image := template 6 7 (2 ^ 87 + 2 ^ 98) }
    c.cen = true ∧ GoesTo (started 9 c) 0 c ((windowTile (bitsOf c.cdst 0 57)).getD 0) :=
  ⟨⟨by decide, rfl, ⟨_, rfl⟩⟩, ⟨rfl, by decide, by decide, by decide⟩, ⟨rfl, by decide, rfl⟩, by decide, rfl⟩

/-- A started strip command on one element: scalar operands A, B and C, its result to scratchpad. -/
def stripCmd (cls opc : Nat) : Command := { (default : Command) with
  seq := 1, started := true
  image := template cls opc (2 ^ 96 + 2 ^ 91 + 2 * 2 ^ 88 + 2 * 2 ^ 85 + 2 * 2 ^ 82 + 3 * 2 ^ 192) }

theorem working {e : Nat} {c : Command} {cls opc : Nat} (h : imgClass c.image = cls ∧ imgOpc c.image = opc)
    (g : c.finished = false ∧ c.wait = none ∧ c.refusal = none) (k : (onEngine e { (default : Engine) with started := [c] }).engine 0 e =
      { (default : Engine) with started := [c] }) : Working (started e c) 0 e c cls opc :=
  ⟨rfl, rfl, by show ((onEngine e { (default : Engine) with started := [c] }).engine 0 e).started = [c]; rw [k], h, g⟩

set_option maxRecDepth 100000 in
/-- O43: every element-wise opcode, on one element. -/
theorem witness_elementwise : ∀ x ∈ [(Instr.vadd, 2, 0x01), (.vsub, 2, 0x02), (.vmul, 2, 0x03), (.vfma, 2, 0x04), (.vmin, 2, 0x05),
    (.vmax, 2, 0x06), (.vabs, 2, 0x07), (.vcmp, 2, 0x08), (.vsel, 2, 0x09), (.vlog, 2, 0x0A), (.vshf, 2, 0x0B), (.vexp2, 3, 0x01),
    (.vlog2, 3, 0x02), (.vrcp, 3, 0x03), (.vrsq, 3, 0x04), (.vsqrt, 3, 0x05), (.vcvt, 4, 0x01), (.vscale, 4, 0x04),
    (.vsrnd, 4, 0x05)],
    let c := stripCmd x.2.1 x.2.2
    let e := x.2.1 + 3
    ∃ (w : Nat × Nat × Nat) (f : Nat → Nat → Nat → Nat → Nat) (a b y : Nat → Nat) (u : State), elementRow x.1 c = some (x.2.1, x.2.2, w, f) ∧ Working (started e c) 0 e c x.2.1 x.2.2 ∧
      c.cursor < c.vectors ∧ (started e c).inputsReady 0 e c = true ∧
      (∀ n ∈ c.vecElems c.cursor, (started e c).operand 0 e c 0 w.1 n = .ok (a n) ∧
        (started e c).operand 0 e c 1 w.2.1 n = .ok (b n) ∧ (started e c).operand 0 e c 2 w.2.2 n = .ok (y n)) ∧
      (started e c).deliverElems 0 e c (c.vecElems c.cursor) ((c.vecElems c.cursor).map fun n => f n (a n) (b n) (y n)) =
        .ok u := by
  repeat (refine List.forall_mem_cons.2 ⟨⟨_, _, fun _ => 3, fun _ => 0, fun _ => 0, _, rfl, working ⟨rfl, rfl⟩ ⟨rfl, rfl, rfl⟩ rfl,
    by decide, rfl, fun n hn => ⟨rfl, rfl, rfl⟩, rfl⟩, ?_⟩)
  exact fun _ h => absurd h List.not_mem_nil

/-- A copy command on one four-byte element, of an opcode, with its SRC and DST words and other fields. -/
def copyCmd (opc src dst rest : Nat) : Command := { (default : Command) with
  seq := 1, started := true, image := template 6 opc (2 ^ 96 + src * 2 ^ 192 + dst * 2 ^ 128 + rest) }

/-- A matrix command on one column, one row and one K position, with the operand kinds and words given. -/
def hoopCmd (opc rest cursor2 : Nat) : Command := { (default : Command) with
  seq := 1, started := true, cursor2 := cursor2, lays := [(0, BitVec.ofNat 128 (7 * 2 ^ 87))], image := template 1 opc (2 ^ 144 + 2 ^ 128 + rest) }

/-- A VXOP bound to the pattern of one source. -/
def vxopCmd : Command := { stripCmd 2 0x0D with pattern := image1 }

set_option maxRecDepth 100000 in
/-- O44: a piece of every other strip opcode. -/
theorem witness_stripWork : ∀ x ∈ [(Instr.vxop, 5, 2, 0x0D, vxopCmd), (.vpackmx, 7, 4, 0x02, stripCmd 4 0x02),
    (.vunpk, 7, 4, 0x03, stripCmd 4 0x03), (.vred, 8, 5, 0x01, stripCmd 5 0x01), (.vscan, 8, 5, 0x02, stripCmd 5 0x02),
    (.vperm, 8, 5, 0x03, stripCmd 5 0x03), (.vbcast, 8, 5, 0x04, stripCmd 5 0x04), (.vtrn, 8, 5, 0x05, stripCmd 5 0x05)],
    ∃ work u, pieceRow x.1 = some (x.2.2.1, x.2.2.2.1, work) ∧
      Working (started x.2.1 x.2.2.2.2) 0 x.2.1 x.2.2.2.2 x.2.2.1 x.2.2.2.1 ∧
      work (started x.2.1 x.2.2.2.2) 0 x.2.1 x.2.2.2.2 = .ok u := by
  repeat (refine List.forall_mem_cons.2 ⟨⟨_, _, rfl, working ⟨rfl, rfl⟩ ⟨rfl, rfl, rfl⟩ rfl, rfl⟩, ?_⟩)
  exact fun _ h => absurd h List.not_mem_nil

set_option maxRecDepth 100000 in
/-- O44: a piece of every copy opcode: from scratchpad or the translated page, to scratchpad, the page, or a tile's window. -/
theorem witness_copyWork : ∀ x ∈ [(Instr.cpy, 1, copyCmd 1 (3 * 2 ^ 60) (3 * 2 ^ 60) 0),
    (.gath, 2, copyCmd 2 (2 ^ 60 + 0x10000) (3 * 2 ^ 60) 0), (.scat, 3, copyCmd 3 (3 * 2 ^ 60) (2 ^ 60 + 0x10000) 0),
    (.mcst, 4, copyCmd 4 (3 * 2 ^ 60) (5 * 2 ^ 60 + 2 ^ 32) 0), (.halo, 5, copyCmd 5 (3 * 2 ^ 60) (5 * 2 ^ 60) 0),
    (.coll, 6, copyCmd 6 (3 * 2 ^ 60) (3 * 2 ^ 60) 0),
    (.dpos, 7, copyCmd 7 (3 * 2 ^ 60) (2 ^ 60 + 0x01F0000000000000) (2 ^ 87 + 0x7F * 2 ^ 80))],
    ∃ work u, pieceRow x.1 = some (6, x.2.1, work) ∧ Working (started 9 x.2.2) 0 9 x.2.2 6 x.2.1 ∧
      work (started 9 x.2.2) 0 9 x.2.2 = .ok u := by
  repeat (refine List.forall_mem_cons.2 ⟨⟨_, _, rfl, working ⟨rfl, rfl⟩ ⟨rfl, rfl, rfl⟩ rfl, rfl⟩, ?_⟩)
  exact fun _ h => absurd h List.not_mem_nil

set_option maxRecDepth 100000 in
/-- O44: a weight, a row of MMA and MMW on loaded weights, a row read out and one cleared. -/
theorem witness_hoopWork : (∀ x ∈ [(Instr.wld, 1, hoopCmd 1 (2 ^ 87) 1), (.mma, 2, hoopCmd 2 (2 ^ 89) 1),
    (.mmw, 3, hoopCmd 3 (2 ^ 89) 1), (.acrd, 4, hoopCmd 4 0 0)],
    ∃ work u, pieceRow x.1 = some (1, x.2.1, work) ∧ Working (started 1 x.2.2) 0 1 x.2.2 1 x.2.1 ∧
      work (started 1 x.2.2) 0 1 x.2.2 = .ok u) ∧
    Working (started 1 (hoopCmd 5 0 0)) 0 1 (hoopCmd 5 0 0) 1 0x05 ∧ (hoopCmd 5 0 0).cursor < (hoopCmd 5 0 0).mrows := by
  refine ⟨?_, working ⟨rfl, rfl⟩ ⟨rfl, rfl, rfl⟩ rfl, by decide⟩
  repeat (refine List.forall_mem_cons.2 ⟨⟨_, _, rfl, working ⟨rfl, rfl⟩ ⟨rfl, rfl, rfl⟩ rfl, rfl⟩, ?_⟩)
  exact fun _ h => absurd h List.not_mem_nil

/-- A strip command as above on `n` elements, with its destination kind, A's kind and other fields. -/
def pieceCmd (cls opc n dst ka rest : Nat) : Command := { (default : Command) with
  seq := 1, started := true
  image := template cls opc (n * 2 ^ 96 + dst * 2 ^ 91 + ka * 2 ^ 88 + 2 * 2 ^ 85 + 2 * 2 ^ 82 + rest) }

/-- The command is started and has a vector left. -/
theorem dueNow {e : Nat} {c : Command} {cls opc : Nat} (h : imgClass c.image = cls ∧ imgOpc c.image = opc)
    (g : c.finished = false ∧ c.wait = none ∧ c.refusal = none) (k : (onEngine e { (default : Engine) with started := [c] }).engine 0 e =
      { (default : Engine) with started := [c] }) (l : c.cursor < c.vectors) (r : (started e c).inputsReady 0 e c = true) :
    VectorDue (started e c) 0 e c cls opc := ⟨working h g k, l, r⟩

/-- A piece of an engine's work that neither stalls nor stops. -/
def okay {α : Type} : Eng α → Bool
  | .ok _ => true
  | _ => false

/-- The bytes at an offset read as a number. -/
def readsNow (s : State) (tile at_ n v : Nat) : Bool :=
  match s.spAt tile at_ n with
  | .ok l => (match s.engRead l at_ n with
    | .ok x => x == v
    | _ => false)
  | _ => false

theorem reads_of {s : State} {tile at_ n v : Nat} (h : readsNow s tile at_ n v = true) : Reads s tile at_ n v := by
  unfold readsNow at h
  split at h
  · split at h
    · exact ⟨_, ‹_›, by simp_all⟩
    · cases h
  · cases h

/-- Engine 8 with a started command and one vector on its first input stream. -/
def withStream (c : Command) : State := onEngine 8 { (default : Engine) with started := [c], streams := [(0, [[(0, 7)]])] }

set_option maxRecDepth 100000 in
/-- O44: a vector of VXOP, VPERM, VTRN and VSCAN; VRED's folding into scratchpad and into a stream, and its sending of what is
left; VBCAST's vector, and its release of a stream. -/
theorem witness_vectorPieces :
    (VectorDue (started 5 vxopCmd) 0 5 vxopCmd 2 0x0D ∧ (∀ n ∈ vxopCmd.vecElems 0,
        (started 5 vxopCmd).operand 0 5 vxopCmd 0 32 n = .ok 3 ∧ (started 5 vxopCmd).operand 0 5 vxopCmd 1 32 n = .ok 0 ∧
        (started 5 vxopCmd).operand 0 5 vxopCmd 2 32 n = .ok 0) ∧ patTwo vxopCmd.pattern = false ∧
      ∃ u, (started 5 vxopCmd).deliverElems 0 5 vxopCmd (vxopCmd.vecElems 0)
        ((vxopCmd.vecElems 0).map fun _ => (patEval vxopCmd.pattern [3, 0, 0]).1) = .ok u) ∧
    (∀ x ∈ [(0x03, 1, 2), (0x05, 1, 1), (0x02, 1, 2), (0x01, 1, 2), (0x01, 9, 2), (0x04, 1, 2)],
      let c := pieceCmd 5 x.1 1 x.2.1 x.2.2 0
      VectorDue (started 8 c) 0 8 c 5 x.1 ∧ c.cursor < c.vectors ∧ okay ((started 8 c).operand 0 8 c 0 32 0) = true ∧
        (started 8 c).operand 0 8 c 1 32 0 = .ok 0 ∧ (tagged c 0).length < 1 ∧ (tagged c 1).length < 192 ∧
        okay ((started 8 c).deliverElems 0 8 c [0] [0]) = true) ∧
    okay ((started 8 (pieceCmd 5 0x05 1 1 1 0)).spPutAll 0 [((0, 32, false), 0)]) = true ∧
    (let c := { pieceCmd 5 0x01 1 9 2 0 with cursor := 1, partials := [(1, 5)] }
     Working (started 8 c) 0 8 c 5 0x01 ∧ c.dst ≠ 1 ∧ c.vectors ≤ c.cursor ∧ tagged c 1 ≠ [] ∧
       ∃ u, (started 8 c).deliverElems 0 8 c [] ((tagged c 1).take 192) = .ok u) ∧
    let c := { pieceCmd 5 0x04 1 1 4 0 with cursor := 1 }
    Working (withStream c) 0 8 c 5 0x04 ∧ c.vectors ≤ c.cursor ∧ (withStream c).inputsReady 0 8 c = true ∧
      ∃ i ∈ c.inputs, c.freed.get i < c.vectors := by
  refine ⟨⟨dueNow ⟨rfl, rfl⟩ ⟨rfl, rfl, rfl⟩ rfl (by decide) rfl, fun n _ => ⟨rfl, rfl, rfl⟩, by decide, ⟨_, rfl⟩⟩, ?_, by decide +kernel,
    ⟨working ⟨rfl, rfl⟩ ⟨rfl, rfl, rfl⟩ rfl, by decide, by decide, by decide, ⟨_, rfl⟩⟩,
    ⟨rfl, rfl, rfl, ⟨rfl, rfl⟩, rfl, rfl, rfl⟩, by decide, by decide, by decide⟩
  repeat (refine List.forall_mem_cons.2 ⟨⟨dueNow ⟨rfl, rfl⟩ ⟨rfl, rfl, rfl⟩ rfl (by decide) rfl, by decide, by decide +kernel, rfl,
    by decide, by decide, by decide +kernel⟩, ?_⟩)
  exact fun _ h => absurd h List.not_mem_nil

set_option maxRecDepth 100000 in
/-- O44: a block of VPACKMX, and VUNPK of an MX element and of a Picot-8 index. -/
theorem witness_packPieces :
    (let c := pieceCmd 4 0x02 32 1 2 (3 * 2 ^ 74)
     VectorDue (started 7 c) 0 7 c 4 0x02 ∧ c.count % 32 = 0 ∧ floatOf c.fmt = some fp32 ∧
       (∀ n ∈ c.vecElems c.cursor, (started 7 c).operand 0 7 c 0 32 n = .ok 0) ∧
       okay ((started 7 c).spPutAll 0 (((List.range 32).map ((c.opLay c.wd).cell 0 8)).zip (List.replicate 32 0) ++
         [(((c.opLay c.wd).scale 0 8 0 0, 8, false), 0)])) = true) ∧
    ∀ x ∈ [(3, 2), (13, 2)],
      let c := pieceCmd 4 0x03 1 1 1 (x.1 * 2 ^ 78 + x.2 * 2 ^ 69)
      let l := c.opLay (c.word 0)
      Working (started 7 c) 0 7 c 4 0x03 ∧ c.cursor < c.vectors ∧ c.fmt = x.1 ∧
        okay ((started 7 c).spElem 0 l (c.opStart (c.word 0)) 8 0) = true ∧
        Reads (started 7 c) 0 (l.scale (c.opStart (c.word 0)) 8 0 0) 1 0 ∧
        Reads (started 7 c) 0 (l.place (c.opStart (c.word 0)) 2 32 ((l.index 0).1 / 8 * 8, (l.index 0).2)) 2 0 ∧
        okay ((started 7 c).deliverElems 0 7 c [0] [0]) = true := by
  refine ⟨⟨dueNow ⟨rfl, rfl⟩ ⟨rfl, rfl, rfl⟩ rfl (by decide) rfl, by decide, by decide, fun n _ => rfl, by decide +kernel⟩, ?_⟩
  repeat (refine List.forall_mem_cons.2 ⟨⟨working ⟨rfl, rfl⟩ ⟨rfl, rfl, rfl⟩ rfl, by decide, by decide, by decide +kernel, reads_of (by decide +kernel),
    reads_of (by decide +kernel), by decide +kernel⟩, ?_⟩)
  exact fun _ h => absurd h List.not_mem_nil

/-- Queue 0 of tile 0 with a hoop and one started command. -/
def onHoop (c : Command) : State :=
  { onTile thread0 { (default : Tile) with
      engines := [(1, { (default : Engine) with started := [c] })], hoops := [(0, { (default : Hoop) with present := true })] } with
    cur := .engine 0 1 }

/-- The hoop's command is started and can go on. -/
theorem workingHoop {c : Command} {opc : Nat} (h : imgClass c.image = 1 ∧ imgOpc c.image = opc)
    (g : c.finished = false ∧ c.wait = none ∧ c.refusal = none) : Working (onHoop c) 0 1 c 1 opc := ⟨rfl, rfl, rfl, h, g⟩

set_option maxRecDepth 100000 in
/-- O44: WLD's scales (an MX weight), weights and weight state. -/
theorem witness_weightPieces : (onHoop default).hoop 0 0 = { (default : Hoop) with present := true } ∧
    (let c := hoopCmd 1 (2 ^ 87) 0
     Working (onHoop c) 0 1 c 1 0x01 ∧ c.cursor2 = 0 ∧ c.bblk = 0) ∧
    (let c := hoopCmd 1 (2 ^ 87 + 2 ^ 75) 0
     Working (onHoop c) 0 1 c 1 0x01 ∧ c.cursor2 = 0 ∧ c.bblk ≠ 0 ∧ ∀ b < (c.kext + 7) / 8, ∀ n < c.ncols,
       ScaleIs (onHoop c) 0 c (8 * b) n 0) ∧
    (let c := hoopCmd 1 (2 ^ 87) 1
     Working (onHoop c) 0 1 c 1 0x01 ∧ c.cursor2 ≠ 0 ∧ c.cursor < c.kext ∧ ∀ k < c.kext, ∀ n < c.ncols,
       WeightIs (onHoop c) 0 c k n 0) ∧
    let c := { hoopCmd 1 (2 ^ 87) 1 with cursor := 1 }
    Working (onHoop c) 0 1 c 1 0x01 ∧ c.cursor2 ≠ 0 ∧ c.kext ≤ c.cursor := by
  refine ⟨rfl, ⟨workingHoop ⟨rfl, rfl⟩ ⟨rfl, rfl, rfl⟩, rfl, by decide⟩, ⟨workingHoop ⟨rfl, rfl⟩ ⟨rfl, rfl, rfl⟩, rfl, by decide, ?_⟩,
    ⟨workingHoop ⟨rfl, rfl⟩ ⟨rfl, rfl, rfl⟩, by decide, by decide, ?_⟩, workingHoop ⟨rfl, rfl⟩ ⟨rfl, rfl, rfl⟩, by decide, by decide⟩
  all_goals
    intro k hk n hn
    obtain rfl : k = 0 := Nat.lt_one_iff.1 hk
    obtain rfl : n = 0 := Nat.lt_one_iff.1 hn
  · exact reads_of (by decide +kernel)
  · rfl

set_option maxRecDepth 100000 in
/-- O44: MMA with B of its own: a pass's weights, its row, the next pass, and the end; on loaded weights a row; and MMW's pixel.
The first pass of INT8 pairs takes two positions of each of the hoop's rows. -/
theorem witness_matrixPieces :
    (∀ x ∈ [(0, 0, 0), (1, 0, 0), (1, 1, 0), (1, 1, 192)],
      let c := { hoopCmd 2 (2 ^ 89 + 2 ^ 87 + 2 ^ 72 + x.2.2 * 2 ^ 144) x.1 with cursor := x.2.1 }
      Working (onHoop c) 0 1 c 1 2 ∧ c.bk ≠ 0 ∧ pairRate c.afmtNow c.amx c.bfmtNow c.bmx = some 2 ∧ c.mrows = 1 ∧
        c.kext = x.2.2 + 1 ∧ c.ncols = 1 ∧ c.bblk = 0 ∧ WeightIs (onHoop c) 0 c 0 0 0 ∧ ElementIs (onHoop c) 0 c 0 0 (some 0)) ∧
    (let c := hoopCmd 2 (2 ^ 89 + 2 ^ 72) 0
     Working (onHoop c) 0 1 c 1 2 ∧ c.bk = 0 ∧ c.cursor < c.mrows ∧ c.amx = false ∧ ElementIs (onHoop c) 0 c 0 0 (some 0)) ∧
    let c := hoopCmd 3 (2 ^ 89 + 2 ^ 72) 0
    Working (onHoop c) 0 1 c 1 3 ∧ c.bk = 0 ∧ c.cursor < c.mrows ∧ c.amx = false ∧ ∃ v, pixelIs (onHoop c) 0 c 0 0 v := by
  refine ⟨?_, ⟨workingHoop ⟨rfl, rfl⟩ ⟨rfl, rfl, rfl⟩, by decide, by decide, by decide, ⟨_, rfl, rfl⟩⟩,
    workingHoop ⟨rfl, rfl⟩ ⟨rfl, rfl, rfl⟩, by decide, by decide, by decide, some 0, ?_⟩
  on_goal 2 => unfold pixelIs; exact (if_neg (by decide)).mpr ((if_pos (by decide)).mpr ⟨0, rfl, rfl⟩)
  repeat (refine List.forall_mem_cons.2 ⟨⟨workingHoop ⟨rfl, rfl⟩ ⟨rfl, rfl, rfl⟩, by decide, by decide, by decide, by decide, by decide,
    by decide, rfl, ⟨_, rfl, rfl⟩⟩, ?_⟩)
  exact fun _ h => absurd h List.not_mem_nil

/-- A command with its scratchpad operands in rows of `x` elements of INT8. -/
def inRows (x : Nat) (c : Command) : Command := { c with lays := [(0, BitVec.ofNat 128 (7 * 2 ^ 87 + (x - 1) * 2 ^ 91))] }

/-- What cannot be read has no value. -/
theorem reads_none {s : State} {tile at_ n : Nat} (h : okay (s.spAt tile at_ n) = false) (v : Nat) : ¬ Reads s tile at_ n v := by
  rintro ⟨l, hl, -⟩
  rw [hl] at h
  cases h

set_option maxRecDepth 100000 in
/-- O44: WLD whose second weight, and whose second block of scales, lies past the end of the scratchpad (01 R19); weights given up
before a pass of MMA loads its own; and the second of two rows of a transposed A past that end. -/
theorem witness_brokenPieces :
    (let c := inRows 2 (hoopCmd 1 (2 ^ 87 + 2 ^ 144 + 24379391 * 2 ^ 192) 1)
     Working (onHoop c) 0 1 c 1 0x01 ∧ c.cursor2 ≠ 0 ∧ c.cursor < 1 ∧ 1 < c.kext ∧
       (∀ k, c.cursor ≤ k → k < 1 → ∀ n < c.ncols, WeightIs (onHoop c) 0 c k n 0) ∧
       ∃ n < c.ncols, ∀ v, ¬ WeightIs (onHoop c) 0 c 1 n v) ∧
    (let c := inRows 40 (hoopCmd 1 (2 ^ 87 + 2 ^ 75 + 39 * 2 ^ 144 + 24379343 * 2 ^ 192) 0)
     Working (onHoop c) 0 1 c 1 0x01 ∧ c.cursor2 = 0 ∧ c.cursor / 8 < 4 ∧ c.bblk ≠ 0 ∧ 4 < (c.kext + 7) / 8 ∧
       (∀ b, c.cursor / 8 ≤ b → b < 4 → ∀ n < c.ncols, ScaleIs (onHoop c) 0 c (8 * b) n 0) ∧
       ∃ n < c.ncols, ∀ v, ¬ ScaleIs (onHoop c) 0 c (8 * 4) n v) ∧
    (let c := hoopCmd 2 (2 ^ 89 + 2 ^ 87 + 2 ^ 72) 0
     let s := (onHoop c).setHoop 0 0 { (default : Hoop) with present := true, loaded := true }
     Working s 0 1 c 1 2 ∧ (s.hoop 0 0).present = true ∧ (s.hoop 0 0).loaded = true ∧ c.mrows ≠ 0 ∧ 0 < c.kext ∧ c.bk ≠ 0 ∧
       c.cursor2 % 2 = 0 ∧ pairRate c.afmtNow c.amx c.bfmtNow c.bmx = some 2) ∧
    let c := inRows 2 (hoopCmd 2 (2 ^ 89 + 2 ^ 86 + 2 ^ 72 + 2 ^ 128 + 24379391 * 2 ^ 224) 0)
    Working (onHoop c) 0 1 c 1 2 ∧ c.bk = 0 ∧ c.mrows = 2 ∧ c.kext = 1 ∧ c.ta = true ∧ c.ak = 1 ∧ c.amx = false ∧
      ElementIs (onHoop c) 0 c 0 0 (some 0) ∧ ∀ v, ¬ ElementIs (onHoop c) 0 c 1 0 v := by
  refine ⟨⟨workingHoop ⟨rfl, rfl⟩ ⟨rfl, rfl, rfl⟩, by decide, by decide, by decide, ?_, 0, by decide, ?_⟩,
    ⟨workingHoop ⟨rfl, rfl⟩ ⟨rfl, rfl, rfl⟩, rfl, by decide, by decide, by decide, ?_, 0, by decide, ?_⟩,
    ⟨⟨rfl, rfl, rfl, ⟨rfl, rfl⟩, rfl, rfl, rfl⟩, rfl, rfl, by decide, by decide, by decide, rfl, by decide⟩,
    workingHoop ⟨rfl, rfl⟩ ⟨rfl, rfl, rfl⟩, by decide, by decide, by decide, by decide, by decide, by decide, ⟨_, rfl, rfl⟩, ?_⟩
  · intro k _ hk n hn
    obtain rfl : k = 0 := Nat.lt_one_iff.1 hk
    obtain rfl : n = 0 := Nat.lt_one_iff.1 hn
    rfl
  · intro v h
    exact absurd (show okay (State.spElem _ 0 _ _ 8 1) = true by rw [show State.spElem _ 0 _ _ 8 1 = .ok v from h]; rfl) (by decide +kernel)
  · intro b _ hb n hn
    obtain rfl : n = 0 := Nat.lt_one_iff.1 hn
    interval_cases b <;> exact reads_of (by decide +kernel)
  · exact fun v => reads_none (by decide +kernel) v
  · rintro v ⟨x, -, h⟩
    exact absurd (show okay (State.spElem _ 0 _ _ 8 1) = true by rw [show State.spElem _ 0 _ _ 8 1 = .ok x from h]; rfl) (by decide +kernel)

set_option maxRecDepth 100000 in
/-- O44: a row of ACRD, cleared or not, and of ACZ. -/
theorem witness_accumulatorPieces : (∀ x ∈ [(0 : Nat), 2 ^ 82],
      let c := hoopCmd 4 x 0
      Working (onHoop c) 0 1 c 1 0x04 ∧ c.cursor < c.mrows ∧ okay ((onHoop c).spPutAll 0 [((c.hlay c.dw).cell (c.hstart c.dw) 8 0, 0)]) =
        true) ∧ Working (onHoop (hoopCmd 5 0 0)) 0 1 (hoopCmd 5 0 0) 1 0x05 := by
  refine ⟨?_, workingHoop ⟨rfl, rfl⟩ ⟨rfl, rfl, rfl⟩⟩
  repeat (refine List.forall_mem_cons.2 ⟨⟨workingHoop ⟨rfl, rfl⟩ ⟨rfl, rfl, rfl⟩, by decide, by decide +kernel⟩, ?_⟩)
  exact fun _ h => absurd h List.not_mem_nil

set_option maxRecDepth 100000 in
/-- O44: a copy past its end, a HALO at the edge of its grid, and chunks of CPY, GATH, MCST and SCAT; DPOS, with its count;
a stream's vector and the chunk it completes. -/
theorem witness_copyPieces :
    (let c := { copyCmd 1 (3 * 2 ^ 60) (3 * 2 ^ 60) 0 with cursor := 1 }
     Working (started 9 c) 0 9 c 6 1 ∧ c.phase = 0 ∧ (c.count * c.eb + 255) / 256 ≤ c.cursor) ∧
    (let c := copyCmd 5 (3 * 2 ^ 60) (5 * 2 ^ 60) 0
     Working (started 9 c) 0 9 c 6 5 ∧ c.cursor < (c.count * c.eb + 255) / 256 ∧ opKind c.cdst ≠ 4 ∧
       haloGroup ((started 9 c).waveOfThread (controlTid 0)).node.place.toNat (((started 9 c).tile 0).group.pred % 1024) (c.csub % 8) =
         none) ∧
    (∀ x ∈ [(Instr.cpy, 1, copyCmd 1 (3 * 2 ^ 60) (3 * 2 ^ 60) 0), (.gath, 2, copyCmd 2 (2 ^ 60 + 0x10000) (3 * 2 ^ 60) 0),
        (.mcst, 4, copyCmd 4 (3 * 2 ^ 60) (5 * 2 ^ 60 + 2 ^ 32) 0)],
      let c := x.2.2
      let s := started 9 c
      copyRow x.1 = some x.2.1 ∧ Working s 0 9 c 6 x.2.1 ∧ c.phase = 0 ∧ c.cursor < (c.count * c.eb + 255) / 256 ∧
        opKind c.cdst ≠ 4 ∧ GoesTo s 0 c 0 ∧ c.cen = false ∧ c.count = 1 ∧ (∃ r v, SourceIs 0 9 c s 0 r v) ∧
        DestIs s 0 0 c 0 (.sp 0 0) ∧ okay (s.dstPlace 0 (.command 0 9 1) c.eb (.sp 0 0)) = true ∧
        okay (s.copyWrite 0 9 c c.eb [((.sp 0 0, ⟨.sp 0, 0⟩), 0)]) = true) ∧
    (let c := copyCmd 3 (3 * 2 ^ 60) (2 ^ 60 + 0x10000) 0
     let s := started 9 c
     Working s 0 9 c 6 3 ∧ SourceIs 0 9 c s 0 s 0 ∧ DestIs s 0 0 c 0 (.va 0x10000) ∧
       okay (s.copyWrite 0 9 c c.eb [((.va 0x10000, ⟨.hbm, 0x10000⟩), 0)]) = true) ∧
    (let c := copyCmd 7 (3 * 2 ^ 60) (2 ^ 60 + 0x01F0000000000000) (2 ^ 87 + 0x7F * 2 ^ 80)
     let s := started 9 c
     Working s 0 9 c 6 7 ∧ SourceIs 0 9 c s 0 s 0 ∧ GoesTo s 0 c 0 ∧ DestIs s 0 0 c 0 (.va 0x01F0000000000000) ∧
       windowTile 0x01F0000000000003 = some 0 ∧ (s.tile 0).sems.get c.csem + c.eb < 2 ^ 24 ∧
       okay (s.copyWrite 0 9 c c.eb [((.va 0x01F0000000000000, ⟨.sp 0, 0⟩), 0)]) = true) ∧
    (let c := copyCmd 1 (3 * 2 ^ 60) (4 * 2 ^ 60 + 5) 0
     Working (started 9 c) 0 9 c 6 1 ∧ opKind c.cdst = 4 ∧ c.sent < c.count ∧ SourceIs 0 9 c (started 9 c) 0 (started 9 c) 0 ∧
       okay ((started 9 c).sendVector 0 9 (c.cdst % 16) [0]) = true) ∧
    let c := { copyCmd 1 (3 * 2 ^ 60) (4 * 2 ^ 60 + 5) 0 with sent := 192 }
    Working (started 9 c) 0 9 c 6 1 ∧ c.cursor < (c.count * c.eb + 255) / 256 ∧ opKind c.cdst = 4 ∧ c.count ≤ c.sent ∧ c.cen = false := by
  refine ⟨⟨working ⟨rfl, rfl⟩ ⟨rfl, rfl, rfl⟩ rfl, rfl, by decide⟩, ⟨working ⟨rfl, rfl⟩ ⟨rfl, rfl, rfl⟩ rfl, by decide, by decide, by decide⟩, ?_,
    ⟨working ⟨rfl, rfl⟩ ⟨rfl, rfl, rfl⟩ rfl, ⟨rfl, rfl⟩, ⟨0, reads_of (by decide +kernel), rfl⟩, by decide +kernel⟩,
    ⟨working ⟨rfl, rfl⟩ ⟨rfl, rfl, rfl⟩ rfl, ⟨rfl, rfl⟩, rfl, rfl, by decide, by decide, by decide +kernel⟩,
    ⟨working ⟨rfl, rfl⟩ ⟨rfl, rfl, rfl⟩ rfl, by decide, by decide, ⟨rfl, rfl⟩, by decide +kernel⟩,
    working ⟨rfl, rfl⟩ ⟨rfl, rfl, rfl⟩ rfl, by decide, by decide, by decide, by decide⟩
  refine List.forall_mem_cons.2 ⟨⟨rfl, working ⟨rfl, rfl⟩ ⟨rfl, rfl, rfl⟩ rfl, rfl, by decide, by decide, rfl, by decide, by decide,
    ⟨_, _, rfl, rfl⟩, rfl, by decide +kernel, by decide +kernel⟩, List.forall_mem_cons.2 ⟨⟨rfl, working ⟨rfl, rfl⟩ ⟨rfl, rfl, rfl⟩ rfl, rfl,
    by decide, by decide, rfl, by decide, by decide, ⟨_, _, 0, reads_of (by decide +kernel), rfl⟩, rfl, by decide +kernel, by decide +kernel⟩,
    List.forall_mem_cons.2 ⟨⟨rfl, working ⟨rfl, rfl⟩ ⟨rfl, rfl, rfl⟩ rfl, rfl, by decide, by decide, ⟨by decide, rfl⟩, by decide, by decide,
    ⟨_, _, rfl, rfl⟩, rfl, by decide +kernel, by decide +kernel⟩, fun _ h => absurd h List.not_mem_nil⟩⟩⟩

/-- A COLL of one FP32 element of group `n` on tile `n`, with what it has read and with what it holds. -/
def collCmd (count : Nat) (contrib : List Nat) (partials : List (Nat × Nat)) : Command := { (default : Command) with
  seq := 1, started := true, contrib := contrib, partials := partials
  image := template 6 6 (count * 2 ^ 96 + 3 * 2 ^ 60 * 2 ^ 192 + 3 * 2 ^ 60 * 2 ^ 128) }

/-- Two ranks, on tiles 0 and 1, and the turn with the first. -/
def twoRanks (c d : Command) : State :=
  { started 9 c with
    groups := [(1024, { (default : Group) with unit := 0, placed := true, started := true, threads := 1 }),
      (1025, { (default : Group) with unit := 1, placed := true, started := true, threads := 1 })]
    waves := [(1, { (default : Wave) with state := .running, asid := 1, groups := 2, placedOnce := true })]
    tiles := [(0, { (default : Tile) with group := 1025, sram := 1, engines := [(9, { (default : Engine) with started := [c] })] }),
      (1, { (default : Tile) with group := 1026, sram := 1, engines := [(9, { (default : Engine) with started := [d] })] })] }

set_option maxRecDepth 100000 in
/-- O44: a rank's own contribution read; every rank's there, alike and with another count; a chunk of the results written; and
the end. -/
theorem witness_collPieces :
    (let c := collCmd 1 [] []
     Working (started 9 c) 0 9 c 6 6 ∧ c.contrib.length < c.count ∧ SourceIs 0 9 c (started 9 c) 0 (started 9 c) 0) ∧
    (∀ n ∈ [1, 2],
      let c := collCmd 1 [5] []
      let d := collCmd n [6, 7] []
      let s := twoRanks c d
      Working s 0 9 c 6 6 ∧ c.count ≤ c.contrib.length ∧ c.partials = [] ∧ (∀ x ∈ [c, d], x.count ≤ x.contrib.length) ∧
        List.Forall₂ (fun t x => (s.tile t).group ≠ 0 ∧ (s.engine t 9).started = [x] ∧ imgOpc x.image = 6 ∧ x.matchNo = c.matchNo)
          [0, 1] [c, d] ∧ (∀ g < (s.wave 1).groups, (s.tile (s.group (1024 + g)).unit).group = 1024 + g + 1) ∧
        (d.count = c.count ↔ n = 1)) ∧
    (let c := collCmd 1 [5] [(1, 0), (1, 11)]
     Working (started 9 c) 0 9 c 6 6 ∧ c.phase = 0 ∧ c.cursor2 < (((c.partials.drop 1).map (·.2)).length * c.eb + 255) / 256 ∧
       c.cen = false ∧ okay ((started 9 c).spAt 0 0 c.eb) = true ∧
       okay ((started 9 c).copyWrite 0 9 c c.eb [((.sp 0 0, ⟨.sp 0, 0⟩), 11)]) = true) ∧
    let c := { collCmd 1 [5] [(1, 0), (1, 11)] with cursor2 := 1 }
    Working (started 9 c) 0 9 c 6 6 ∧ (((c.partials.drop 1).map (·.2)).length * c.eb + 255) / 256 ≤ c.cursor2 := by
  refine ⟨⟨working ⟨rfl, rfl⟩ ⟨rfl, rfl, rfl⟩ rfl, by decide, rfl, rfl⟩, ?_, ⟨working ⟨rfl, rfl⟩ ⟨rfl, rfl, rfl⟩ rfl, rfl, by decide, by decide,
    by decide +kernel, by decide +kernel⟩, working ⟨rfl, rfl⟩ ⟨rfl, rfl, rfl⟩ rfl, by decide⟩
  repeat (refine List.forall_mem_cons.2 ⟨⟨⟨rfl, rfl, rfl, ⟨rfl, rfl⟩, rfl, rfl, rfl⟩, by decide, rfl, by decide, by decide, by decide, by decide⟩, ?_⟩)
  exact fun _ h => absurd h List.not_mem_nil

/-- O44: a rank that was marked as differing; and ranks of two packages, before the other one answers and after. -/
theorem witness_collReady : (let c := collCmd 1 [5] [(2, 0)]
     Working (started 9 c) 0 9 c 6 6 ∧ c.count ≤ c.contrib.length ∧ c.partials = [(2, 0)]) ∧
    (twoRanks (collCmd 1 [5] []) (collCmd 1 [6, 7] [])).linkHeld 0 = false ∧ dieOf 1 = dieOf 0 :=
  ⟨⟨working ⟨rfl, rfl⟩ ⟨rfl, rfl, rfl⟩ rfl, by decide, rfl⟩, rfl, by decide⟩

/-- An engine with one issued command, on a tile whose hoop holds weights for one position and column. -/
def issuedOn (e : Nat) (c : Command) : State :=
  { onTile thread0 { (default : Tile) with
      engines := [(e, { (default : Engine) with issued := [c] })]
      hoops := [(0, { (default : Hoop) with present := true, loaded := true, wfmt := 7, wk := 1, wn := 1 })] } with cur := .engine 0 e }

set_option maxRecDepth 100000 in
/-- O45: every template opcode as an engine's oldest issued command. -/
theorem witness_starts : ∀ x ∈ [(Instr.vadd, 5, stripCmd 2 0x01), (.vsub, 5, stripCmd 2 0x02), (.vmul, 5, stripCmd 2 0x03),
    (.vfma, 5, stripCmd 2 0x04), (.vmin, 5, stripCmd 2 0x05), (.vmax, 5, stripCmd 2 0x06), (.vabs, 5, stripCmd 2 0x07),
    (.vcmp, 5, stripCmd 2 0x08), (.vsel, 5, stripCmd 2 0x09), (.vlog, 5, stripCmd 2 0x0A), (.vshf, 5, stripCmd 2 0x0B),
    (.vidle, 5, stripCmd 2 0x0C), (.vxop, 5, stripCmd 2 0x0D), (.vexp2, 6, stripCmd 3 0x01), (.vlog2, 6, stripCmd 3 0x02),
    (.vrcp, 6, stripCmd 3 0x03), (.vrsq, 6, stripCmd 3 0x04), (.vsqrt, 6, stripCmd 3 0x05), (.vcvt, 7, stripCmd 4 0x01),
    (.vpackmx, 7, stripCmd 4 0x02), (.vunpk, 7, stripCmd 4 0x03), (.vscale, 7, stripCmd 4 0x04), (.vsrnd, 7, stripCmd 4 0x05),
    (.vred, 8, stripCmd 5 0x01), (.vscan, 8, stripCmd 5 0x02), (.vperm, 8, stripCmd 5 0x03), (.vbcast, 8, stripCmd 5 0x04),
    (.vtrn, 8, stripCmd 5 0x05), (.cpy, 9, copyCmd 1 0 0 0), (.gath, 9, copyCmd 2 0 0 0), (.scat, 9, copyCmd 3 0 0 0),
    (.mcst, 9, copyCmd 4 0 0 0), (.halo, 9, copyCmd 5 0 0 0), (.coll, 9, copyCmd 6 0 0 0), (.dpos, 9, copyCmd 7 0 0 0),
    (.wld, 1, hoopCmd 1 (2 ^ 87) 0), (.mma, 1, hoopCmd 2 (2 ^ 89) 0), (.mmw, 1, hoopCmd 3 (2 ^ 89) 0), (.acrd, 1, hoopCmd 4 0 0),
    (.acz, 1, hoopCmd 5 0 0)],
    let s := issuedOn x.2.1 x.2.2
    ∃ cls opc rest u d v y, templateRow x.1 = some (cls, opc) ∧ s.cur = .engine 0 x.2.1 ∧ (s.tile 0).stopped = false ∧
      (s.engine 0 x.2.1).started = [] ∧ (s.engine 0 x.2.1).issued = x.2.2 :: rest ∧ imgClass x.2.2.image = cls ∧
      imgOpc x.2.2.image = opc ∧ s.dieHeld (dieOf 0) = false ∧ s.popFor 0 x.2.1 x.2.2 = some (u, d) ∧
      (imgGen d.image = false ∨ d.passed = true) ∧ startOf x.1 (u.setCommand 0 x.2.1 d) 0 x.2.1 d = .ok (v, y) ∧
      v.det (controlTid 0) = false := by
  repeat (refine List.forall_mem_cons.2 ⟨⟨_, _, _, _, _, _, _, rfl, rfl, rfl, rfl, rfl, rfl, rfl, rfl, rfl, .inl rfl, rfl, rfl⟩,
    ?_⟩)
  exact fun _ h => absurd h List.not_mem_nil

/-- Footprints of commands of engine 9, of the last byte of a tile's scratchpad. -/
def footprints (n : Nat) (old : Bool) : List Footprint :=
  (List.range n).map fun k => ⟨9, k, 2 ^ 25 - 1, 2 ^ 25, true, old && k == 1⟩

/-- The same engine in deterministic mode, with footprints in the overlap checker. -/
def checking (l : List Footprint) : State :=
  let s := deterministic (issuedOn 5 (stripCmd 2 0x01))
  s.setTile 0 { s.tile 0 with footprints := l }

set_option maxRecDepth 100000 in
/-- O45: an add in deterministic mode: no footprint kept, one that it meets, 256 of commands under way, and 256 of which one is
complete. -/
theorem witness_checker : (∀ l ∈ [[], [⟨9, 3, 0, 2 ^ 25, true, false⟩], footprints 256 false, footprints 256 true],
      let s := checking l
      let c := stripCmd 2 0x01
      ∃ u d v y, templateRow .vadd = some (2, 1) ∧ s.cur = .engine 0 5 ∧ (s.tile 0).stopped = false ∧ (s.engine 0 5).started = [] ∧
        (s.engine 0 5).issued = [c] ∧ s.dieHeld (dieOf 0) = false ∧ s.popFor 0 5 c = some (u, d) ∧ imgGen d.image = false ∧
        startOf .vadd (u.setCommand 0 5 d) 0 5 d = .ok (v, y) ∧ v.det (controlTid 0) = true ∧ footOf v 0 y ≠ [] ∧
        (v.tile 0).footprints = l) ∧
    256 ≤ ((footprints 256 false).map fun f => f.engine * 2 ^ 32 + f.seq).dedup.length ∧
    (∀ f ∈ footprints 256 false, f.complete = false) ∧ (footprints 256 true).find? (·.complete) = some ⟨9, 1, 2 ^ 25 - 1, 2 ^ 25, true, true⟩ := by
  refine ⟨?_, by decide +kernel, by decide +kernel, by decide +kernel⟩
  repeat (refine List.forall_mem_cons.2 ⟨⟨_, _, _, _, rfl, rfl, rfl, rfl, rfl, rfl, rfl, rfl, rfl, rfl, by decide, rfl⟩, ?_⟩)
  exact fun _ h => absurd h List.not_mem_nil

/-! ## Coherence and travelling accesses -/

/-- A table lists the event in a state that has what it needs. -/
def Due (table : State → Instr → Option (Prop × State)) (s : State) (i : Instr) : Prop :=
  ∃ needs t, table s i = some (needs, t) ∧ needs

theorem due {table : State → Instr → Option (Prop × State)} {s t : State} {i : Instr} {n : Prop}
    (h : table s i = some (n, t)) (k : n) : Due table s i := ⟨n, t, h, k⟩

/-- A load of a doubleword at a place, as a thread waits with it. -/
def loadAt (va : Nat) (l : Loc) : Access := ⟨.load false, va, l, 8, 4, 0, 0, 0x10004, true, 0, 0⟩

/-- Line 0x200 holds address 0x10000; its home with what stands at it. -/
def withHome (h : HomeLine) : State :=
  { onProof { thread0 with wait := some (.access (loadAt 0x10000 ⟨.hbm, 0x10000⟩)) } with home := [(0x200, h)] }

/-- A request of proof core 0, for thread 0 or for a prefetch. -/
def request (kind : ReqKind) (tid : Nat) : Request := ⟨kind, 96, tid, 0, 0, false, .direct, 0⟩

/-- The line at rest in the L2, with sharers recorded, an owner, and one request that waits. -/
def waitingAtHome (kind : ReqKind) (tid hint owner : Nat) (sharers : BitVec 40) (held : Bool) : State :=
  withHome { (default : HomeLine) with
    queue := [{ request kind tid with hint := hint }], owner := owner, sharers := sharers, held := held
    state := resting owner sharers }

set_option maxRecDepth 20000 in
/-- O46: each kind of request, of a thread and of a prefetch, in every case of Table 5.5: an owner elsewhere, sharers,
a line the L2 does not hold, no copy, a hinted access, and a frozen line. -/
theorem witness_homeAdmits : (∀ x ∈ [(Instr.homeAdmitReadShared 0x200, ReqKind.readShared, 1, 0, 98, (4 : BitVec 40), true),
      (.homeAdmitReadShared 0x200, .readShared, 1, 0, 0, 0, false), (.homeAdmitReadShared 0x200, .readShared, 0, 0, 0, 0, true),
      (.homeAdmitReadShared 0x200, .readShared, 1, 2, 0, 0, true), (.homeAdmitReadExclusive 0x200, .readExclusive, 1, 0, 98, 4, true),
      (.homeAdmitUpgrade 0x200, .upgrade, 1, 0, 0, 8, true), (.homeAdmitReadExclusive 0x200, .readExclusive, 0, 0, 0, 0, false),
      (.homeAdmitUpgrade 0x200, .upgrade, 0, 0, 0, 0, true), (.homeAtomicPerform 0x200, .atomic, 1, 0, 0, 0, true)],
      let s := waitingAtHome x.2.1 x.2.2.1 x.2.2.2.1 x.2.2.2.2.1 x.2.2.2.2.2.1 x.2.2.2.2.2.2
      let r := { request x.2.1 x.2.2.1 with hint := x.2.2.2.1 }
      admission x.1 = some (0x200, x.2.1) ∧ s.nextReq 0x200 = some r ∧ r.kind = x.2.1 ∧ (s.homeLine 0x200).active = none ∧
      s.linkHeld r.unit = false ∧ s.tenqHolds 0x200 = false ∧ s.isFrozen ⟨.hbm, 0x200 * 128⟩ = false ∧
      (r.tid = 0 ∨ ∃ a, s.waitingAt (r.tid - 1) 0x200 = some a ∧ s.watchedVa (waveOf (s.thread (r.tid - 1)).gid) a.va = false) ∧
      s.lineMsgs 0x200 = false ∧ s.memHeld 0x200 = false) ∧
    (({ waitingAtHome .upgrade 1 0 0 0x600000008 true with l1 := [(l1Key 97 0x200, ⟨.s, false⟩)] } : State).otherHolders 0x200 96 ≠ [] ∧
      (waitingAtHome .upgrade 1 0 0 0 true).otherHolders 0x200 96 = []) ∧
    (NoOtherCopy (waitingAtHome .readShared 1 0 0 0 true) 0x200 96 ∧
      ¬ NoOtherCopy { waitingAtHome .readShared 1 0 0 4 true with l1 := [(l1Key 97 0x200, ⟨.s, false⟩)] } 0x200 96) ∧
    (let s := { waitingAtHome .readShared 1 0 97 1 true with l1 := [(l1Key 96 0x200, ⟨.o, false⟩)] }
     (s.homeLine 0x200).owner = 97 ∧ OwnsStill s 0x200 96 ∧ ¬ NoOtherCopy { s with home := [(0x200, { s.homeLine 0x200 with allPeers := true })] } 0x200 96) ∧
    let z : State := { waitingAtHome .readShared 1 0 0 0 true with frozen := [(0x10000, 0x10000)] }
    z.nextReq 0x200 = some (request .readShared 1) ∧ z.isFrozen ⟨.hbm, 0x200 * 128⟩ = true ∧ z.waitingAt 0 0x200 ≠ none := by
  refine ⟨?_, ⟨by decide, by decide⟩, ⟨⟨fun _ h => absurd h List.not_mem_nil, fun _ h => absurd h List.not_mem_nil, by decide⟩,
    fun h => absurd (h.1 _ (.head _) (by decide) (by decide)) (by decide)⟩,
    ⟨rfl, .inl (by decide), fun h => absurd h.2.2.2.2 (by decide)⟩, by decide, by decide, by decide⟩
  repeat (refine List.forall_mem_cons.2 ⟨⟨by decide, by decide, by decide, by decide, by decide, by decide, by decide,
    by first | exact .inl rfl | exact .inr ⟨_, rfl, rfl⟩, by decide, by decide⟩, ?_⟩)
  exact fun _ h => absurd h List.not_mem_nil

/-- The state with one message in flight about line 0x200 and proof core 0. -/
def withMsg (m : MsgKind) (tid : Nat) (h : HomeLine) : State := { withHome h with msgs := [⟨0x200, 96, m, tid, 0⟩] }

/-- A wave that replays an order log, whose first entry is of another requester. -/
def replaying : State :=
  { ((withHome { (default : HomeLine) with queue := [request .readShared 1] }).setBytes ⟨.hbm, 0x20004⟩ [1]).setBytes
      ⟨.hbm, 0x2000B⟩ [0xFF] with
    cycle := 1000000
    waves := [(1, { (default : Wave) with state := .running, asid := 1, groups := 1, placedOnce := true, recMode := 2 })]
    records := [(1, { (default : Recording) with block := { (default : RecordBlock) with
      mode := 2, nw := 1, ranges := [(0x10000, 0x1000)], logbase := 0x20000 } })] }

/-- Page tables for address space 1: the first GiB translated to the same addresses with every permission. -/
def withTables (s : State) : State :=
  { ((s.setBytes ⟨.hbm, 0x1000⟩ [1, 0x20]).setBytes ⟨.hbm, 0x2000⟩ [1, 0x30]).setBytes ⟨.hbm, 0x3000⟩ [0x3F] with
    asids := [(1, { (default : AsidEntry) with root := 0x1000, wdog := 20, spool := 0x10000, splen := 0xFFFFFFFFFF })] }

set_option maxRecDepth 100000 in
/-- O47: each message, an acknowledgement that lets a request be granted among them, and a gate that stays shut too long. -/
theorem witness_messages : Due messageEvent (withMsg .invalidate 0 default) (.l1InvalidationReceive 0x200 96) ∧
    Due messageEvent (withMsg (.forward true) 0 default) (.l1ForwardReceive 0x200 96) ∧
    Due messageEvent (withMsg (.grant .e) 0 default) (.l1GrantReceive 0x200 96) ∧
    Due messageEvent (withMsg (.grant .m) 1 default) (.l1GrantReceive 0x200 96) ∧
    Due messageEvent (withMsg .wbAck 0 default) (.l1WritebackAck 0x200 96) ∧
    Due messageEvent (withMsg .invAck 0 { (default : HomeLine) with
      active := some (request .readExclusive 1), acks := [96], state := .inv }) (.homeInvalidationAck 0x200 96) ∧
    Due messageEvent (withMsg .writeback 0 { (default : HomeLine) with owner := 97 }) (.homeWritebackArrive 0x200 96) ∧
    Due messageEvent (withMsg .writeback 0 default) (.homeWritebackArrive 0x200 96) ∧
    Due messageEvent (withMsg (.fwdResponse false .o true) 0 { (default : HomeLine) with active := some (request .readShared 1) })
      (.homeForwardResponse 0x200) ∧
    Due messageEvent (withHome { (default : HomeLine) with active := some (request .readShared 1), state := .fetch })
      (.homeFetchDataArrive 0x200) ∧
    Due messageEvent (withTables replaying) (.replayGateTimeout 0x200) :=
  ⟨due rfl rfl, due rfl rfl, due rfl rfl, due rfl rfl, due rfl rfl, due rfl rfl, due rfl rfl, due rfl rfl,
   due rfl ⟨by decide, rfl⟩, due rfl ⟨rfl, rfl⟩, due rfl trivial⟩

/-- O48: an upgrade granted, a reader of a line no cache holds, and one of a line another L1 holds. -/
theorem witness_grants : ((request .upgrade 1).hint = 0 ∧ (request .upgrade 1).kind ≠ .readShared) ∧
    ((request .readShared 1).hint = 0 ∧ (request .readShared 1).kind = .readShared) ∧
    NoOtherCopy (withHome default) 0x200 96 ∧
    ¬ NoOtherCopy { withHome default with l1 := [(l1Key 97 0x200, ⟨.s, false⟩)] } 0x200 96 :=
  ⟨by decide, by decide, ⟨fun _ h => absurd h List.not_mem_nil, fun _ h => absurd h List.not_mem_nil, by decide⟩,
   fun h => absurd (h.1 _ (.head _) (by decide) (by decide)) (by decide)⟩

/-- A thread of a proof core that waits with an access of a place. -/
def sentTo (l : Loc) : State := onProof { thread0 with wait := some (.access (loadAt 0x10000 l)), waited := 1 }

/-- The same thread's tile, occupied, with what else it holds. -/
def remoteTile (s : State) (tile : Tile) : State := { s with tiles := [(0, { tile with group := 1025, sram := 1 })] }

/-- A thread's semaphore wait on the last semaphore of tile 0. -/
def parked1 : SemWait := { (default : SemWait) with who := .thread 0, sem := 63, thr := 1, remote := true }

/-- The only thread there is has no other of its gang before it. -/
theorem first_of {s : State} {tid : Nat} {t : Thread} {a : Access} (h : s.threads = [(tid, t)]) : FirstOfGang s tid a := by
  unfold FirstOfGang
  rw [h]
  intro p hp n
  cases hp with
  | head => exact absurd rfl n
  | tail _ m => exact absurd m List.not_mem_nil

/-- The package in a fabric domain with package 1. -/
def inDomain (s : State) : State := { s with domain := [0, 1] }

/-- An access of another package's line 0x200. -/
def peerAccess (op : AccessOp) : Access := { loadAt 0x10000 ⟨.peer 1, 0x10000⟩ with op := op }

set_option maxRecDepth 100000 in
/-- O49: accesses that travel to tiles and the host, resent atomics, and fences. -/
theorem witness_travel : Due travelEvent (remoteTile (sentTo ⟨.sp 0, 0⟩) default) (.remoteScratchpadAccess 0) ∧
    Due travelEvent (sentTo ⟨.sp 0, 0⟩) (.remoteScratchpadAccess 0) ∧
    Due travelEvent (sentTo ⟨.host, 0⟩) (.hostTransactionComplete 0) ∧
    Due travelEvent (onProof { thread0 with wait := some (.redirected (loadAt 0x10000 ⟨.hbm, 0x10000⟩)) })
      (.redirectedAtomicResend 0) ∧
    Due travelEvent { onProof { thread0 with wait := some (.redirected (loadAt 0x10000 ⟨.hbm, 0x10000⟩)) } with
      tlbs := [], frozen := [(0x10000, 0x10000)] } (.redirectedAtomicResend 0) ∧
    Due travelEvent { onProof { thread0 with wait := some (.access (peerAccess (.atom 0))) } with tlbs := [] }
      (.redirectedAtomicResend 0) ∧
    Due travelEvent (onProof { thread0 with wait := some .fence }) (.fenceComplete 0) ∧
    Due travelEvent (onProof { thread0 with wait := some .fencePort, ports := [(0, [⟨0, true, 7⟩])] }) (.fenceComplete 0) :=
  ⟨due rfl ⟨rfl, by decide, first_of rfl, rfl, rfl⟩, due rfl ⟨rfl, by decide, first_of rfl, rfl, rfl⟩,
   due rfl ⟨rfl, rfl, first_of rfl, rfl⟩, due rfl ⟨rfl, fun h => absurd h.2 (by decide), first_of rfl⟩,
   due rfl ⟨rfl, fun ⟨⟨_, _, h, _⟩, _⟩ => (nomatch (show none = some _ from h)), first_of rfl⟩,
   due rfl ⟨rfl, ⟨1, rfl⟩, fun ⟨_, _, h, _⟩ => (nomatch (show none = some _ from h)), first_of rfl⟩, due rfl ⟨rfl, .inl ⟨rfl, performed_of rfl⟩⟩,
   due rfl ⟨rfl, .inr ⟨rfl, by decide⟩⟩⟩

set_option maxRecDepth 100000 in
/-- O49: reads, writes and invalidations of other packages' lines, at either end; the companion and the host's enqueue. -/
theorem witness_fabric : Due travelEvent (inDomain (onProof { thread0 with wait := some (.access (peerAccess (.load false))) }))
      (.peerReadAtTarget 0 1 0x200) ∧
    Due travelEvent (inDomain (onProof { thread0 with wait := some (.line ⟨.peer 1, 0x10000⟩ 0x10000 false) }))
      (.peerReadAtTarget 0 1 0x200) ∧
    Due travelEvent (inDomain (onProof thread0)) (.peerReadAtTarget 1 0 0x200) ∧
    Due travelEvent (inDomain (onProof { thread0 with wait := some (.access (peerAccess .store)) })) (.peerWriteAtTarget 0 1 0x200 []) ∧
    Due travelEvent (onProof thread0) (.peerWriteAtTarget 1 2 0x200 [(0, 1)]) ∧
    Due travelEvent (inDomain (onProof thread0)) (.peerWriteAtTarget 1 0 0x200 [(0, 1), (127, 2)]) ∧
    Due travelEvent { onProof thread0 with peerL2 := [(0x200, ⟨true, []⟩)] } (.peerInvalidateReceive 0 0x200) ∧
    Due travelEvent { onProof thread0 with peerInv := [⟨1, 0x200, .thread 0⟩] } (.peerInvalidateReceive 1 0x200) ∧
    Due travelEvent (onProof thread0) (.companionAccess true 0x10000 8 5) ∧
    Due travelEvent (onProof thread0) (.companionAccess false 0xBFFFFFFFFF 1 0) ∧
    Due travelEvent (onProof thread0) (.companionAccess true 0x1FFFFFFFFFFFFF 1 7) ∧
    Due travelEvent (withRing 20 16) (.hostEnqueue 0x10000 0x80) :=
  ⟨due rfl (by decide), due rfl (by decide), due rfl (by decide), due rfl (by decide), due rfl (by decide), due rfl (by decide),
   due rfl (by decide), due rfl trivial, due rfl (by decide), due rfl (by decide), due rfl (by decide), due rfl (by decide)⟩

/-- Engine 9 of tile 0 with a started copy command whose image is given, long after it began to wait. -/
def longCopy (image : Nat) (contrib : List Nat) : State := { onEngine 9 { (default : Engine) with
    started := [{ (default : Command) with seq := 1, started := true, image := BitVec.ofNat 256 image, contrib := contrib }] } with
  cycle := 3800000
  tlbs := [(0, [⟨1, 0x10000, 0, 0x001000000001007F⟩])]
  waves := [(1, { (default : Wave) with
    state := .running, asid := 1, groups := 1, node := { (default : Node) with domain := 0x20000 } })] }

set_option maxRecDepth 100000 in
/-- O49: answers to the ranks of a COLL and to a store that waits for its line; what other packages and the companion send to a
frozen page, and to addresses that are nothing; an invalidation of a line already dropped; and an enqueue of the host that is
refused, is redirected, meets a poisoned descriptor, a malformed entry, and a ring in another package. -/
theorem witness_fabricMore :
    Due travelEvent (inDomain (longCopy (0x606 + 2 ^ 69 + 2 ^ 96) [5])) (.peerReadAtTarget 0 1 7) ∧
    Due travelEvent (inDomain (onProof { thread0 with wait := some (.line ⟨.peer 1, 0x10000⟩ 0x10000 true) }))
      (.peerWriteAtTarget 0 1 0x200 []) ∧
    (∀ i ∈ [Instr.peerReadAtTarget 1 0 0x200, .peerWriteAtTarget 1 0 0x200 [(0, 1)], .companionAccess true 0x10000 8 5,
        .hostEnqueue 0x10000 0x80],
      Due travelEvent { inDomain (withRing 20 16) with frozen := [(0x10000, 0x10000)] } i) ∧
    (∀ i ∈ [Instr.companionAccess true 0x10001 8 5, .companionAccess true 0xC000000000 8 5, .peerInvalidateReceive 0 0x200],
      Due travelEvent (onProof thread0) i) ∧
    Due travelEvent { withRing 20 16 with hostPark := some ⟨0x10000, 0x80, 0, true⟩ } (.hostEnqueue 0x10000 0x80) ∧
    Due travelEvent { withRing 20 16 with poison := [(0x200, true)] } (.hostEnqueue 0x10000 0x80) ∧
    Due travelEvent ((withRing 20 16).setBytes ⟨.hbm, 0⟩ [3]) (.hostEnqueue 0x10000 0x80) ∧
    Due travelEvent { withRing 20 16 with tlbs := [(198, [⟨0, 0x10000, 0, 0x001000000001007F⟩])] } (.hostEnqueue 0x10000 0x80) := by
  refine ⟨due rfl (by decide), due rfl (by decide), ?_, ?_, due rfl (by decide), due rfl (by decide), due rfl (by decide),
    due rfl (by decide)⟩
  · repeat (refine List.forall_mem_cons.2 ⟨due rfl (by decide), ?_⟩)
    exact fun _ h => absurd h List.not_mem_nil
  · refine List.forall_mem_cons.2 ⟨due rfl trivial, List.forall_mem_cons.2 ⟨due rfl trivial, List.forall_mem_cons.2
      ⟨due rfl trivial, fun _ h => absurd h List.not_mem_nil⟩⟩⟩

set_option maxRecDepth 100000 in
/-- O49: PEER_TIMEOUT of a thread's access and of its fetch, of a COLL over two packages whose own contribution is read, of a
CPY from another package's memory, of a strand's fetch, of a cut record, and of a watched queue's read. -/
theorem witness_peerTimeout :
    Due travelEvent { sentTo ⟨.peer 1, 0x10000⟩ with cycle := 3800000 } (.peerTimeout (.thread 0)) ∧
    Due travelEvent { onProof { thread0 with wait := some (.line ⟨.peer 1, 0x10000⟩ 0x10000 false), waited := 1 } with cycle := 3800000 }
      (.peerTimeout (.thread 0)) ∧
    Due travelEvent (inDomain (longCopy (0x606 + 2 ^ 69 + 2 ^ 96) [5])) (.peerTimeout (.engine 0 9)) ∧
    Due travelEvent (longCopy (0x601 + 2 ^ 98 + (3 * 2 ^ 60) * 2 ^ 128 + (2 ^ 60 + 0x10000) * 2 ^ 192) [])
      (.peerTimeout (.engine 0 9)) ∧
    Due travelEvent { onEngine 5 { (default : Engine) with strand := some { (default : Strand) with
      pc := 0x10000, wait := some (.line ⟨.peer 1, 0x10000⟩ 0x10000 false) } } with cycle := 3800000 } (.peerTimeout (.engine 0 5)) ∧
    Due travelEvent { onTile thread0 { (default : Tile) with cutSince := 1 } with cycle := 3800000 } (.peerTimeout (.engine 0 0)) ∧
    Due travelEvent { upState with cycle := 3800000, watched := [⟨0x10000, 1, 0, some ⟨.peer 1, 0x10000⟩, 0, false⟩] }
      (.peerTimeout .hub) :=
  ⟨due rfl ⟨rfl, ⟨1, rfl⟩, by decide⟩, due rfl ⟨rfl, ⟨1, rfl⟩, by decide⟩, due rfl (by decide), due rfl (by decide),
   due rfl ⟨⟨1, rfl⟩, by decide, rfl⟩, due rfl (by decide), due rfl ⟨_, .head _, rfl⟩⟩

set_option maxRecDepth 100000 in
/-- O49: a semaphore increment that has arrived, remote waits that park and that are met, and walks of a mapped page and of one
no longer asked for. -/
theorem witness_waits :
    Due travelEvent (remoteTile (onProof thread0) { (default : Tile) with incs := [⟨1, 63, 5, .thread 0, 0, 0⟩] })
      (.semIncrementApply 0) ∧
    Due travelEvent (remoteTile (onProof { thread0 with wait := some (.semwait 0 63 1 false) })
      { (default : Tile) with remoteq := [parked1] }) (.remoteWaitAdmit 0) ∧
    Due travelEvent (remoteTile (onProof { thread0 with wait := some (.semwait 0 63 1 false) })
      { (default : Tile) with remoteq := [parked1], sems := [(63, 1)] }) (.remoteWaitAdmit 0) ∧
    Due travelEvent { withTables (onProof { thread0 with wait := some (.walk 0x30000 0) }) with walks := [⟨1, 1, 0x30000, [], 0⟩] }
      .pageWalkComplete ∧
    Due travelEvent { onProof thread0 with walks := [⟨1, 1, 0x30000, [], 0⟩] } .pageWalkComplete :=
  ⟨due rfl (by decide), due rfl (by decide), due rfl (by decide), due rfl (by decide), due rfl (by decide)⟩

/-- A wave that closes its epoch and has sent a buffered write of a thread to a line of package 1. -/
def asking : State := { inDomain (onProof thread0) with
  cycle := 3800000
  waves := [(1, { (default : Wave) with
    state := .running, asid := 1, groups := 1, closing := true
    ask := some ⟨0, 0x10000, (⟨.peer 1, 0x10000⟩ : Loc).key / 128, false, 0⟩ })] }

set_option maxRecDepth 100000 in
/-- O49: the answer to an epoch's write, and none; an atomic and a failing CAS from another package; a record of the pool that
does not come; and walks that end absent, absent again, malformed and poisoned for a thread that waits. -/
theorem witness_travelMore : Due travelEvent asking (.peerWriteAtTarget 0 1 0x200 []) ∧
    Due travelEvent asking (.peerTimeout (.thread 0)) ∧
    (∀ op ∈ [(0 : Byte), 12], Due travelEvent (inDomain (onProof thread0))
      (.peerWriteAtTarget 1 0 0x200 [(128, op), (129, 8), (130, 8), (136, 5), (144, 1)])) ∧
    Due travelEvent { upState with cycle := 3800000, direct := [⟨0x10000, 1, 0, some ⟨.peer 1, 0x10000⟩, 0, false⟩] } (.peerTimeout .hub) ∧
    Due travelEvent { onProof { thread0 with wait := some (.walk 0x30000 0) } with walks := [⟨1, 1, 0x30000, [], 0⟩] }
      .pageWalkComplete ∧
    Due travelEvent { onProof { thread0 with wait := some (.walk 0x30000 0) } with
      walks := [⟨1, 1, 0x30000, [], 0⟩], parks := [⟨7, 1, 0, 4⟩] } .pageWalkComplete ∧
    Due travelEvent { (onProof { thread0 with wait := some (.walk 0x30000 0) }).setBytes ⟨.hbm, 0⟩ [3] with
      walks := [⟨1, 1, 0x30000, [], 0⟩] } .pageWalkComplete ∧
    Due travelEvent { onProof { thread0 with wait := some (.walk 0x30000 0) } with
      walks := [⟨1, 1, 0x30000, [], 0⟩], poison := [(0, true)] } .pageWalkComplete :=
  ⟨due rfl (by decide), due rfl trivial, List.forall_mem_cons.2 ⟨due rfl (by decide), List.forall_mem_cons.2
    ⟨due rfl (by decide), fun _ h => absurd h List.not_mem_nil⟩⟩, due rfl trivial, due rfl (by decide), due rfl (by decide),
   due rfl (by decide), due rfl (by decide)⟩

/-! ## Scheduling, ring commands, the host window and the package -/

/-- A wave of one proof group in a state, with a change. -/
def waveIn (st : WaveState) (f : Wave → Wave) (s : State) : State := { s with
  waves := [(1, f { (default : Wave) with
    state := st, asid := 1, groups := 1, placedOnce := true, node := { (default : Node) with ctl := 0x1004000, id := 7 } })] }

/-- A group of the wave on proof core 0 that has started, with a change. -/
def groupIn (f : Group → Group) (s : State) : State := { s with
  groups := [(1024, f { (default : Group) with unit := 96, placed := true, started := true, threads := 1, gmSize := 4096 })] }

/-- The same wave deterministic, its group at the flush point after its epoch. -/
def closing (t : Thread) : State := groupIn (fun g => { g with flushes := 1 })
  (waveIn .running (fun w => { w with node := { w.node with ctl := 0x1804000 } }) (onProof t))

/-- A frame entry of two droppable steps. -/
def frame1 : Frame := { (default : Frame) with
  present := true, mask := 3, entry := { (default : FrameEntry) with nstep := 2, dropm := 3, deadline := 10 } }

/-- O50: the last step. -/
theorem witness_governor : 63 < 64 := by decide

/-- What the end of a tile's stop waits for, where nothing is under way. -/
theorem stopDue {t : Thread} (h : t.wait = none) (hg : t.gid = 1024) {s : State} (hs : s = onTile t { (default : Tile) with
    stopped := true, stops := [.trap 9 1 4 5] }) : (s.tile 0).cutWait = 0 ∧ s.incsOut 0 = false ∧
      (∀ v ∈ s.peerInv, ∀ e n, v.writer ≠ .command 0 e n) ∧ (∀ a, (s.thread (controlTid 0)).wait ≠ some (.access a)) ∧
      (s.wave (waveOf (s.thread (controlTid 0)).gid)).closing = false ∧
      ((s.thread (controlTid 0)).tcut.getLsbD 0 = true → AllPerformed s (controlTid 0)) := by
  subst hs
  refine ⟨rfl, rfl, fun _ m => absurd m List.not_mem_nil, fun a => ?_, ?_, fun _ => performed_of rfl⟩
  · show t.wait ≠ _
    rw [h]
    exact nofun
  · show (State.wave _ (waveOf t.gid)).closing = _
    rw [hg]
    rfl

set_option maxRecDepth 100000 in
/-- O51: each event when it is due. -/
theorem witness_schedule : Due scheduleEvent { onProof thread0 with cycle := 256 } (.serviceCheck 0) ∧
    Due scheduleEvent (groupIn (fun g => { g with test := true }) (onProof { thread0 with wait := some .join }))
      (.convergenceTest 1024) ∧
    Due scheduleEvent (onProof { thread0 with wait := some (.wdone []) }) (.wdoneComplete 1024) ∧
    Due scheduleEvent { closing { thread0 with wait := some (.wdone []) } with
      groups := [(1024, { (default : Group) with unit := 0, placed := true, started := true, threads := 1 })] }
      (.wdoneComplete 1024) ∧
    Due scheduleEvent (groupIn (fun g => { g with steps := 1 }) (onProof { thread0 with wait := some (.govrd 0 4) }))
      (.govrdComplete 1) ∧
    Due scheduleEvent { groupIn (fun g => { g with asked := 1 }) (onProof { thread0 with
      wait := some (.govrd 0xFFFFFFFFFFFFFFFF 4) }) with frames := [(0, frame1)] } (.govrdComplete 1) ∧
    Due scheduleEvent (closing { thread0 with wait := some .dflush }) (.epochClose 1) ∧
    Due scheduleEvent (waveIn .running (fun w => { w with closing := true }) (onProof { thread0 with wait := some .dflush }))
      (.epochClose 1) ∧
    Due scheduleEvent (onProof { thread0 with live := false }) (.groupEnd 1024) ∧
    Due scheduleEvent (groupIn (fun g => { g with ended := true }) (waveIn .retiring id (onProof { thread0 with live := false })))
      (.waveRetire 1) ∧
    Due scheduleEvent { onProof thread0 with watched := [⟨0x10000, 1, 0, none, 0, false⟩] } .queueDrainRound ∧
    Due scheduleEvent (waveIn .ready id { upState with groups := [] }) .dispatchDecision ∧
    Due scheduleEvent (groupIn (fun g => { g with started := false })
      (waveIn .placed (fun w => { w with buffer := 0x20000 }) upState)) (.groupStart 1) ∧
    Due scheduleEvent { waveIn .running (fun w => { w with request := 1 }) (onProof thread0) with cycle := 190000 }
      (.preemptDeadline 1) ∧
    Due scheduleEvent { withTables ((waveIn .running (fun w => { w with mode := .drain }) (onProof thread0)).setBytes
      ⟨.hbm, 0x10002⟩ [2]) with cycle := 190000 } (.drainDeadline 1) ∧
    Due scheduleEvent (waveIn .preempted (fun w => { w with mode := .save, buffer := 0x20000 }) (onProof thread0))
      (.saveComplete 1) ∧
    Due scheduleEvent (onTile thread0 { (default : Tile) with stopped := true, stops := [.trap 9 1 4 5] }) (.tileStopComplete 0) ∧
    Due scheduleEvent { withTables (onProof { thread0 with wait := some .join, waited := 1 }) with cycle := 0x100000 }
      (.watchdogExpiry (.thread 0)) ∧
    Due scheduleEvent { withTables (onTile thread0 { (default : Tile) with engines := [(9, { (default : Engine) with
      issued := [{ (default : Command) with image := 0x40000000000000 }] })] }) with cycle := 0x100000 }
      (.watchdogExpiry (.engine 0 9)) ∧
    Due scheduleEvent (onProof { thread0 with halted := true }) (.haltedWaveResumeOrDiscard 1 true) ∧
    Due scheduleEvent (onProof { thread0 with halted := true }) (.haltedWaveResumeOrDiscard 1 false) ∧
    Due scheduleEvent (waveIn .pending (fun w => { w with refused := true }) upState) (.nodeDiscard 1) ∧
    Due scheduleEvent { onProof thread0 with faultq := { (default : FaultQueue) with
      registered := true, entries := 1, tail := 8, held := [default] } } .faultReportRelease := by
  refine ⟨due rfl (by decide), due rfl (by decide), due rfl (by decide), due rfl (by decide), due rfl trivial, due rfl trivial,
    due rfl rfl, due rfl rfl, due rfl (by decide), due rfl (by decide), due rfl (by decide), due rfl (by decide), due rfl (by decide),
    due rfl (by decide), due rfl (by decide), due rfl (by decide), due rfl (stopDue rfl rfl rfl),
    due rfl ⟨by decide, by decide, by decide, ⟨_, rfl, by decide⟩, by decide, by decide⟩, due rfl (by decide), due rfl (by decide), due rfl (by decide),
    due rfl (by decide), due rfl (by decide)⟩

/-- A ready wave of a critical frame whose group finds no room beside the restartable one on the only core not fenced. -/
def crowded : State := { onProof thread0 with
  host := { upState.host with cfence := 0xFFFFFFFFFFFFFFFE }
  groups := [(1024, { (default : Group) with unit := 96, placed := true, started := true, threads := 1, gmSize := 0x200000 })]
  waves := [(1, { (default : Wave) with
      state := .running, asid := 1, groups := 1, placedOnce := true, node := { (default : Node) with ctl := 0x1404000, id := 7 } }),
    (2, { (default : Wave) with
      state := .ready, asid := 1, groups := 1, critical := true
      node := { (default : Node) with ctl := 0x1004000, id := 8, mem := 0x1000 } })] }

set_option maxRecDepth 100000 in
/-- O51: a victim asked for, a record named directly whose read can be made, a restart's flush, and a cut record. -/
theorem witness_scheduleMore : Due scheduleEvent crowded .dispatchDecision ∧
    Due scheduleEvent { onProof thread0 with direct := [⟨0x10000, 1, 0, none, 0, false⟩] } .queueDrainRound ∧
    Due scheduleEvent (waveIn .preempted (fun w => { w with mode := .flush }) (onProof thread0)) (.saveComplete 1) ∧
    Due scheduleEvent (onTile { thread0 with tcut := 0x10041 }
      { (default : Tile) with stopped := true, stops := [.trap 9 1 4 5] }) (.tileStopComplete 0) :=
  ⟨due rfl (by decide +kernel), due rfl (by decide), due rfl (by decide), due rfl ⟨stopDue rfl rfl rfl, by decide⟩⟩

/-- The end of a tile's stop with a cut record at an address, and with a translation for it. -/
def cutting (tcut : Word) (tlb : List TlbEntry) (f : Tile → Tile) : State :=
  { onTile { thread0 with tcut := tcut } (f { (default : Tile) with stopped := true, stops := [.trap 9 1 4 5] }) with
    tlbs := [(0, tlb)] }

set_option maxRecDepth 100000 in
/-- O51: a cut record whose page is absent, was refused, has a malformed entry, or may not be written; and one that goes to
another package, before the answer and after. -/
theorem witness_cutRecord : Due scheduleEvent (cutting 0x20001 [] id) (.tileStopComplete 0) ∧
    Due scheduleEvent (cutting 0x20001 [] ({ · with cutRefused := true })) (.tileStopComplete 0) ∧
    Due scheduleEvent ((cutting 0x20001 [] id).setBytes ⟨.hbm, 0⟩ [3]) (.tileStopComplete 0) ∧
    Due scheduleEvent (cutting 0x10001 [⟨1, 0x10000, 0, 0x10003⟩] id) (.tileStopComplete 0) ∧
    Due scheduleEvent (inDomain (cutting 0x10001 [⟨1, 0x10000, 0, 0x001000000001007F⟩] id)) (.tileStopComplete 0) ∧
    Due scheduleEvent { inDomain (cutting 0x10001 [⟨1, 0x10000, 0, 0x001000000001007F⟩] id) with
      answers := [⟨.cut 0, (⟨.peer 1, 0x10000⟩ : Loc).key / 128⟩] } (.tileStopComplete 0) := by
  have w (t : Thread) (a : Access) (h : t.wait = none) : t.wait ≠ some (.access a) := by simp [h]
  refine ⟨due rfl ?_, due rfl ?_, due rfl ?_, due rfl ?_, due rfl ⟨?_, rfl⟩, due rfl ⟨?_, rfl⟩⟩
  all_goals exact ⟨rfl, rfl, fun _ m => absurd m List.not_mem_nil, fun a => w _ a rfl, rfl, fun _ => performed_of rfl⟩

set_option maxRecDepth 100000 in
/-- O51: a wave that stands at a YIELD is pre-empted, and a set that is held back still gets its victims. -/
theorem witness_preempting :
    Due scheduleEvent (waveIn .running (fun w => { w with request := 1, yielded := true }) (onProof thread0)) (.preemptDeadline 1) ∧
    Due scheduleEvent { crowded with waves := crowded.waves.map fun w => (w.1, { w.2 with
      node := { w.2.node with ops := [(0x1000, 0x8000000000001000)] } }) } .dispatchDecision :=
  ⟨due rfl (by decide), due rfl trivial⟩

/-- Sixty-four pattern entries of four other groups on proof core 0, old enough to go. -/
def fullStore : State := { onProof { thread0 with wait := some (.pattern 0 [0]) } with
  cycle := 65536
  groups := (1024, { (default : Group) with unit := 96, placed := true, started := true, threads := 1 }) ::
    (List.range 4).map fun n => (1025 + n, { (default : Group) with
      unit := 96, placed := true, started := true
      patterns := (List.range 16).map fun k => (k, { (default : PatSlot) with valid := true }) }) }

/-- A preempted wave whose commands have stopped, its L1 holding a dirty line or none. -/
def halted1 (l1 : SMap L1Line) : State := { waveIn .preempted (fun w => { w with
  mode := .save, halting := true, buffer := 0x20000 }) (onProof thread0) with l1 := l1 }

/-- A placed wave with two saved pattern slots on a core whose store has one entry free. -/
def oneFree : State := { upState with
  groups := (1024, { (default : Group) with unit := 96, placed := true, threads := 1 }) ::
    (1025, { (default : Group) with
      unit := 96, placed := true, started := true
      patterns := (List.range 15).map fun k => (k, { (default : PatSlot) with valid := true }) }) ::
    (List.range 3).map fun n => (1026 + n, { (default : Group) with
      unit := 96, placed := true, started := true
      patterns := (List.range 16).map fun k => (k, { (default : PatSlot) with valid := true }) })
  waves := [(1, { (default : Wave) with
    state := .placed, asid := 1, groups := 1, placedOnce := true
    saved := [{ (default : SaveGroup) with group := { (default : Group) with
      patterns := [(3, { (default : PatSlot) with valid := true }), (9, { (default : PatSlot) with valid := true })] } }] })] }

set_option maxRecDepth 100000 in
/-- O51: the later stages of a save, and a start that can install one of two saved pattern slots. -/
theorem witness_stages : Due scheduleEvent (halted1 [(l1Key 96 0x200, ⟨.m, false⟩)]) (.saveComplete 1) ∧
    Due scheduleEvent (halted1 []) (.saveComplete 1) ∧ Due scheduleEvent oneFree (.groupStart 1) :=
  ⟨due rfl (by decide), due rfl (by decide), due rfl (by decide +kernel)⟩

set_option maxRecDepth 100000 in
/-- O51: an entry of a full pattern store. -/
theorem witness_evictable : Due scheduleEvent fullStore (.patternEntryEvictable 0) :=
  due rfl ⟨by decide +kernel, by decide⟩

/-- Nothing is under way in the package. -/
theorem quiet {line : Nat} : Quiet upState line :=
  ⟨rfl, fun _ h => absurd h List.not_mem_nil, fun _ h => absurd h List.not_mem_nil, rfl⟩

set_option maxRecDepth 100000 in
/-- O52: each ring command, with the least and the greatest values it takes. -/
theorem witness_ring : (∀ n ∈ [(1 : BitVec 7), 64], Due ringEvent upState
      (.frameTableWrite 15 { (default : FrameEntry) with nstep := n, fix := true, fmask := 5 })) ∧
    Due ringEvent upState (.recordControlWrite 4095 { (default : RecordBlock) with
      mode := 2, nw := 1, ranges := [(0x1000, 0x2000)], loglen := 128 }) ∧
    (∀ w ∈ [(20 : BitVec 6), 40], Due ringEvent upState (.asidEntryWrite 4095 { (default : AsidEntry) with
      root := 0x1000, cut := 0x40, wdog := w })) ∧
    Due ringEvent upState (.watchQueueRegister 0x1FFFFFFFFFFFF80 4095) ∧
    Due ringEvent upState (.faultQueueRegister 0 1 0 8) ∧
    Due ringEvent { upState with parks := [⟨3, 1, 0x30000, 0⟩] } (.pageFaultReplay 3) ∧
    Due ringEvent { upState with parks := [⟨3, 1, 0x30000, 0⟩] } (.pageFaultRefuse 3) ∧
    Due ringEvent upState (.shootdown 1 0 0xFFFFFFFFF) ∧ Due ringEvent upState (.freeze 0xBFFFFF0000 0x10000) ∧
    Due ringEvent { upState with frozen := [(0x20000, 0x10000)] } (.thaw 0x20000) ∧
    Due ringEvent upState (.directNodeWrite 0x10080 1) ∧ Due ringEvent upState (.preemptRequest 1) ∧
    Due ringEvent upState (.fabricDomainRegister [1, 4095]) ∧
    Due ringEvent upState (.scrubWrite 0xBFFFFFFF80 (List.replicate 128 0)) := by
  refine ⟨?_, due rfl ⟨rfl, by decide, by decide, by decide, fun _ => rfl, by decide, by decide, by decide,
      List.forall_mem_cons.2 ⟨by decide, fun _ h => absurd h List.not_mem_nil⟩, by decide⟩, ?_, due rfl (by decide),
    due rfl (by decide), due rfl ⟨rfl, by decide, by decide, ⟨_, .head _, rfl⟩⟩,
    due rfl ⟨rfl, by decide, by decide, ⟨_, .head _, rfl⟩⟩,
    due rfl ⟨rfl, by decide, by decide, by decide, by decide, fun _ h => absurd h List.not_mem_nil, by decide⟩,
    due rfl ⟨rfl, by decide, by decide, ⟨by decide, by decide, by decide, by decide⟩, fun _ _ => quiet⟩,
    due rfl ⟨rfl, by decide, by decide, ⟨_, .head _, rfl⟩⟩,
    due rfl (by decide), due rfl (by decide), due rfl (by decide),
    due rfl ⟨rfl, by decide, by decide, by decide, by decide, by decide, quiet⟩⟩
  · exact List.forall_mem_cons.2 ⟨due rfl (by decide), List.forall_mem_cons.2 ⟨due rfl (by decide),
      fun _ h => absurd h List.not_mem_nil⟩⟩
  · exact List.forall_mem_cons.2 ⟨due rfl (by decide), List.forall_mem_cons.2 ⟨due rfl (by decide),
      fun _ h => absurd h List.not_mem_nil⟩⟩

set_option maxRecDepth 100000 in
/-- O52: a freeze whose page has copies in another package, before they are dropped and after; and a page answered that the host's
enqueue waits for. -/
theorem witness_freezing :
    Due ringEvent { upState with peerInv := [⟨1, 0x200, .other⟩] } (.freeze 0x10000 0x10000) ∧
    Due ringEvent { upState with frozen := [(0x10000, 0x10000)] } (.freeze 0x10000 0x10000) ∧
    Due ringEvent { upState with parks := [⟨3, 0, 0x30000, 0⟩], hostPark := some ⟨0x10000, 0x80, 4, false⟩ } (.pageFaultReplay 3) :=
  ⟨due rfl ⟨rfl, by decide, by decide, ⟨by decide, by decide, by decide, by decide⟩,
      fun _ h => absurd (show _ ∈ ([] : List Nat) from h) List.not_mem_nil⟩, due rfl ⟨rfl, by decide, by decide, by decide⟩,
   due rfl ⟨rfl, by decide, by decide, ⟨_, .head _, rfl⟩⟩⟩

/-- A package with changed host registers. -/
def hostIs (f : HostRegs → HostRegs) : State := { upState with host := f upState.host }

/-- Bring-up at a value of STATE. -/
def bringUp (n : BitVec 4) : State := hostIs fun h => { h with ready := false, fack := false, state := n }

/-- The package with a link. -/
def linkIs (n : Nat) (l : Link) : State := { upState with links := [(n, l)], cycle := 2850 }

set_option maxRecDepth 100000 in
/-- O53: each register of the window. -/
theorem witness_window : (∀ v ∈ [(0 : Word), 1], Due windowEvent upState (.fsubmit v)) ∧
    Due windowEvent (hostIs fun h => { h with fack := false, state := 3 }) (.fsubmit 1) ∧
    Due windowEvent (hostIs fun h => { h with fack := false, state := 3, facc := 2 }) (.fsubmit 1) ∧
    (∀ v ∈ [(0 : Word), 8], Due windowEvent upState (.hstatWrite v)) ∧
    (∀ v ∈ [(0 : Word), 0x8000000000000000], Due windowEvent upState (.linkPinWrite 15 v)) ∧
    (∀ v ∈ [(1 : Word), 0x1A], Due windowEvent upState (.drstGo v)) ∧
    (∀ next ∈ [([] : List Nat), [3]], Due windowEvent (hostIs fun h => { h with
      drstBusy := true, drstDie := 10, drstNow := 10, drstNext := next }) .dieQuiesceEnd) ∧
    Due windowEvent upState (.allowWrite 16 3600000) ∧ Due windowEvent upState (.cecntRead ⟨16, 8⟩) ∧
    Due windowEvent upState (.cecntRead ⟨16, 4⟩) ∧
    (∀ v ∈ [(2 : Word), 3], Due windowEvent upState (.keyCommit v)) ∧
    (∀ off ∈ [0x20, 0x28, 0x40, 0x48, 0x50, 0x1008, 0x1020, 0x1028, 0x1040, 0x2000, 0x2018],
      Due windowEvent (bringUp 3) (.hostRegWrite off 8 1)) ∧ Due windowEvent (bringUp 3) (.hostRegWrite 0x30 8 0xFFFF) ∧
    Due windowEvent upState (.hostRegWrite 0x1000 8 511) ∧ Due windowEvent upState (.hostRegWrite 0x60 4 1) ∧
    (∀ b ∈ [true, false], Due windowEvent upState (.driverPathAccess b b 0xBFFFFFFFFF [5])) ∧
    Due windowEvent upState (.driverPathAccess true false 0xBFFFFFFFFF [5, 6]) := by
  refine ⟨?_, due rfl (by decide), due rfl (by decide), ?_, ?_, ?_, ?_, due rfl (by decide), due rfl (by decide),
    due rfl trivial, ?_, ?_, due rfl (by decide), due rfl (by decide), due rfl (by decide), ?_, due rfl trivial⟩
  on_goal 7 =>
    repeat (refine List.forall_mem_cons.2 ⟨due rfl (by decide), ?_⟩)
    exact fun _ h => absurd h List.not_mem_nil
  on_goal 6 => exact List.forall_mem_cons.2 ⟨due rfl ⟨by decide, fun _ _ => quiet⟩, List.forall_mem_cons.2
    ⟨due rfl ⟨by decide, fun _ _ => quiet⟩, fun _ h => absurd h List.not_mem_nil⟩⟩
  on_goal 6 => exact List.forall_mem_cons.2 ⟨due rfl ⟨by decide, fun _ _ => quiet⟩, List.forall_mem_cons.2
    ⟨due rfl ⟨by decide, fun _ _ => quiet⟩, fun _ h => absurd h List.not_mem_nil⟩⟩
  all_goals
    exact List.forall_mem_cons.2 ⟨due rfl (by decide), List.forall_mem_cons.2 ⟨due rfl (by decide),
      fun _ h => absurd h List.not_mem_nil⟩⟩

set_option maxRecDepth 100000 in
/-- O53: links, errors, energy and bring-up. -/
theorem witness_package : Due packageEvent upState (.linkMeasureWindow 15 86 100) ∧
    Due packageEvent (linkIs 15 { (default : Link) with rate := 3 }) (.linkMeasureWindow 15 100 60) ∧
    Due packageEvent upState (.linkMeasureWindow 15 85 61) ∧
    Due packageEvent { linkIs 0 { (default : Link) with retraining := true, until_ := 2850 } with
      home := [(0x200, { (default : HomeLine) with queue := [{ request .readShared 0 with trip := .held }] })] } (.retrainWindowEnd 0) ∧
    (∀ n ∈ [9, 10], Due packageEvent (linkIs n { (default : Link) with retraining := true, until_ := 2850 })
      (.linkRetrainFail n)) ∧
    Due packageEvent upState (.flitCheckFail 15) ∧ Due packageEvent upState (.correctedError 16) ∧
    Due packageEvent upState (.uncorrectableError (.hbm 0xBFFFFFFFFF)) ∧
    Due packageEvent { upState with l1 := [(l1Key 96 0x200, ⟨.m, false⟩)] } (.uncorrectableError (.l1 96 0x200)) ∧
    Due packageEvent { upState with l1 := [(l1Key 96 0x200, ⟨.s, false⟩)] } (.uncorrectableError (.l1 96 0x200)) ∧
    Due packageEvent upState (.uncorrectableError (.host 0xFFFFFFFFFFFFF)) ∧
    Due packageEvent upState (.uncorrectableError (.peer 4095 0xFFFFFFFFFFFFF)) ∧
    Due packageEvent upState (.uncorrectableError (.scratch 95 0x1FFFFFF)) ∧
    Due packageEvent upState (.uncorrectableError (.groupMem 63 0x1FFFFF)) ∧
    Due packageEvent (onProof thread0) (.uncorrectableError (.unitState (.thread 0))) ∧
    Due packageEvent (onTile thread0 default) (.uncorrectableError (.unitState (.engine 0 9))) ∧
    Due packageEvent upState (.patrolScrub 0x17FFFFFFF) ∧
    (∀ d ∈ [1, 10], Due packageEvent { upState with host := { upState.host with allow := [(d, 5)] } } (.energyAllowanceReached ⟨d, List.replicate 11 5⟩)) ∧
    Due packageEvent { upState with cycle := 1900000 } (.energyWindowEnd [3600001]) ∧ Due packageEvent upState (.thermalTrip 16) ∧
    Due packageEvent { upState with energy := { upState.energy with thermal := true } } .thermalClear ∧
    Due packageEvent State.reset .powerGood ∧ (∀ e ∈ [0, 1], Due packageEvent (bringUp 0) (.selfTestDone e)) ∧
    (∀ e ∈ [0, 2], Due packageEvent (bringUp 1) (.hbmTrainingDone e)) ∧
    (∀ e ∈ [0, 3], Due packageEvent (bringUp 2) (.hbmInitDone e)) ∧ Due packageEvent upState .packageReset := by
  refine ⟨due rfl (by decide), due rfl (by decide), due rfl (by decide), due rfl (by decide), ?_, due rfl (by decide),
    due rfl (by decide), due rfl (by decide), due rfl trivial, due rfl (by decide), due rfl (by decide), due rfl (by decide),
    due rfl (by decide), due rfl (by decide), due rfl rfl, due rfl rfl, due rfl (by decide), ?_, due rfl (by decide),
    due rfl (by decide), due rfl rfl, due rfl rfl, ?_, ?_, ?_, due rfl trivial⟩
  all_goals
    exact List.forall_mem_cons.2 ⟨due rfl (by decide), List.forall_mem_cons.2 ⟨due rfl (by decide),
      fun _ h => absurd h List.not_mem_nil⟩⟩

/-! ## Steps -/

/-- A state whose next turn is an agent's, with words from 0x10000 on. -/
def turnOf (a : Agent) (s : State) (ws : List Nat) : State :=
  { s.setBytes ⟨.hbm, 0x10000⟩ (ws.flatMap (leBytes 4)) with queue := [a] }

/-- What the statement about steps asks of a control core whose turn it is. -/
abbrev OnTurn (s : State) : Prop := HasTurn s (.thread 65536) [] ∧ isControl 65536 = true ∧ ({ s with queue := [] }).canIssue 65536 = true

/-- The state a control core's fetch starts from. -/
def atFetch (s : State) : State := { s with queue := [], cur := .thread 65536 }

/-- A control core's fetch. -/
abbrev Fetched (s : State) (va w : Nat) (u : State) : Prop := Fetches s ((atFetch s).who 65536) (slotOf 65536) needX va w u

set_option maxRecDepth 100000 in
/-- O54: a control core at MOVI, at LOOP with its second word, at a prefix before MOVI, and at a word no row names. -/
theorem witness_stepControl :
    (let s := turnOf (.thread 65536) (onTile thread0 default) [0x32140004]
     OnTurn s ∧ (∃ u, Fetched (atFetch s) 0x10000 0x32140004 u) ∧ wordCount 0x32140004 = 1 ∧
      fSel 0x32140004 ≠ 2 ∧ decodeCore 0x32140004 0 = .ok (.movi 5 4)) ∧
    (let s := turnOf (.thread 65536) (onTile thread0 default) [0x4C005000, 6]
     OnTurn s ∧ (∃ u x, Fetched (atFetch s) 0x10000 0x4C005000 u ∧ Fetched u 0x10004 6 x) ∧ wordCount 0x4C005000 = 2 ∧
      decodeCore 0x4C005000 6 = .ok (.loop always 5 6)) ∧
    (let s := turnOf (.thread 65536) (onTile thread0 default) [0x87400000, 0x32140004]
     OnTurn s ∧ fSel 0x87400000 = 2 ∧ ∃ u x p t, Fetched (atFetch s) 0x10000 0x87400000 u ∧ Fetched u 0x10004 0x32140004 x ∧
      decodeCore 0x87400000 0 = .ok p ∧ exec p x = .next t) ∧
    (let s := turnOf (.thread 65536) (onTile thread0 default) [5]
     OnTurn s ∧ (∃ u, Fetched (atFetch s) 0x10000 5 u) ∧ wordCount 5 = 1 ∧ ∃ e, decodeCore 5 0 = .error e) :=
  ⟨⟨⟨⟨rfl, rfl⟩, rfl, rfl⟩, ⟨_, _, _, _, rfl, rfl, rfl, rfl, rfl, by decide⟩, rfl, by decide, by decide⟩,
    ⟨⟨⟨rfl, rfl⟩, rfl, rfl⟩, ⟨_, _, ⟨_, _, _, rfl, rfl, rfl, rfl, rfl, by decide⟩, ⟨_, _, _, rfl, rfl, rfl, rfl, rfl, by decide⟩⟩,
      rfl, by decide⟩,
    ⟨⟨⟨rfl, rfl⟩, rfl, rfl⟩, rfl, _, _, .pfx 0 0x7400000, _, ⟨_, _, _, rfl, rfl, rfl, rfl, rfl, by decide⟩,
      ⟨_, _, _, rfl, rfl, rfl, rfl, rfl, by decide⟩, by decide, rfl⟩,
    ⟨⟨rfl, rfl⟩, rfl, rfl⟩, ⟨_, _, _, _, rfl, rfl, rfl, rfl, rfl, by decide⟩, rfl, _, rfl⟩

set_option maxRecDepth 100000 in
/-- O54: a strand at AMEND. -/
theorem witness_stepEngine :
    let s := turnOf (.engine 0 5) (onWord validStrand) [0xC5080007]
    let c := { s with queue := [], cur := .engine 0 5 }
    HasTurn s (.engine 0 5) [] ∧ firstNext c (c.engine 0 5).candidates = none ∧ (c.engine 0 5).strand = some validStrand ∧
    (c.tile 0).stopped = false ∧ validStrand.idling = false ∧ (c.engine 0 5).full = false ∧ validStrand.wait = none ∧
    (∃ u, Fetches c (c.tileWho 0) 0 needR validStrand.pc.toNat 0xC5080007 u) ∧
    decodePatch 0xC5080007 = .ok (.amend 5 1 7) :=
  ⟨⟨rfl, rfl⟩, rfl, rfl, rfl, rfl, rfl, rfl, ⟨_, _, _, _, rfl, rfl, rfl, rfl, rfl, by decide⟩, by decide⟩

set_option maxRecDepth 100000 in
/-- O54: the only runnable thread of a proof core at MOVI. -/
theorem witness_stepProof :
    let s := turnOf (.thread 0) (onProof thread0) [0x32140004]
    let c := { s with queue := [] }
    let f := c.setCore 0 { c.core 0 with serve := 0 }
    HasTurn s (.thread 0) [] ∧ c.gangLead 0 = some 0 ∧ c.gangOf 0 0 = [0] ∧
    ∃ r t, Fetches f (f.who 0) (slotOf 0) needX (f.thread 0).pc.toNat 0x32140004 r ∧
      (let h := r.setCore 0 { r.core 0 with gang := lanesOf [0] }
       let g := h.setThread 0 { h.thread 0 with since := h.cycle }
       g.canIssue 0 = true ∧ exec (.movi 5 4) { g with cur := .thread 0 } = .next t) :=
  ⟨⟨rfl, rfl⟩, by decide, by decide, _, _, ⟨_, _, _, rfl, rfl, rfl, rfl, rfl, by decide⟩, by decide, rfl⟩

/-- O56: an instruction of one word, of two, and a patch word. -/
theorem witness_roundTrip : (wellFormed (.movi 5 4) = true ∧ encode (.movi 5 4) = [0x32140004] ∧ fSel 0x32140004 ≠ 3) ∧
    (wellFormed (.loop always 5 6) = true ∧ encode (.loop always 5 6) = [0x4C005000, 6]) ∧
    wellFormed (.amend 5 1 7) = true ∧ encode (.amend 5 1 7) = [0xC5080007] ∧ fSel 0xC5080007 = 3 := by decide

set_option maxRecDepth 100000 in
/-- O57: a state in canonical form whose step goes on. -/
theorem witness_canonical : (turnOf (.thread 0) (onProof thread0) [0x32140004]).mem.wf = true ∧
    ∃ t, step (turnOf (.thread 0) (onProof thread0) [0x32140004]) = .next t := ⟨by decide, _, rfl⟩

/-- O59: an instruction of each table that completes in a thread that does not step. -/
theorem witness_registerFrame : ∀ i ∈ [Instr.add always 1 2 3, .cmp always 7 1 2 3, .fadd always 0 1 2 3, .bra always 0x3FFFF],
    ∃ e t, registerEffect (onProof thread0) 0 i = some e ∧ wellFormed i = true ∧ Able (onProof thread0) 0 e.spec ∧ e.needs ∧
      ((onProof thread0).thread 0).step = false ∧ exec i (onProof thread0) = .next t := by
  repeat (refine List.forall_mem_cons.2 ⟨⟨_, _, rfl, rfl, able_of_canExecute rfl, trivial, rfl, rfl⟩, ?_⟩)
  exact fun _ h => absurd h List.not_mem_nil

set_option maxRecDepth 20000 in
/-- O60: a load, a store and an atomic that complete. -/
theorem witness_accessFrame : ∀ i ∈ [Instr.ldDShort 1 2 0, .stDShort 1 2 0, .atom always 0 1 2 3 0 true 0],
    ∃ l t, AccessMet memForm (onProof addressed) 0 l i ∧ (onProof addressed).mem.wf = true ∧
      ((onProof addressed).thread 0).step = false ∧ exec i (onProof addressed) = .next t := by
  repeat (refine List.forall_mem_cons.2 ⟨⟨_, _, accessMet_of rfl rfl rfl rfl
    ⟨.inl rfl, rfl, rfl, rfl, .inr rfl⟩ rfl (fun _ => ⟨rfl, rfl⟩) rfl, rfl, rfl, rfl⟩, ?_⟩)
  exact fun _ h => absurd h List.not_mem_nil

/-! ## Results worked out from the manual -/

/-- The thread of a next state. -/
def threadAfter (tid : Nat) : Host.Outcome State Fault Refusal → Option Thread
  | .next t => some (t.thread tid)
  | _ => none

/-- A register of thread 0 after an instruction, with what its registers hold and its prefix words. -/
def gives0 (l : List (Nat × Word)) (pfx : List Half) (i : Instr) (d : BitVec 6) : Option Word :=
  (threadAfter 0 (exec i (onProof { withRegs l with pfx := pfx }))).map (·.rd d)

/-- 09 R164's examples: ADD.sats, SUB.satu and ABS.satu. -/
theorem test_saturation :
    gives0 [(2, 0x7FFFFFFFFFFFFFFE), (3, 5)] [0x87400000] (.add always 1 2 3) 1 = some 0x7FFFFFFFFFFFFFFF ∧
    gives0 [(2, 0x7FFFFFFFFFFFFFFE), (3, 5)] [0x87800000] (.sub always 1 3 2) 1 = some 0 ∧
    gives0 [(2, 0x8000000000000000)] [0x87800000] (.abs always 1 2) 1 = some 0x8000000000000000 := by decide

/-- 03 Table 3.3: a divisor of zero, and the most negative dividend by -1. -/
theorem test_division : gives0 [(2, 7)] [] (.div always 1 2 3) 1 = some 0xFFFFFFFFFFFFFFFF ∧
    gives0 [(2, 7)] [] (.remu always 1 2 3) 1 = some 7 ∧
    gives0 [(2, 0x8000000000000000), (3, 0xFFFFFFFFFFFFFFFF)] [] (.div always 1 2 3) 1 = some 0x8000000000000000 ∧
    gives0 [(2, 0x8000000000000000), (3, 0xFFFFFFFFFFFFFFFF)] [] (.rem always 1 2 3) 1 = some 0 ∧
    gives0 [(2, 0xFFFFFFFFFFFFFFF9), (3, 2)] [] (.rem always 1 2 3) 1 = some 0xFFFFFFFFFFFFFFFF := by decide

/-- 09 Table 9.1: the high product of -1 and 2, and of the same words unsigned. -/
theorem test_mulHigh : gives0 [(2, 0xFFFFFFFFFFFFFFFF), (3, 2)] [] (.mulh always 1 2 3) 1 = some 0xFFFFFFFFFFFFFFFF ∧
    gives0 [(2, 0xFFFFFFFFFFFFFFFF), (3, 2)] [] (.mulhu always 1 2 3) 1 = some 1 := by decide

/-- 09 Table 9.1: shift counts count modulo 64; counts of a zero word are 64. -/
theorem test_shiftsCounts : gives0 [(2, 0x8000000000000000), (3, 0x41)] [] (.sar always 1 2 3) 1 = some 0xC000000000000000 ∧
    gives0 [(2, 0x8000000000000001), (3, 4)] [] (.rotl always 1 2 3) 1 = some 0x18 ∧
    gives0 [] [] (.clz always 1 2) 1 = some 64 ∧ gives0 [(2, 8)] [] (.ctz always 1 2) 1 = some 3 := by decide

/-- 09 Table 9.3: a sign-extended field at the top, and a field inserted. -/
theorem test_bitFields : gives0 [(2, 0x8000000000000000)] [] (.extbSx always 1 2 60 4) 1 = some 0xFFFFFFFFFFFFFFF8 ∧
    gives0 [(1, 0xFFFF), (2, 0x5)] [] (.insb always 1 2 4 8) 1 = some 0xF05F := by decide

/-- Register g0 reads zero and discards what is written to it (00 R7). -/
theorem test_g0 : gives0 [(2, 7)] [] (.mov always 0 2) 0 = some 0 := by decide

/-- 04 Table 4.5: the first draw of key, counter and stream zero. -/
theorem test_qcg : gives0 [] [] (.rngb 1 2 0) 1 = some 0xBF82A5F1 := by decide

/-- IEEE 754: 1.5 + 2.25 is 3.75, and 1 / 0 is infinity with DZ (03 R53, R57). -/
theorem test_float : gives0 [(2, 0x3FC00000), (3, 0x40100000)] [] (.fadd always 0 1 2 3) 1 = some 0x40700000 ∧
    gives0 [(2, 0x3F800000)] [] (.fdiv always 0 1 2 3) 1 = some 0x7F800000 ∧
    (threadAfter 0 (exec (.fdiv always 0 1 2 3) (onProof (withRegs [(2, 0x3F800000)])))).map (·.fl) = some 8 := by decide

/-- The tie of 03 R52: 1 + 2^-24 is 1 rounded to nearest even and one ulp more rounded up, in FP32; the prefix names RUP. -/
theorem test_rounding : gives0 [(2, 0x3F800000), (3, 0x33800000)] [] (.fadd always 0 1 2 3) 1 = some 0x3F800000 ∧
    gives0 [(2, 0x3F800000), (3, 0x33800000)] [0x82000000] (.fadd always 0 1 2 3) 1 = some 0x3F800001 := by decide

/-- 09 Table 9.10: .incw wraps at its operand, and the old value is returned. -/
theorem test_atomic : let s := (onProof (withRegs [(2, 0x10008), (3, 5)])).setBytes ⟨.hbm, 0x10008⟩ [5]
    (threadAfter 0 (exec (.atom always 0 1 2 3 0 true 9) s)).map (·.rd 1) = some 5 ∧
    (match exec (.atom always 0 1 2 3 0 true 9) s with | .next t => some (t.numAt ⟨.hbm, 0x10008⟩ 8) | _ => none) =
      some 0 := by decide

/-- 09 R184: a byte loaded with its sign, and one without. -/
theorem test_loadByte : let s := (onProof addressed).setBytes ⟨.hbm, 0x10008⟩ [0x80]
    (threadAfter 0 (exec (.ldSxBShort 1 2 0) s)).map (·.rd 1) = some 0xFFFFFFFFFFFFFF80 ∧
    (threadAfter 0 (exec (.ldBShort 1 2 0) s)).map (·.rd 1) = some 0x80 := by decide

/-- 00 R5: a word is stored least significant byte first. -/
theorem test_storeOrder : (match exec (.stWShort 3 2 0) (onProof (withRegs [(2, 0x10008), (3, 0x11223344)])) with
    | .next t => (List.range 5).map fun k => t.byteAt ⟨.hbm, 0x10008 + k⟩
    | _ => []) = [0x44, 0x33, 0x22, 0x11, 0] := by decide

/-- 09 R120, R180: a branch two words back, a call's link, and a LOOP of no trips that goes past its body. -/
theorem test_flow : (threadAfter 0 (exec (.bra always 0x3FFFE) (onProof thread0))).map (·.pc) = some 0xFFF8 ∧
    (threadAfter 0 (exec (.call always 2) (onProof thread0))).map (fun t => (t.pc, t.rd 14)) = some (0x10008, 0x10004) ∧
    (threadAfter 0 (exec (.loop always 2 6) (onProof thread0))).map (fun t => (t.pc, t.loops)) =
      some (0x1001C, []) := by decide

/-- 23 R381: TRAP at level U goes to c.tvec with cause 0x12, the address after it, and its code. -/
theorem test_trap : (threadAfter 0 (exec (.trap always 9) (onProof { thread0 with tvec := 0x4000 }))).map
    (fun t => (t.pc, t.prv, t.tcause, t.tepc, t.tval)) = some (0x4000, true, 0x12, 0x10004, 9) := by decide

/-- 09 R209: a rounding code that is no mode is refused: ILLEGAL_INSTRUCTION with the instruction's word, and
nothing is written. -/
theorem test_fmodeRefused : (threadAfter 0 (exec (.csrw always 2 0x010) (onProof (withRegs [(2, 10)])))).map
    (fun t => (t.tcause, t.tval, t.fmode)) = some (1, 0x48002001, 0) := by decide

/-- 12 (commentary on R216, R223): VOTE.all over lanes 0 and 4 is false when lane 4 has no thread. -/
theorem test_vote : (threadAfter 0 (exec (.vote always 2 1 false 1 0x10) (onProof { thread0 with q := 2 }))).map (·.pred 2) =
    some false ∧
    (threadAfter 0 (exec (.vote always 2 1 false 0 0x10) (onProof { thread0 with q := 2 }))).map (·.pred 2) = some true := by
  decide

/-- 04 Table 4.1: thirty-two FP32 values, the last twenty-five zero, packed to E2M1 with scale 0x80. -/
theorem test_mxPack : mxPack 5 none (([0x41680000, 0x41300000, 0xC0266666, 0x40A00000, 0x40E00000, 0x3F000000, 0x80000000].map
    (decodeF fp32)) ++ List.replicate 25 zeroV) = (0x80, [7, 7, 0xB, 4, 6, 0, 8] ++ List.replicate 25 0) := by decide

/-- 04 Table 4.3: coordinates of three Picot-8 indices times their scales. -/
theorem test_picot : ([(0x0000, 7, 0x3E80), (0x0105, 0, 0x3FC0), (0x0105, 6, 0x3FC0), (0x12C0, 6, 0xC000), (0x12C0, 7, 0xC000)].map
    fun x => rne32 (mulV (picotValue x.1 x.2.1) (decodeF bf16 x.2.2)).1) =
    [0x3E000000, 0xBF400000, 0x40100000, 0x3F800000, 0x40A00000] := by decide +kernel

/-- 13 Table 13.6: places of four elements of one column and of (20, 5) under BPM 2. -/
theorem test_layout : let l : Layout := ⟨0x100000, 0x40, 0, 0, 2, 0, 256, 6, 1⟩
    [0, 256, 512, 768, 5 * 256 + 20].map (l.elem 0x100000 32 32) = [0x100000, 0x100410, 0x100820, 0x100C30, 0x101400] := by
  decide

/-- 04 Table 4.4: the column sum of two groups of sixteen, and of a first command of one product and a second of the rest. -/
theorem test_columnSum :
    let b : List Nat := [0x4580, 0x3F80, 0x3F80, 0x4580] ++ List.replicate 12 0 ++ [0x3F80]
    let a : List Nat := [0x4580, 0x3F80, 0x3F80, 0xC580] ++ List.replicate 12 0 ++ [0x4040]
    let h (ws : List Nat) : Hoop := { (default : Hoop) with
      present := true, loaded := true, wfmt := 2, wk := ws.length, wn := 1, weights := ws.zipIdx.map fun x => (x.2 * 384, x.1) }
    let run (n : Nat) (acc : Nat) : Nat := columnSum (h (b.drop n)) 2 false ((a.drop n).map some) [] 0 acc
    run 0 0 = 0x40800000 ∧
    run 1 (columnSum (h (b.take 1)) 2 false ((a.take 1).map some) [] 0 0) = 0x40A00000 := by decide +kernel

/-- 16 Table 16.6: the window sum -32 of the worked pixel, in BF16. -/
theorem test_window :
    let a : List Nat := [0x41A0, 0x41A0, 0x41A0, 0x4250, 0x41A0, 0x41A0, 0x41A0, 0x41A0, 0x41C0]
    let b : List Nat := [0, 0xBF80, 0, 0xBF80, 0x4080, 0xBF80, 0, 0xBF80, 0]
    let h : Hoop := { (default : Hoop) with
      present := true, loaded := true, wfmt := 2, wk := 9, wn := 1, weights := b.zipIdx.map fun x => (x.2 * 384, x.1) }
    columnSum h 2 false (a.map some) [] 0 0 = 0xC2000000 := by decide +kernel

/-- 12 (the worked texel): bilinear weights 7/16, 7/16, 1/16, 1/16 of four texels, in the order of R234. -/
theorem test_bilinear : ([(0x3F800001, 0x3EE00000, 0x3EE00002), (0x41100000, 0x3D800000, 0x3F100000),
    (0x3F000000, 0x3EE00000, 0x3E600000), (0xC0400000, 0x3D800000, 0xBE400000)].all fun x => fmul32 x.1 x.2.1 == x.2.2) = true ∧
    fadd32 (fadd32 (fadd32 0x3EE00002 0x3F100000) 0x3E600000) 0xBE400000 = 0x3F840000 := by decide

/-- 13 R257: a loop of four words in two stages with three trips takes sixteen turns. -/
theorem test_strandLoop : let l : StrandLoop := ⟨0x100, 4, 2, 3, 0, 1, 0⟩
    (Nat.iterate Strand.advance 16 { (default : Strand) with pc := l.word 1 0, loop := some l }).loop = none ∧
    (Nat.iterate Strand.advance 15 { (default : Strand) with pc := l.word 1 0, loop := some l }).loop.isSome = true := by decide

/-- 01 R24: a word placed where the next step fetches runs: MOVI leaves 4 in g5 and the PC goes on. -/
theorem test_step : (match step (State.reset.withFetchWord 32 0x32140004) with
    | .next t => some ((t.thread 65536).rd 5, (t.thread 65536).pc)
    | _ => none) = some (4, 0x10004) := by decide

end Sys2Proof.Tests
end

section
/-! PROOFS, scope family. O7 from three facts: byte `i` of the little-endian form of `v` is byte `v / 256 ^ i`; bytes set from
a place on read back there and change no other byte; and to memory a write under the key in force is only the setting of
its bytes. -/

namespace Sys2Proof.Machine

@[simp] theorem leBytes_length (n v : Nat) : (leBytes n v).length = n := by
  induction n generalizing v with
  | zero => rfl
  | succ n ih => simp [leBytes, ih]

/-- R5: byte 0 holds the lowest bits, and each further byte the next eight. -/
theorem leBytes_getElem {n i : Nat} (v : Nat) (h : i < (leBytes n v).length) :
    (leBytes n v)[i] = BitVec.ofNat 8 (v / 256 ^ i) := by
  induction n generalizing v i with
  | zero => simp [leBytes] at h
  | succ n ih =>
    cases i with
    | zero => simp [leBytes]
    | succ i => simp [leBytes, ih, Nat.div_div_eq_div_mul, Nat.pow_succ']

/-- Every byte of every memory after the little-endian form of a number is set. -/
theorem State.byteAt_setNum {s : State} (hwf : s.mem.wf = true) (l k : Loc) (n v : Nat) :
    (s.setNum l n v).byteAt k =
      if l.key ≤ k.key ∧ k.key < l.key + n then BitVec.ofNat 8 (v / 256 ^ (k.key - l.key)) else s.byteAt k := by
  unfold State.setNum
  split
  · next hin =>
    have hlt : k.key - l.key < (leBytes n v).length := by rw [leBytes_length]; omega
    rw [State.byteAt_setBytes_inside hwf l k _ hlt (by omega), leBytes_getElem]
  · next hout =>
    exact State.byteAt_setBytes_outside s l k _ (by rw [leBytes_length]; omega)

/-- To memory, a write under the key in force is the setting of its bytes: coherence, monitors, copies in other packages and
the side-effect mark hold none. -/
theorem State.performWrite_mem {s : State} {w : Who} {l : Loc} (hkey : s.rekey w.asid l = s) (bs : List Byte)
    (hint : Nat) : (s.performWrite w l bs hint).mem = (s.setBytes l bs).mem := by
  unfold State.performWrite
  simp only [hkey]
  split <;> split <;> simp

end Sys2Proof.Machine

namespace Sys2Proof.Claims

open Sys2Proof.Machine

/-- Settles O7: under the key in force a store's memory is that of its bytes set, whose every byte is known. -/
theorem storeBytes : Obligations.StoreBytes := by
  intro s w l k n v hint hwf hkeyed
  have hkey : s.rekey w.asid l = s := State.rekey_of_same hkeyed
  have hmem : (s.performWrite w l (leBytes n v) hint).mem = (s.setNum l n v).mem := State.performWrite_mem hkey _ hint
  rw [← State.byteAt_setNum hwf]
  unfold State.byteAt
  rw [hmem]

end Sys2Proof.Claims
end

section
/-! PROOFS, encoding family: words. O56 from two facts: the fields of a word laid out in a format are the numbers it was laid
out from, so that the row its opcode finds gives the instruction back; and the decoder accepts a word only when it is the
encoding of what it names. O55 evaluates the decoder on the words of the statement. -/

namespace Sys2Proof

/-! ## The fields of a word laid out in a format -/

/-- A number's low bits come back from the bit vector it is cut from. -/
@[simp] theorem bv_toNat {n : Nat} (x : BitVec n) : bv n x.toNat = x := by simp [bv]

/-- The guard is read back from bits [5:2]. -/
theorem fG_eq {w : Nat} {g : Guard} (h : w / 4 % 16 = encG g / 4) : fG w = g := by
  obtain ⟨q, n⟩ := g
  have hq : bv 3 (w / 2 ^ 3) = q := by
    refine BitVec.eq_of_toNat_eq ?_
    cases n <;> simp [encG] at h ⊢ <;> omega
  have hn : bitOf w 2 = n := by
    cases n <;> simp [encG, bitOf] at h ⊢ <;> omega
  rw [fG, hq, hn]

/-- The fields of a word of formats A and W are the numbers it was laid out from. -/
theorem encA_fields {sel maj min d a b : Nat} (g : Guard)
    (h : sel < 4 ∧ maj < 64 ∧ min < 4 ∧ d < 64 ∧ a < 64 ∧ b < 64) :
    let w := encA sel maj min g d a b
    fSel w = sel ∧ fMaj w = maj ∧ fMin w = min ∧ fD w = d ∧ fA w = a ∧ fB w = b ∧ fG w = g := by
  have := Laws.Encodes.encG_bounds g
  refine ⟨?_, ?_, ?_, ?_, ?_, ?_, fG_eq ?_⟩ <;>
    simp only [encA, fSel, fMaj, fMin, fD, fA, fB] <;> omega

/-- The fields of a word of the offset layout. -/
theorem encOff_fields {maj : Nat} (g : Guard) (off : BitVec 18) (h : maj < 64) :
    let w := encOff maj g off
    fSel w = 0 ∧ fMaj w = maj ∧ fMin w = 0 ∧ bv 18 (w / 2 ^ 6) = off ∧ fG w = g := by
  have := Laws.Encodes.encG_bounds g
  refine ⟨?_, ?_, ?_, BitVec.eq_of_toNat_eq ?_, fG_eq ?_⟩ <;>
    simp only [encOff, fSel, fMaj, fMin, bv, BitVec.toNat_ofNat] <;> omega

/-- The fields of a format B word; an 18-bit immediate has no `ga` before it. -/
theorem encB_fields {maj d a imm : Nat} (h : maj < 64 ∧ d < 64 ∧ a * 2 ^ 12 + imm < 2 ^ 18) :
    let w := encB maj d a imm
    fSel w = 0 ∧ fMaj w = maj ∧ fD w = d ∧ w % 2 ^ 18 = a * 2 ^ 12 + imm := by
  refine ⟨?_, ?_, ?_, ?_⟩ <;> simp only [encB, fSel, fMaj, fD] <;> omega

/-- The fields of a patch word. -/
theorem encP_fields {act : Nat} (ti : BitVec 6) (fs : BitVec 5) (val : BitVec 16) (h : act < 8) :
    let w := encP ti.toNat fs.toNat act val.toNat
    fSel w = 3 ∧ bv 6 (w / 2 ^ 24) = ti ∧ bv 5 (w / 2 ^ 19) = fs ∧ w / 2 ^ 16 % 8 = act ∧ bv 16 w = val := by
  refine ⟨?_, BitVec.eq_of_toNat_eq ?_, BitVec.eq_of_toNat_eq ?_, ?_, BitVec.eq_of_toNat_eq ?_⟩ <;>
    simp only [encP, fSel, bv, BitVec.toNat_ofNat] <;> omega

/-! ## Reading back -/

/-- The words name the instruction, reserved bits unchecked, and the first tells how many they are. -/
def ReadsBack (i : Instr) : List Nat → Prop
  | [] => True
  | [w] => fSel w ≠ 1 ∧ decodeRaw w 0 = some i
  | [w, v] => fSel w = 1 ∧ decodeRaw w v = some i
  | _ => False

section
variable {i : Instr} {maj min d a b : Nat} {g : Guard}

/-- A format A word names the instruction its row gives for the fields it was laid out from. -/
theorem readsBack_A {f : Nat → Instr} (hrow : findRow rowsA (maj * 4 + min) = some f)
    (h : maj < 48 ∧ min < 4 ∧ d < 64 ∧ a < 64 ∧ b < 64)
    (hf : ∀ w, fMin w = min → fD w = d → fA w = a → fB w = b → fG w = g → f w = i) :
    ReadsBack i [encA 0 maj min g d a b] := by
  obtain ⟨hs, hmaj, hmin, hd, ha, hb, hg⟩ := encA_fields (sel := 0) g ⟨by decide, Nat.lt_trans h.1 (by decide), h.2⟩
  refine ⟨by omega, ?_⟩
  simp only [decodeRaw, hs, hmaj, hmin, hrow, Option.map_some, hf _ hmin hd ha hb hg]
  simp [h.1]

/-- As `readsBack_A`, for format W with its second word `v`. -/
theorem readsBack_W {v : Nat} {f : Nat → Nat → Instr} (hrow : findRow rowsW (maj * 4 + min) = some f)
    (h : maj < 64 ∧ min < 4 ∧ d < 64 ∧ a < 64 ∧ b < 64)
    (hf : ∀ w, fMin w = min → fD w = d → fA w = a → fB w = b → fG w = g → f w v = i) :
    ReadsBack i [encA 1 maj min g d a b, v] := by
  obtain ⟨hs, hmaj, hmin, hd, ha, hb, hg⟩ := encA_fields (sel := 1) g ⟨by decide, h⟩
  refine ⟨hs, ?_⟩
  simp only [decodeRaw, hs, hmaj, hmin, hrow, Option.map_some, hf _ hmin hd ha hb hg]

/-- As `readsBack_A`, for the offset layout. -/
theorem readsBack_off {off : BitVec 18} {f : Nat → Instr} (hrow : findRow rowsA (maj * 4) = some f) (h : maj < 48)
    (hf : ∀ w, bv 18 (w / 2 ^ 6) = off → fG w = g → f w = i) : ReadsBack i [encOff maj g off] := by
  obtain ⟨hs, hmaj, hmin, ho, hg⟩ := encOff_fields (maj := maj) g off (by omega)
  refine ⟨by omega, ?_⟩
  simp only [decodeRaw, hs, hmaj, hmin, Nat.add_zero, hrow, Option.map_some, hf _ ho hg]
  simp [h]

/-- As `readsBack_A`, for format B. -/
theorem readsBack_B {imm : Nat} {f : Nat → Instr} (hrow : findRow rowsB maj = some f)
    (h : 48 ≤ maj ∧ maj < 64 ∧ d < 64 ∧ a * 2 ^ 12 + imm < 2 ^ 18)
    (hf : ∀ w, fD w = d → w % 2 ^ 18 = a * 2 ^ 12 + imm → f w = i) : ReadsBack i [encB maj d a imm] := by
  obtain ⟨hs, hmaj, hd, hi⟩ := encB_fields (maj := maj) h.2
  refine ⟨by omega, ?_⟩
  have hm : decide (maj < 48) = false := by simp [h.1]
  simp only [decodeRaw, hs, hmaj, hm, cond_false, hrow, Option.map_some, hf _ hd hi]

/-- A patch word names the instruction its action gives for its fields. -/
theorem readsBack_P {act : Nat} (ti : BitVec 6) (fs : BitVec 5) (val : BitVec 16) (h : act < 8)
    (hf : ∀ w, bv 6 (w / 2 ^ 24) = ti → bv 5 (w / 2 ^ 19) = fs → w / 2 ^ 16 % 8 = act → bv 16 w = val →
      decodePatchRaw w = some i) : ReadsBack i [encP ti.toNat fs.toNat act val.toNat] := by
  obtain ⟨hs, ht, hfs, hact, hval⟩ := encP_fields ti fs val h
  refine ⟨by rw [hs]; decide, ?_⟩
  simp only [decodeRaw, hs, hf _ ht hfs hact hval]
end

/-- The four values of a minor variant that a field gives. -/
theorem minor_cases (f : BitVec 2) : f = 0#2 ∨ f = 1#2 ∨ f = 2#2 ∨ f = 3#2 := by revert f; decide

/-- A size or format other than the refused 3. -/
theorem minor_cases_of_ne {f : BitVec 2} (h : (f != 3#2) = true) : f = 0#2 ∨ f = 1#2 ∨ f = 2#2 := by revert f; decide

/-- The upper of two fields laid side by side. -/
theorem bv_high {n k y : Nat} (x : BitVec n) (h : y < 2 ^ k) : bv n ((x.toNat * 2 ^ k + y) / 2 ^ k) = x := by
  rw [Nat.mul_comm, Nat.mul_add_div (Nat.two_pow_pos k), Nat.div_eq_of_lt h, Nat.add_zero, bv_toNat]

/-- The lower of two fields laid side by side. -/
theorem bv_low {n k x : Nat} (y : BitVec n) (h : n ≤ k) : bv n (x * 2 ^ k + y.toNat) = y := by
  refine BitVec.eq_of_toNat_eq ?_
  obtain ⟨m, rfl⟩ := Nat.exists_eq_add_of_le h
  rw [BitVec.toNat_ofNat, Nat.pow_add, Nat.mul_left_comm, Nat.mul_add_mod, Nat.mod_eq_of_lt y.isLt]

/-- The condition and the predicate of a compare share the gd field. -/
theorem cond_pred (c p : BitVec 3) : bv 3 ((c.toNat * 8 + p.toNat) / 8) = c ∧ bv 3 (c.toNat * 8 + p.toNat) = p :=
  ⟨bv_high (k := 3) c p.isLt, bv_low (k := 3) p (by decide)⟩

/-- The fields of the second word of ATOM. -/
theorem atom_word (disp : BitVec 16) (dbl : Bool) (op : BitVec 4) :
    let v := disp.toNat * 2 ^ 16 + (bif dbl then 16 else 0) + op.toNat
    bv 16 (v / 2 ^ 16) = disp ∧ bitOf v 4 = dbl ∧ bv 4 v = op := by
  refine ⟨BitVec.eq_of_toNat_eq ?_, ?_, BitVec.eq_of_toNat_eq ?_⟩ <;> cases dbl <;> simp [bitOf] <;> omega

/-- The fields of the second word of CAS. -/
theorem cas_word (disp : BitVec 16) (dbl : Bool) :
    let v := disp.toNat * 2 ^ 16 + (bif dbl then 16 else 0)
    bv 16 (v / 2 ^ 16) = disp ∧ bitOf v 4 = dbl := by
  refine ⟨BitVec.eq_of_toNat_eq ?_, ?_⟩ <;> cases dbl <;> simp [bitOf] <;> omega

/-- A 12-bit immediate at the end of a format B word. -/
theorem imm12_fields {w a : Nat} {imm : BitVec 12} (h : w % 2 ^ 18 = a * 2 ^ 12 + imm.toNat) :
    fA w = a ∧ bv 12 w = imm := by
  refine ⟨?_, BitVec.eq_of_toNat_eq ?_⟩ <;> simp [fA] <;> omega

/-- The flag bit and the kind of VOTE share the gb field. -/
theorem vote_field (flag : Bool) (kind : BitVec 4) :
    let b := (bif flag then 2 else 1) * 2 ^ 4 + kind.toNat
    (b / 2 ^ 4 == 2) = flag ∧ bv 4 b = kind := by
  refine ⟨?_, bv_low kind (by decide)⟩
  cases flag <;> simp <;> omega

/-- A word of selector 2 is its kind and its value. -/
theorem readsBack_pfx (kind : BitVec 3) (v : BitVec 27) : ReadsBack (.pfx kind v) (encode (.pfx kind v)) := by
  have hs : fSel (2 * 2 ^ 30 + kind.toNat * 2 ^ 27 + v.toNat) = 2 := by simp only [fSel]; omega
  have hk : bv 3 ((2 * 2 ^ 30 + kind.toNat * 2 ^ 27 + v.toNat) / 2 ^ 27) = kind :=
    BitVec.eq_of_toNat_eq (by simp only [bv, BitVec.toNat_ofNat]; omega)
  have hv : bv 27 (2 * 2 ^ 30 + kind.toNat * 2 ^ 27 + v.toNat) = v :=
    BitVec.eq_of_toNat_eq (by simp only [bv, BitVec.toNat_ofNat]; omega)
  exact ⟨by rw [hs]; decide, by simp only [decodeRaw, hs, hk, hv]⟩

/-- SLOOP keeps its stage count and its trip count in the value field. -/
theorem readsBack_sloop (b : BitVec 6) (st : BitVec 3) (n : BitVec 13) :
    ReadsBack (.sloop b st n) (encode (.sloop b st n)) := by
  have hval : st.toNat * 2 ^ 13 + n.toNat = (bv 16 (st.toNat * 2 ^ 13 + n.toNat)).toNat := by
    rw [BitVec.toNat_ofNat, Nat.mod_eq_of_lt (by omega)]
  rw [encode, hval]
  refine readsBack_P b 0#5 _ (by decide) fun w ht hf ha hv => ?_
  have hw : w % 2 ^ 16 = st.toNat * 2 ^ 13 + n.toNat := by
    rw [hval, ← hv, BitVec.toNat_ofNat]
  have hst : bv 3 (w / 2 ^ 13) = st := BitVec.eq_of_toNat_eq (by simp only [BitVec.toNat_ofNat]; omega)
  have hn : bv 13 w = n := BitVec.eq_of_toNat_eq (by simp only [BitVec.toNat_ofNat]; omega)
  simp only [decodePatchRaw, ht, hf, ha, hst, hn]; rfl

/-- R114-R120, R147: the words of every well-formed instruction name it, format by format. -/
theorem encode_readsBack (i : Instr) (h : wellFormed i = true) : ReadsBack i (encode i) := by
  cases i with
  | nop g | halt g | tret g | add g d a b | sub g d a b | mul g d a b | mad g d a b | mulh g d a b | mulhu g d a b
  | div g d a b | divu g d a b | rem g d a b | remu g d a b | min g d a b | max g d a b | minu g d a b | maxu g d a b
  | abs g d a | sel s d a b | and g d a b | or g d a b | xor g d a b | andn g d a b | shl g d a b | shr g d a b
  | sar g d a b | rotl g d a b | clz g d a | ctz g d a | popc g d a | brev g d a | mov g d a | lld g l a b
  | lset g l a f | lget g d l f | lmov g l m | callr g d a | jmpr g a | ret g a | exit g | brk g | trap g code
  | yield g | dflush g | fenceFull g | fenceAcq g | fenceRel g | fencePort g | mon g a | mwait g | semwait g a b
  | semsig g a b | deqp g d p | portq g d p | join g | flrd g d | flcl g a | gangq g d | rbget g b | rbput g b
  | lend g | halloc g p d a | hfree g a | hrsh g d a b | eres g d a b | erel g a | eset g a b | tmld g k a e =>
    exact readsBack_A rfl (by omega) fun w hm hd ha hb hg => by simp [*]
  | cmp g c p a b | cmpAnd g c p a b | cmpOr g c p a b | cmpXor g c p a b =>
    exact readsBack_A rfl (by omega) fun w hm hd ha hb hg => by simp [*, cond_pred]
  | leaIndexed g sz d a b | ldIndexed g sz d a b | stIndexed g sz d a b | ldAcqIndexed g sz d a b
  | stRelIndexed g sz d a b =>
    obtain rfl | rfl | rfl | rfl := minor_cases sz <;>
      exact readsBack_A rfl (by simp; omega) fun w hm hd ha hb hg => by simp [*]
  | bra g off | call g off | divb g off =>
    exact readsBack_off rfl (by decide) fun w ho hg => by simp only [ho, hg]
  | fadd g f d a b | fsub g f d a b | fmul g f d a b | ffma g f d a b | fmin g f d a b | fmax g f d a b
  | fabs g f d a | fneg g f d a | fdiv g f d a b | fsqrt g f d a | frcp g f d a | frsq g f d a | fexp2 g f d a
  | flog2 g f d a | fsin g f d a | fcos g f d a | frnd g f d a | fclass g f d a
  | ldSxIndexed g f d a b =>
    obtain ⟨_, hz⟩ := Bool.and_eq_true_iff.1 h
    obtain rfl | rfl | rfl := minor_cases_of_ne hz <;>
      exact readsBack_A rfl (by simp; omega) fun w hm hd ha hb hg => by simp [*]
  | fcmp g f c p a b =>
    obtain ⟨_, hz⟩ := Bool.and_eq_true_iff.1 h
    obtain rfl | rfl | rfl := minor_cases_of_ne hz <;>
      exact readsBack_A rfl (by simp; omega) fun w hm hd ha hb hg => by simp [*, cond_pred]
  | addi d a imm | ldBShort d a imm | ldHShort d a imm | ldWShort d a imm | ldDShort d a imm | ldSxBShort d a imm
  | ldSxHShort d a imm | ldSxWShort d a imm | stBShort d a imm | stHShort d a imm | stWShort d a imm
  | stDShort d a imm | rngb d a imm =>
    exact readsBack_B rfl (by omega) fun w hd hi => by simp [hd, imm12_fields hi]
  | cmpi c p a imm =>
    exact readsBack_B rfl (by omega) fun w hd hi => by simp [hd, imm12_fields hi, cond_pred]
  | movi d imm =>
    refine readsBack_B rfl (by omega) fun w hd hi => ?_
    have : bv 18 w = imm := BitVec.eq_of_toNat_eq (by simp only [bv, BitVec.toNat_ofNat]; omega)
    simp [hd, this]
  | pref k a imm =>
    exact readsBack_B rfl (by omega) fun w hd hi => by simp [hd, imm12_fields hi]
  | pfx kind v => exact readsBack_pfx kind v
  | moviWide g d imm | moviHi g d imm | addiWide g d a imm | leaImm g d a imm | csrr g d csr | csrw g a csr
  | csrs g a csr | qop g p qa qb tt | shfl g d a b mask | tex g d a b l | texq g d a b | raybox g d a b p
  | raytri g d a b p | rast g a b p | bary g d a b | patld g a k | patdr g k | patq g d k | spawn g a | tenq g d a b
  | wdone g | ssync g | govrd g d | enqp g a b p | loop g a imm | rdv g mask | forkToken g n =>
    exact readsBack_W rfl (by omega) fun w hm hd ha hb hg => by simp [*]
  | ldOffset32 g sz d a imm | stOffset32 g sz d a imm | ldAcqOffset32 g sz d a imm | stRelOffset32 g sz d a imm =>
    obtain rfl | rfl | rfl | rfl := minor_cases sz <;>
      exact readsBack_W rfl (by simp; omega) fun w hm hd ha hb hg => by simp [*]
  | ldSxOffset32 g sz d a imm =>
    obtain ⟨_, hz⟩ := Bool.and_eq_true_iff.1 h
    obtain rfl | rfl | rfl := minor_cases_of_ne hz <;>
      exact readsBack_W rfl (by simp; omega) fun w hm hd ha hb hg => by simp [*]
  | atom g ord d a b disp dbl op =>
    obtain ⟨hdisp, hdbl, hop⟩ := atom_word disp dbl op
    obtain rfl | rfl | rfl | rfl := minor_cases ord <;>
      exact readsBack_W rfl (by simp; omega) fun w hm hd ha hb hg => by simp only [bv_toNat, *]
  | cas g ord d a b disp dbl =>
    obtain ⟨hdisp, hdbl⟩ := cas_word disp dbl
    obtain rfl | rfl | rfl | rfl := minor_cases ord <;>
      exact readsBack_W rfl (by simp; omega) fun w hm hd ha hb hg => by simp only [bv_toNat, *]
  | extb g d a pos width | extbSx g d a pos width | insb g d a pos width =>
    exact readsBack_W rfl (by omega) fun w hm hd ha hb hg => by
      simp only [bv_toNat, hd, ha, hg, bv_high width pos.isLt, bv_low pos (Nat.le_refl 6)]
  | fcvt g d a src dst =>
    exact readsBack_W rfl (by omega) fun w hm hd ha hb hg => by
      simp only [bv_toNat, hd, ha, hg, bv_high src dst.isLt, bv_low dst (Nat.le_refl 4)]
  | texg g d a b l ch =>
    exact readsBack_W rfl (by omega) fun w hm hd ha hb hg => by
      simp only [bv_toNat, hd, ha, hb, hg, bv_high ch l.isLt, bv_low l (Nat.le_refl 6)]
  | xop g d a b c k =>
    exact readsBack_W rfl (by omega) fun w hm hd ha hb hg => by
      simp only [bv_toNat, hd, ha, hb, hg, bv_high (k := 12) c (Nat.lt_trans k.isLt (by decide)),
        bv_low (k := 12) k (by decide)]
  | vote g d idx flag kind mask =>
    obtain ⟨hflag, hkind⟩ := vote_field flag kind
    exact readsBack_W rfl (by cases flag <;> simp <;> omega) fun w hm hd ha hb hg => by simp only [bv_toNat, *]
  | redx g d a cls kind mask =>
    exact readsBack_W rfl (by omega) fun w hm hd ha hb hg => by
      simp only [bv_toNat, hd, ha, hb, hg, bv_high cls kind.isLt, bv_low kind (Nat.le_refl 4)]
  | fork g a n =>
    have ha0 : (a.toNat == 0) = false := by
      simp only [wellFormed, Bool.and_eq_true, bne_iff_ne] at h
      obtain ⟨⟨⟨_, hne⟩, _⟩, _⟩ := h
      simpa using fun e => hne (BitVec.eq_of_toNat_eq e)
    exact readsBack_W rfl (by omega) fun w hm hd ha hb hg => by simp [ha, hg, ha0]
  | enqpNb g q a b p =>
    exact readsBack_W rfl (by omega) fun w hm hd ha hb hg => by
      simp only [bv_toNat, ha, hb, hg, bv_high (k := 8) q (Nat.lt_trans p.isLt (by decide)),
        bv_low (k := 8) p (by decide)]
  | amend t f v | issueField t f v | issueAdd t f v =>
    exact readsBack_P t f v (by decide) fun w ht hf ha hv => by simp only [decodePatchRaw, ht, hf, ha, hv]
  | issue t => exact readsBack_P t 0#5 0#16 (by decide) fun w ht hf ha hv => by simp only [decodePatchRaw, ht, ha]
  | idle v => exact readsBack_P 0#6 0#5 v (by decide) fun w ht hf ha hv => by simp only [decodePatchRaw, ha, hv]
  | sloop b st n => exact readsBack_sloop b st n
  | sdone =>
    exact readsBack_P 0#6 1#5 0#16 (by decide) fun w ht hf ha hv => by
      simp only [decodePatchRaw, hf, ha]; rfl
  | _ => trivial

/-- A word list that names its instruction is accepted: nothing of it is reserved, since encoding gives it back. -/
theorem decodeWord_of_readsBack {i : Instr} {w : Nat} {ws : List Nat} (hwf : wellFormed i = true)
    (henc : encode i = w :: ws) (h : ReadsBack i (w :: ws)) :
    decodeWord w (ws.headD 0) = .ok i ∧ (fSel w ≠ 1 → ws = []) := by
  match ws, h with
  | [], ⟨hs, hraw⟩ => exact ⟨by simp [decodeWord, hraw, henc, hs, hwf], fun _ => rfl⟩
  | [v], ⟨hs, hraw⟩ => exact ⟨by simp [decodeWord, hraw, henc, hs, hwf], fun hn => absurd hs hn⟩

/-- R122: what the decoder accepts is well formed, and its encoding is the words decoded. -/
theorem decodeWord_ok {i : Instr} {w v : Nat} (h : decodeWord w v = .ok i) :
    wellFormed i = true ∧ encode i = if fSel w = 1 then [w, v] else [w] := by
  cases hraw : decodeRaw w v with
  | none => simp [decodeWord, hraw] at h
  | some j =>
    simp only [decodeWord, hraw] at h
    by_cases henc : encode j = if fSel w = 1 then [w, v] else [w]
    · rw [if_pos henc] at h
      by_cases hwf : wellFormed j = true
      · rw [if_pos hwf] at h
        cases h
        exact ⟨hwf, henc⟩
      · simp [hwf] at h
    · simp [henc] at h

end Sys2Proof

namespace Sys2Proof.Claims

/-- Settles O56: the words of an instruction name it field by field, and the decoder accepts only what it encodes to again. -/
theorem decodeEncode : Obligations.DecodeEncode := by
  refine ⟨fun i w ws hwf henc => ?_, fun i w v h => ?_⟩
  · obtain ⟨hword, hone⟩ := decodeWord_of_readsBack hwf henc (henc ▸ encode_readsBack i hwf)
    split
    · next hs =>
      rw [hone (by omega)] at hword
      rw [decodePatch, if_pos hs]
      exact hword
    · next hs =>
      rw [decodeCore, if_neg hs]
      exact hword
  · have hword : decodeWord w v = .ok i := by
      rcases h with h | ⟨h, rfl⟩
      · rw [decodeCore] at h
        split at h
        · exact absurd h (by simp)
        · exact h
      · rw [decodePatch] at h
        split at h
        · exact h
        · exact absurd h (by simp)
    simpa [wordCount] using decodeWord_ok hword

/-- Settles O55: the decoder, run on each word. -/
theorem decodesSpecWords : Obligations.DecodesSpecWords := by
  unfold Obligations.DecodesSpecWords
  decide

end Sys2Proof.Claims
end

section
/-! PROOFS, encoding family: control flow. O12: a thread that can execute its instruction executes the body of its meaning, and
the body's shifts, loop search and trip test are the manual's products, stack search and count of 1. -/

namespace Sys2Proof.Machine

/-- R120: an offset shifted left by two is four times the offset. -/
theorem shiftLeft_two_eq (x : Word) : x <<< 2 = 4 * x := by
  refine BitVec.eq_of_toNat_eq ?_
  rw [BitVec.toNat_shiftLeft, BitVec.toNat_mul, Nat.shiftLeft_eq, Nat.mul_comm]
  rfl

/-- R180: LEND drops the entries above the nearest one that ends at its address. -/
theorem findLoop_eq (pc : Word) (l : List LoopEntry) :
    findLoop pc l = match l.dropWhile (fun e => e.lend != pc) with
      | [] => none
      | e :: rest => some (e, rest) := by
  induction l with
  | nil => rfl
  | cons e l ih =>
    by_cases h : e.lend = pc
    · simp [findLoop, h]
    · simp [findLoop, h, ih]

/-- R180: no trip is left when the count was 1. -/
theorem count_pred_eq_zero (n : Word) : n - 1 = 0 ↔ n = 1 := sub_eq_zero

/-- A register target that is a multiple of 4 is jumped to. -/
theorem Cx.jumpTo_aligned {c : Cx} {t : Word} (h : t.toNat % 4 = 0) (link : Option (BitVec 6)) (s : State) :
    c.jumpTo t link s = c.jump t (match link with | some d => c.upd (·.wr d c.next) s | none => s) := by
  cases link <;> exact if_neg (by omega)

end Sys2Proof.Machine

namespace Sys2Proof.Claims

open Sys2Proof.Machine

/-- LEND goes round while trips are left, and then leaves its loop (R180). -/
theorem lend_completes {s : State} {tid : Nat} {g : Guard} {e : Effect} (he : flowEffect s tid (.lend g) = some e)
    (hable : Able s tid e.spec) : exec (.lend g) s = .next (e.state.complete tid e.next (!(s.thread tid).prv)) := by
  simp only [flowEffect] at he
  split at he
  · cases he
  · next l rest hdrop =>
    have hfind : findLoop (s.cx (.lend g) tid).t.pc (s.cx (.lend g) tid).t.loops = some (l, rest) :=
      (findLoop_eq _ _).trans (by rw [show (s.cx (.lend g) tid).t = s.thread tid from rfl, hdrop])
    change execLend g s = _
    split at he
    all_goals
      next hcount =>
      obtain rfl := Option.some.inj he
      refine (coreInstr_able hable (.lend g) _).trans ?_
      simp only [hfind, ne_eq, count_pred_eq_zero, hcount]
      rfl

/-- Settles O12: the effects of the table are what the bodies of the meanings do, instruction by instruction. -/
theorem flowResults : Obligations.FlowResults := by
  intro s tid i e he _ hable hneeds
  cases i with
  | nop g =>
    obtain rfl := Option.some.inj he
    exact coreInstr_able hable (.nop g) _
  | bra g off =>
    obtain rfl := Option.some.inj he
    change execBra g off s = _
    refine (coreInstr_able hable (.bra g off) _).trans ?_
    simp only [Cx.target, shiftLeft_two_eq]
    rfl
  | call g off =>
    obtain rfl := Option.some.inj he
    change execCall g off s = _
    refine (coreInstr_able hable (.call g off) _).trans ?_
    simp only [Cx.target, shiftLeft_two_eq]
    rfl
  | callr g d a =>
    obtain rfl := Option.some.inj he
    change execCallr g d a s = _
    exact (coreInstr_able hable (.callr g d a) _).trans (Cx.jumpTo_aligned hneeds (some d) s)
  | jmpr g a =>
    obtain rfl := Option.some.inj he
    change execJmpr g a s = _
    exact (coreInstr_able hable (.jmpr g a) _).trans (Cx.jumpTo_aligned hneeds none s)
  | ret g a =>
    obtain rfl := Option.some.inj he
    change execRet g a s = _
    exact (coreInstr_able hable (.ret g a) _).trans (Cx.jumpTo_aligned hneeds none s)
  | loop g a imm =>
    change execLoop g a imm s = _
    simp only [flowEffect] at he
    split at he
    · next ha =>
      obtain rfl := Option.some.inj he
      refine (coreInstr_able hable (.loop g a imm) _).trans ?_
      simp only [shiftLeft_two_eq]
      exact if_pos ha
    · next ha =>
      obtain rfl := Option.some.inj he
      refine (coreInstr_able hable (.loop g a imm) _).trans ?_
      simp only [shiftLeft_two_eq]
      exact if_neg ha
  | lend g => exact lend_completes he hable
  | _ => cases he

end Sys2Proof.Claims
end

section
/-! PROOFS, encoding family: causes raised by the words alone. O25: the first fate of a privileged instruction at level U is
PRIVILEGED, and the common course raises it. O24 fails at TMLD, whose engine number belongs to its encoding: a number
other than 1 to 9 raises ILLEGAL_INSTRUCTION whatever the guard. O21: the cause of a word no row names, in a thread and in a
strand. -/

namespace Sys2Proof.Machine

/-! ## The common course of a core instruction -/

/-- R123: an instruction that meets a fate before its own effect raises that cause, and nothing else happens. -/
theorem coreInstr_of_fate {s : State} {tid cause val : Nat} {i : Instr} {x : Spec} (hcur : s.cur = .thread tid)
    (hmay : s.mayIssue tid = true) (h : firstFate x ((encode i).headD 0) tid (s.thread tid) s = some (cause, val))
    (body : Cx → State → Out) :
    coreInstr i x body s = .next (s.trap tid cause (s.thread tid).pc (BitVec.ofNat 64 val)) := by
  have hfate : firstFate x (s.cx i tid).word tid (s.cx i tid).t s = some (cause, val) := h
  unfold coreInstr
  rw [running_of_cur hcur hmay]
  simp only [hfate]
  rfl

/-- R123, R380: alone at its PC, a privileged instruction of both core kinds meets PRIVILEGED at level U. -/
theorem firstFate_privileged {s : State} {t : Thread} {x : Spec} (hkind : x.kind = .both) (htat : x.tat = false)
    (hpriv : x.privileged = true) (hpfx : t.pfx = []) (hprv : t.prv = false) (word tid : Nat) :
    firstFate x word tid t s = some (causePrivileged, word) := by
  simp [firstFate, hkind, htat, hpriv, hpfx, hprv, pfxBad]

/-- The CSRs of level S (R380). -/
theorem csrPrivileged_of_csrSystem {n : Nat} (h : Claims.csrSystem n = true) : csrPrivileged n = true := by
  simp [Claims.csrSystem] at h
  simp [csrPrivileged]
  omega

/-! ## Traps at level U -/

/-- R381: a trap at level U changes its thread alone, and stops a control core's tile. -/
theorem onlyThread_trap {s : State} {tid : Nat} (hprv : (s.thread tid).prv = false) (cause : Nat) (epc val : Word) :
    Claims.OnlyThread s (s.trap tid cause epc val) tid (Claims.trapped (s.thread tid) cause epc val) := by
  have hne : (s.thread tid).enterTrap cause epc val ≠ default := fun h =>
    absurd (show true = (default : Thread).prv from congrArg Thread.prv h) (by decide)
  have hthread : (s.setThread tid ((s.thread tid).enterTrap cause epc val)).thread tid =
      Claims.trapped (s.thread tid) cause epc val := State.thread_setThread_same s tid hne
  unfold State.trap
  simp only [hprv, Bool.false_eq_true, if_false]
  cases hcontrol : isControl tid with
  | false =>
    simp only [Bool.false_eq_true, if_false]
    exact ⟨hthread, fun m hm => State.thread_setThread_ne s _ hm, rfl, rfl, rfl, fun _ => rfl,
      fun h => absurd h (by simp [hcontrol])⟩
  | true =>
    simp only [if_true]
    refine ⟨hthread, fun m hm => State.thread_setThread_ne s _ hm, rfl, rfl, rfl,
      fun h => absurd h (by simp [hcontrol]), fun _ => ?_⟩
    unfold State.stopTile
    rw [State.tile_setTile_same]
    exact fun h => absurd (show true = (default : Tile).stopped from congrArg Tile.stopped h) (by decide)

/-- R387: a cause of an engine stops its tile and joins the tile's stops; the threads stay as they are. -/
theorem raiseEngine_tile (s : State) (tile e seq cause val : Nat) :
    let u := s.raiseEngine tile e seq cause val
    (u.tile tile).stopped = true ∧ (u.tile tile).stops = (s.tile tile).stops ++ [.trap e seq cause val] ∧
      u.threads = s.threads := by
  have htile : (s.raiseEngine tile e seq cause val).tile tile = { s.tile tile with
      stopped := true, stoppedAt := if (s.tile tile).stopped then (s.tile tile).stoppedAt else s.cycle
      stops := (s.tile tile).stops ++ [.trap e seq cause val] } :=
    State.tile_setTile_same s tile fun h =>
      absurd (show true = (default : Tile).stopped from congrArg Tile.stopped h) (by decide)
  exact ⟨by rw [htile], by rw [htile], rfl⟩

end Sys2Proof.Machine

namespace Sys2Proof.Claims

open Sys2Proof.Machine

/-- Settles O25: PRIVILEGED is the first fate of the four forms. -/
theorem privilegedTraps : Obligations.PrivilegedTraps := by
  intro i s tid _ hcur hmay hpfx hprv hform
  rcases hform with ⟨g, rfl⟩ | ⟨g, rfl⟩ | ⟨g, a, n, rfl, hn⟩ | ⟨g, a, n, rfl, hn⟩
  · change execTret g s = _
    exact coreInstr_of_fate hcur hmay (firstFate_privileged rfl rfl rfl hpfx hprv _ _) _
  · change execHalt g s = _
    exact coreInstr_of_fate hcur hmay (firstFate_privileged rfl rfl rfl hpfx hprv _ _) _
  · change execCsrw g a n s = _
    exact coreInstr_of_fate hcur hmay (firstFate_privileged rfl rfl (csrPrivileged_of_csrSystem hn) hpfx hprv _ _) _
  · change execCsrs g a n s = _
    exact coreInstr_of_fate hcur hmay (firstFate_privileged rfl rfl (csrPrivileged_of_csrSystem hn) hpfx hprv _ _) _

/-- Settles O21: in a thread the word's cause is a trap at level U, in a strand a stop of the tile. -/
theorem illegalEncodingTraps : Obligations.IllegalEncodingTraps := by
  intro w s
  refine ⟨fun tid hcur hmay hprv => ?_, fun tile e hcur hstrand => ?_⟩
  · refine ⟨s.trap tid causeIllegal (s.thread tid).pc (w.setWidth 64), ?_, onlyThread_trap hprv _ _ _⟩
    change execIllegalInstructionEncoding w s = _
    simp only [execIllegalInstructionEncoding, hcur, running_of_cur hcur hmay]
  · refine ⟨s.raiseEngine tile e (s.engine tile e).seq.toNat causeIllegal w.toNat, ?_, raiseEngine_tile s _ _ _ _ _⟩
    change execIllegalInstructionEncoding w s = _
    simp only [execIllegalInstructionEncoding, hcur, hstrand, if_true]

/-- The control core of tile 0 at level U, q7 false, with the turn. -/
def controlCore : State := { (default : State) with
  cur := .thread 65536, threads := [(65536, { (default : Thread) with live := true })] }

/-- A TMLD that names engine 0, guarded by q7. -/
def tmldEngine0 : Instr := .tmld ⟨7, false⟩ 0 0 0

/-- R121, R123: the guard is false, and the word is an illegal encoding all the same: the thread is at level S after it. -/
theorem tmldEngine0_traps : (match exec tmldEngine0 controlCore with
    | .next u => (u.thread 65536).prv
    | _ => false) = true := by decide

/-- Refutes O24: a guarded-off TMLD with engine number 0 does not complete. Its word is an illegal encoding, which is raised
whatever the guard (R121, R123), and `guardedForm` lists TMLD with every engine number. -/
theorem not_prefixAndGuard : ¬ Obligations.PrefixAndGuard := by
  unfold Obligations.PrefixAndGuard
  rintro ⟨_, _, hguard⟩
  have hspec : guardedForm tmldEngine0 = some (1, { guard := some ⟨7, false⟩, kind := .control }) := rfl
  have hmay : controlCore.mayIssue 65536 = true := by decide
  have hpfx : (controlCore.thread 65536).pfx = [] := by decide
  have hoff : (controlCore.thread 65536).guard ⟨7, false⟩ = false := by decide
  have hdone := hguard tmldEngine0 1 _ ⟨7, false⟩ controlCore 65536 (.inr hspec) rfl (by decide) rfl hmay (by decide)
    (by decide) (by decide) (by rw [hpfx]; rfl) (by simp [hpfx]) (by decide) (by decide) hoff
  have htrap := tmldEngine0_traps
  rw [hdone] at htrap
  exact absurd htrap (by decide)

end Sys2Proof.Claims
end

section
/-! PROOFS, encoding family: patch words. O39: AMEND and the three ISSUEs run one course, which looks at the change, then at the
slot, then at the checks of an issue. -/

namespace Sys2Proof.Machine

open Sys2Proof.Claims

/-- R149, R256: a patch word is executed by the engine that fetches it. -/
theorem patchWord_fetching {s : State} {tile e : Nat} {st : Strand} (h : Fetching s tile e st)
    (body : Nat → Nat → Strand → State → Out) : patchWord body s = body tile e st s := by
  obtain ⟨hcur, hstrand, hrun, hidle, hfull, hwait⟩ := h
  simp [patchWord, hcur, hstrand, hrun, hidle, hfull, hwait]

section
variable {s : State} {tile e : Nat} {st : Strand} {i : Instr} {t : BitVec 6} {edit : BitVec 256 → Option (BitVec 256)}
  {issues : Bool} {x : BitVec 256}

/-- R144, R149: a refused field or value stops the tile before the word. -/
theorem amendForm_refused (h : Fetching s tile e st) (hedit : edit ((s.engine tile e).templates.get t.toNat) = none) :
    amendForm i t edit issues s =
      .next (s.raiseEngine tile e (s.engine tile e).seq.toNat causeIllegal ((encode i).headD 0)) := by
  simp only [amendForm, patchWord_fetching h, State.template, hedit]
  rfl

/-- R257: in a slot that is not valid the strand goes on and nothing else happens. -/
theorem amendForm_skipped (h : Fetching s tile e st) (hedit : edit ((s.engine tile e).templates.get t.toNat) = some x)
    (hvalid : st.valid = false) : amendForm i t edit issues s = .next (wentOn s tile e st) := by
  simp only [amendForm, patchWord_fetching h, State.template, hedit, hvalid]
  rfl

/-- R144, R145: in a valid slot a word that does not issue leaves its change in the template. -/
theorem amendForm_amends (h : Fetching s tile e st) (hedit : edit ((s.engine tile e).templates.get t.toNat) = some x)
    (hvalid : st.valid = true) :
    amendForm i t edit false s = .next (wentOn (withTemplate s tile e t.toNat x) tile e st) := by
  simp only [amendForm, patchWord_fetching h, State.template, hedit, hvalid]
  rfl

/-- R146, R148: an issue that passes its checks leaves its change and enters as the engine's next command. -/
theorem amendForm_issues {c : Command} (h : Fetching s tile e st)
    (hedit : edit ((s.engine tile e).templates.get t.toNat) = some x) (hvalid : st.valid = true)
    (hcheck : s.issueCheck tile e (nextCommand s tile e x) = .ok c) :
    amendForm i t edit true s = .next (wentOn ((withTemplate s tile e t.toNat x).enterCommand tile e c) tile e st) := by
  have hnew : s.newCommand tile e x (s.thread (controlTid tile)).rkey none = nextCommand s tile e x := rfl
  simp only [amendForm, patchWord_fetching h, State.template, hedit, hvalid, hnew, hcheck]
  rfl

/-- R148, R149: an issue that its checks refuse stops the tile, and its change is not applied. -/
theorem amendForm_issue_refused {cause : Nat} {val : Option Nat} (h : Fetching s tile e st)
    (hedit : edit ((s.engine tile e).templates.get t.toNat) = some x) (hvalid : st.valid = true)
    (hcheck : s.issueCheck tile e (nextCommand s tile e x) = .error (cause, val)) :
    amendForm i t edit true s =
      .next (s.raiseEngine tile e (s.engine tile e).seq.toNat cause (val.getD ((encode i).headD 0))) := by
  have hnew : s.newCommand tile e x (s.thread (controlTid tile)).rkey none = nextCommand s tile e x := rfl
  simp only [amendForm, patchWord_fetching h, State.template, hedit, hvalid, hnew, hcheck]
  rfl

end

/-- A word that may change a template runs the common course with the change of its row. -/
theorem exec_eq_amendForm {i : Instr} {templates : SMap (BitVec 256)} {k : Nat} {img : Option (BitVec 256)} {issues : Bool}
    (h : patched i templates = some (k, img, issues)) :
    ∃ (t : BitVec 6) (edit : BitVec 256 → Option (BitVec 256)), t.toNat = k ∧ edit (templates.get k) = img ∧
      ∀ s, exec i s = amendForm i t edit issues s := by
  cases i with
  | amend t f v | issueField t f v =>
    cases h
    exact ⟨t, fun x => amended x f.toNat v.toNat, rfl, rfl, fun _ => rfl⟩
  | issue t =>
    cases h
    exact ⟨t, some, rfl, rfl, fun _ => rfl⟩
  | issueAdd t f v =>
    cases h
    exact ⟨t, fun x => added x f.toNat v, rfl, rfl, fun _ => rfl⟩
  | _ => cases h

end Sys2Proof.Machine

namespace Sys2Proof.Claims

open Sys2Proof.Machine

/-- Settles O39: each clause is one way the common course of the four words can end. -/
theorem patchWordResults : Obligations.PatchWordResults := by
  intro i s tile e k st img issues hfetch hpatched
  obtain ⟨t, edit, rfl, hedit, hexec⟩ := exec_eq_amendForm hpatched
  refine ⟨?_, ?_, ?_, ?_, ?_⟩
  · rintro x rfl hvalid
    exact (hexec s).trans (amendForm_skipped hfetch hedit hvalid)
  · rintro x rfl hvalid rfl
    exact (hexec s).trans (amendForm_amends hfetch hedit hvalid)
  · rintro x c rfl hvalid rfl hcheck
    exact (hexec s).trans (amendForm_issues hfetch hedit hvalid hcheck)
  · rintro rfl
    exact (hexec s).trans (amendForm_refused hfetch hedit)
  · rintro x cause val rfl hvalid rfl hcheck
    exact (hexec s).trans (amendForm_issue_refused hfetch hedit hvalid hcheck)

end Sys2Proof.Claims
end

section
/-! PROOFS, proof-core family: what the family's parts share. -/

namespace Sys2Proof.Machine

@[simp] theorem State.cx_t (s : State) (i : Instr) (tid : Nat) : (s.cx i tid).t = s.thread tid := rfl
@[simp] theorem State.cx_tid (s : State) (i : Instr) (tid : Nat) : (s.cx i tid).tid = tid := rfl

/-- A bit of a number is that of the bit vector it comes from. -/
theorem bitOf_toNat {n : Nat} (x : BitVec n) (i : Nat) : bitOf x.toNat i = x.getLsbD i := by
  rw [BitVec.getLsbD, Nat.testBit_eq_decide_div_mod_eq]
  rfl

/-- A proof thread's home lane is its number modulo 32 (01 R21). -/
theorem laneOf_eq (tid : Nat) : laneOf tid = tid % 32 := by
  unfold laneOf
  omega

end Sys2Proof.Machine
end

section
/-! PROOFS, proof-core family: lane registers and blocks. O16 runs each body; the one step that is not a
definition is GANGQ's, whose three fields are laid side by side as a sum in the model and as a disjunction in the table. -/

namespace Sys2Proof.Machine

/-- The lane bit of a thread as a number. -/
theorem toNat_one_shiftLeft_lane (tid : Nat) : (1#32 <<< (tid % 32)).toNat = 2 ^ laneOf tid := by
  have hlt : 2 ^ (tid % 32) < 2 ^ 32 := Nat.pow_lt_pow_right (by decide) (Nat.mod_lt _ (by decide))
  rw [laneOf_eq, BitVec.toNat_shiftLeft, Nat.shiftLeft_eq]
  exact (congrArg (· % 2 ^ 32) (Nat.one_mul _)).trans (Nat.mod_eq_of_lt hlt)

/-- GANGQ's word (Table 11.2): a lane mask in 31:0, its population count above it, and a slot from bit 40 on. -/
theorem gangWord_eq (gang : Half) {count slot : Nat} (hcount : count ≤ 32) (hslot : slot < 1024) :
    BitVec.ofNat 64 (slot * 2 ^ 40 + count * 2 ^ 32 + gang.toNat) =
      gang.setWidth 64 ||| BitVec.ofNat 64 count <<< 32 ||| BitVec.ofNat 64 slot <<< 40 := by
  have hgang := gang.isLt
  have hmid : 2 ^ 32 * count + gang.toNat < 2 ^ 40 := by omega
  have hlow : 2 ^ 32 * count + gang.toNat = 2 ^ 32 * count ||| gang.toNat := Nat.two_pow_add_eq_or_of_lt hgang count
  have hhigh : 2 ^ 40 * slot + (2 ^ 32 * count + gang.toNat) = 2 ^ 40 * slot ||| (2 ^ 32 * count + gang.toNat) :=
    Nat.two_pow_add_eq_or_of_lt hmid slot
  apply BitVec.eq_of_toNat_eq
  simp only [BitVec.toNat_ofNat, BitVec.toNat_or, BitVec.toNat_setWidth, BitVec.toNat_shiftLeft, Nat.shiftLeft_eq]
  simp (disch := omega) only [Nat.mod_eq_of_lt]
  rw [Nat.mul_comm count, Nat.mul_comm slot, Nat.or_comm gang.toNat, ← hlow, Nat.or_comm, ← hhigh, Nat.add_assoc]

end Sys2Proof.Machine

namespace Sys2Proof.Claims

open Sys2Proof.Machine

/-- GANGQ gives the lanes of its gang, how many they are and its own slot (R226). -/
theorem gangq_completes {s : State} {tid : Nat} {g : Guard} {d : BitVec 6} {e : Effect}
    (he : laneEffect s tid (.gangq g d) = some e) (hable : Able s tid e.spec) :
    exec (.gangq g d) s = .next (e.state.complete tid e.next (!(s.thread tid).prv)) := by
  obtain rfl := Option.some.inj he
  change execGangq g d s = _
  refine (coreInstr_able hable (.gangq g d) _).trans ?_
  have hlanes : (s.core (tid / 1024)).gang.toNat ||| 2 ^ laneOf tid =
      ((s.core (tid / 1024)).gang ||| 1#32 <<< (tid % 32)).toNat := by
    rw [BitVec.toNat_or, toNat_one_shiftLeft_lane]
  have hcount : ((List.range 32).countP ((s.core (tid / 1024)).gang ||| 1#32 <<< (tid % 32)).getLsbD) ≤ 32 :=
    (List.countP_le_length).trans (by simp)
  simp only [State.cx_tid, hlanes, bitOf_toNat, ← List.countP_eq_length_filter,
    gangWord_eq _ hcount (Nat.mod_lt tid (by decide : 1024 > 0))]
  rfl

/-- RBGET of a block held does nothing; of another one within its wave's footprint, with an ordinary block free, it maps the block
onto zeroed registers (R227). -/
theorem rbget_completes {s : State} {tid : Nat} {g : Guard} {b : BitVec 6} {e : Effect}
    (he : laneEffect s tid (.rbget g b) = some e) (hable : Able s tid e.spec) (hneeds : e.needs) :
    exec (.rbget g b) s = .next (e.state.complete tid e.next (!(s.thread tid).prv)) := by
  simp only [laneEffect] at he
  change execRbget g b s = _
  split at he
  · next hheld =>
    obtain rfl := Option.some.inj he
    have hblock : b.toNat < 6 := hneeds
    exact ((coreInstr_able hable (.rbget g b) _).trans (if_neg (Nat.not_le.2 hblock))).trans (if_pos hheld)
  · next hheld =>
    obtain rfl := Option.some.inj he
    obtain ⟨hblock, hregb, hfree⟩ := hneeds
    calc execRbget g b s
      _ = _ := coreInstr_able hable (.rbget g b) _
      _ = _ := if_neg (Nat.not_le.2 hblock)
      _ = _ := if_neg hheld
      _ = _ := if_neg (Nat.not_le.2 hregb)
      _ = _ := if_pos hfree

/-- RBPUT of a block not held does nothing (R228). -/
theorem rbput_completes {s : State} {tid : Nat} {g : Guard} {b : BitVec 6} {e : Effect}
    (he : laneEffect s tid (.rbput g b) = some e) (hable : Able s tid e.spec) (hneeds : e.needs) :
    exec (.rbput g b) s = .next (e.state.complete tid e.next (!(s.thread tid).prv)) := by
  simp only [laneEffect] at he
  split at he
  · cases he
  · next hheld =>
    obtain rfl := Option.some.inj he
    have hblock : b.toNat < 6 := hneeds
    change execRbput g b s = _
    exact ((coreInstr_able hable (.rbput g b) _).trans (if_neg (Nat.not_le.2 hblock))).trans (if_neg hheld)

/-- The six blocks: a number whose bit is set among those held names one. -/
theorem lt_six_of_held {held : BitVec 6} {b : Nat} (h : held.getLsbD b = true) : b < 6 := BitVec.lt_of_getLsbD h

/-- RBPUT of a held block discards it; then blocks are granted to the threads of its core that wait for one (R228). -/
theorem rbput_held {s : State} {tid : Nat} {g : Guard} {b : BitVec 6} (hable : Able s tid { guard := some g, kind := .proof })
    (hheld : (s.thread tid).held.getLsbD b.toNat = true) :
    exec (.rbput g b) s = .next ((s.finish tid 1 (·.dropBlock b.toNat)).regrant (tid / 1024)) := by
  change execRbput g b s = _
  exact ((coreInstr_able hable (.rbput g b) _).trans (if_neg (Nat.not_le.2 (lt_six_of_held hheld)))).trans (if_pos hheld)

/-- Settles O16: the bodies of the five instructions, and the grant that follows the return of a held block. -/
theorem laneRegisterResults : Obligations.LaneRegisterResults := by
  refine ⟨fun s tid i e he _ hable hneeds => ?_, fun g b s tid _ hable hheld => rbput_held hable hheld⟩
  cases i with
  | flrd g d =>
    obtain rfl := Option.some.inj he
    change execFlrd g d s = _
    exact coreInstr_able hable (.flrd g d) _
  | flcl g a =>
    obtain rfl := Option.some.inj he
    change execFlcl g a s = _
    exact coreInstr_able hable (.flcl g a) _
  | gangq g d => exact gangq_completes he hable
  | rbget g b => exact rbget_completes he hable hneeds
  | rbput g b => exact rbput_completes he hable hneeds
  | _ => cases he

end Sys2Proof.Claims
end

section
/-! PROOFS, proof-core family: assists. O37 and O38 run the bodies of the assists from three facts: a record that can be read
lies below the end of the address space, so that its read goes on with its bytes; a texture's body goes on with the
descriptor those bytes give; and texels that can be read are what the body goes on with. -/

namespace Sys2Proof.Machine

/-- R185: a read of at least one byte that ends well is of an address below the end of the address space. -/
theorem State.lt_vaBits_of_readPlain {s r : State} {tid va n : Nat} {fresh : Bool} {bs : List Byte} (hn : 0 < n)
    (h : s.readPlain tid va fresh n = .ok r bs) : va < 2 ^ Config.vaBits := by
  obtain ⟨n, rfl⟩ := Nat.exists_eq_succ_of_ne_zero hn.ne'
  by_contra hva
  have hfault : s.resolve (s.who tid) needR va 1 = .fault causeAccess := if_pos (Nat.not_lt.1 hva)
  simp [State.readPlain, hfault] at h

section
variable {c : Cx} {s r : State} {bs : List Byte}

/-- R230, R241: an aligned record that can be read is what its instruction goes on with. -/
theorem Cx.readRecord_ok {va align n : Nat} (hn : 0 < n) (halign : va % align = 0)
    (h : s.readPlain c.tid va true n = .ok r bs) (k : List Byte → State → Out) : c.readRecord va align n k s = k bs r := by
  unfold Cx.readRecord
  rw [if_neg (Nat.not_le.2 (State.lt_vaBits_of_readPlain hn h)), if_neg (not_not.2 halign), h]

/-- R230: so is the texture that a descriptor in memory names. -/
theorem Cx.withTexture_ok {a : BitVec 6} {x : Texture} (halign : (c.t.rd a).toNat % 16 = 0)
    (h : s.readPlain c.tid (c.t.rd a).toNat true 16 = .ok r bs) (htex : textureOf (leNat bs) = some x)
    (k : Texture → State → Out) : c.withTexture a k s = k x r := by
  unfold Cx.withTexture
  rw [Cx.readRecord_ok (by decide) halign h, htex]

/-- R242: and the triangle and sample of RAST and BARY. -/
theorem Cx.withRast_ok {a b : BitVec 6} (halign : (c.t.rd a).toNat % 8 = 0)
    (h : s.readPlain c.tid (c.t.rd a).toNat true 24 = .ok r bs) (k : RastIn → State → Out) :
    c.withRast a b k s = k (rastIn bs (c.t.rd b)) r :=
  Cx.readRecord_ok (by decide) halign h _

/-- R237: texels that can be read are what the instruction goes on with. -/
theorem Cx.texelsThen_ok {x : Texture} {k : Nat} {all : Bool} {taps : List Tap} {vals : List (List Nat)}
    (h : State.readTexels c.tid x k all taps s = .ok r vals) (go : List (List Nat) → State → Out) :
    c.texelsThen x k all taps go s = go vals r := by
  unfold Cx.texelsThen
  rw [h]

end

/-- R233: the level of a texture by its MIP mode: the base, the nearest, the lower of two. -/
theorem mipLevel_eq (mip a b : Nat) :
    (if mip = 0 then 0 else if mip = 1 then a else b) = match mip with | 0 => 0 | 1 => a | _ => b := by
  rcases mip with _ | _ | _ <;> rfl

/-- R231: a channel that a texture lacks reads 1.0 in the fourth place and 0 elsewhere. -/
theorem missingChannel_toNat (ch : BitVec 2) : missingChannel ch.toNat = if ch = 3 then 0x3F800000 else 0 := by
  revert ch
  decide

end Sys2Proof.Machine

namespace Sys2Proof.Claims

open Sys2Proof.Machine

/-- Settles O37: each body goes on with the descriptor, and then with the texels of each level it reads. -/
theorem textureResults : Obligations.TextureResults := by
  intro g d a b l s r tid bs x halign hread htex
  refine ⟨fun _ hable r0 r1 v0 v1 h0 h1 => ?_, fun ch _ hable r0 x0 x1 y0 y1 h0 => ?_, fun _ hable => ?_⟩
  · change execTex g d a b l s = _
    rw [mipLevel_eq] at h0 h1
    calc execTex g d a b l s
      _ = _ := coreInstr_able hable (.tex g d a b l) _
      _ = _ := Cx.withTexture_ok halign hread htex _
      _ = _ := Cx.texelsThen_ok h0 _
      _ = _ := Cx.texelsThen_ok h1 _
      _ = _ := by rw [mipLevel_eq]; rfl
  · intro pick
    change execTexg g d a b l ch s = _
    calc execTexg g d a b l ch s
      _ = _ := coreInstr_able hable (.texg g d a b l ch) _
      _ = _ := Cx.withTexture_ok halign hread htex _
      _ = _ := Cx.texelsThen_ok h0 _
      _ = _ := by rw [missingChannel_toNat]; rfl
  · calc execTexq g d a b s
      _ = _ := coreInstr_able hable (.texq g d a b) _
      _ = _ := Cx.withTexture_ok halign hread htex _

/-- Settles O38: each body goes on with its record; a hit and a miss are the two results of its test. -/
theorem rayAndRasterResults : Obligations.RayAndRasterResults := by
  intro g d a b p s r tid bs
  refine ⟨fun _ hable halign hread => ?_, fun _ hable halign hread => ?_, fun _ hable halign hread => ?_,
    fun _ hable halign hread => ?_⟩
  · change execRaybox g d a b p s = _
    refine (coreInstr_able hable (.raybox g d a b p) _).trans ((Cx.readRecord_ok (by decide) halign hread _).trans ?_)
    cases htest : rayBox (rayWords (s.thread tid) b) ((List.range 6).map (word32 bs)) with
    | none => simp only [State.cx_t, htest]; rfl
    | some tn => simp only [State.cx_t, htest]; rfl
  · change execRaytri g d a b p s = _
    refine (coreInstr_able hable (.raytri g d a b p) _).trans ((Cx.readRecord_ok (by decide) halign hread _).trans ?_)
    cases htest : rayTri (rayWords (s.thread tid) b) ((List.range 9).map (word32 bs)) with
    | none => simp only [State.cx_t, htest]; rfl
    | some hit => simp only [State.cx_t, htest]; rfl
  · change execRast g a b p s = _
    exact (coreInstr_able hable (.rast g a b p) _).trans (Cx.withRast_ok halign hread _)
  · change execBary g d a b s = _
    exact (coreInstr_able hable (.bary g d a b) _).trans (Cx.withRast_ok halign hread _)

end Sys2Proof.Claims
end

section
/-! PROOFS, proof-core family: faults of registers. O26: every instruction of the tables but XOP takes the common course of a core
instruction with the prologue its table gives, table by table; the common course looks at the registers of a prologue
before any body runs. XOP names no register in its prologue: its body looks at them. -/

namespace Sys2Proof.Machine

open Sys2Proof.Claims

/-- An instruction takes the common course of a core instruction with a prologue. -/
def TakesCourse (s : State) (i : Instr) (x : Spec) : Prop := ∃ body, exec i s = coreInstr i x body s

variable {s : State} {tid : Nat} {i : Instr} {e : Effect}

/-! ## The tables give the prologues that the meanings have -/

theorem takesCourse_of_intEffectA (h : intEffectA s tid i = some e) : TakesCourse s i e.spec := by
  cases i with
  | add | sub | mul | mad | abs | mulh | mulhu | div | divu | rem | remu | min | max | minu | maxu | sel | and | or | xor
  | andn | shl | shr | sar | rotl | clz | ctz | popc | brev | mov | leaIndexed =>
    cases h
    dsimp only [TakesCourse, exec, execAdd, execSub, execMul, execMad, execAbs, execMulh, execMulhu, execDiv, execDivu,
      execRem, execRemu, execMin, execMax, execMinu, execMaxu, execSel, execAnd, execOr, execXor, execAndn, execShl, execShr,
      execSar, execRotl, execClz, execCtz, execPopc, execBrev, execMov, execLeaIndexed]
    exact ⟨_, rfl⟩
  | _ => cases h

theorem takesCourse_of_intEffectB (h : intEffectB s tid i = some e) : TakesCourse s i e.spec := by
  cases i with
  | addi | addiWide | leaImm | movi | moviWide | moviHi | extb | extbSx | insb | rngb =>
    cases h
    dsimp only [TakesCourse, exec, execAddi, execAddiWide, execLeaImm, execMovi, execMoviWide, execMoviHi, execExtb,
      execExtbSx, execInsb, execRngb]
    exact ⟨_, rfl⟩
  | _ => cases h

theorem takesCourse_of_predEffect (h : predEffect s tid i = some e) : TakesCourse s i e.spec := by
  cases i with
  | cmp | cmpAnd | cmpOr | cmpXor | cmpi | qop =>
    cases h
    dsimp only [TakesCourse, exec, execCmp, execCmpAnd, execCmpOr, execCmpXor, execCmpi, execQop]
    exact ⟨_, rfl⟩
  | _ => cases h

/-- What FCVT accepts before it depends on whether its result is a float (Table 7.6). -/
theorem fcvtAccept_eq (dst : Nat) : (if (floatOf dst).isSome then acceptArith else acceptToInt) =
    { rm := true, arith := true, unit := (floatOf dst).isSome, ftz := true } := by
  cases (floatOf dst).isSome <;> rfl

theorem takesCourse_of_floatEffect (h : floatEffect s tid i = some e) : TakesCourse s i e.spec := by
  cases i with
  | fadd | fsub | fmul | fdiv | ffma | fsqrt | frnd | fmin | fmax | fabs | fneg | fclass | fcmp | frcp | frsq | fexp2 | flog2
  | fsin | fcos =>
    cases h
    dsimp only [TakesCourse, exec, execFadd, execFsub, execFmul, execFdiv, execFfma, execFsqrt, execFrnd, execFmin, execFmax,
      execFabs, execFneg, execFclass, execFcmp, execFrcp, execFrsq, execFexp2, execFlog2, execFsin, execFcos, fpu1, fpu2]
    exact ⟨_, rfl⟩
  | fcvt g d a src dst =>
    cases h
    dsimp only [TakesCourse, exec, execFcvt]
    rw [fcvtAccept_eq]
    exact ⟨_, rfl⟩
  | _ => cases h

theorem takesCourse_of_flowEffect (h : flowEffect s tid i = some e) : TakesCourse s i e.spec := by
  cases i with
  | nop | bra | call | callr | jmpr | ret =>
    cases h
    dsimp only [TakesCourse, exec, execNop, execBra, execCall, execCallr, execJmpr, execRet]
    exact ⟨_, rfl⟩
  | loop | lend =>
    simp only [flowEffect] at h
    repeat' split at h
    all_goals cases h
    all_goals dsimp only [TakesCourse, exec, execLoop, execLend]
    all_goals exact ⟨_, rfl⟩
  | _ => cases h

theorem takesCourse_of_fenceEffect (h : fenceEffect s tid i = some e) : TakesCourse s i e.spec := by
  cases i with
  | fenceFull | fenceAcq | fenceRel | fencePort =>
    cases h
    dsimp only [TakesCourse, exec, execFenceFull, execFenceAcq, execFenceRel, execFencePort]
    exact ⟨_, rfl⟩
  | _ => cases h

/-- The CSRs of level S (R380). -/
theorem csrPrivileged_eq (n : Nat) : csrPrivileged n = csrSystem n := by
  simp only [csrPrivileged, csrSystem, List.contains_cons, List.contains_nil]
  grind

theorem takesCourse_of_csrEffect (h : csrEffect s tid i = some e) : TakesCourse s i e.spec := by
  cases i with
  | csrr =>
    cases h
    dsimp only [TakesCourse, exec, execCsrr]
    exact ⟨_, rfl⟩
  | csrw g a n | csrs g a n =>
    cases h
    dsimp only [TakesCourse, exec, execCsrw, execCsrs]
    rw [csrPrivileged_eq]
    exact ⟨_, rfl⟩
  | _ => cases h

theorem takesCourse_of_portEffect (h : portEffect s tid i = some e) : TakesCourse s i e.spec := by
  cases i with
  | enqp | portq =>
    cases h
    dsimp only [TakesCourse, exec, execEnqp, execPortq]
    exact ⟨_, rfl⟩
  | enqpNb | deqp =>
    simp only [portEffect] at h
    split at h <;> cases h
    all_goals dsimp only [TakesCourse, exec, execEnqpNb, execDeqp]
    all_goals exact ⟨_, rfl⟩
  | _ => cases h

theorem takesCourse_of_tattingEffect (h : tattingEffect s tid i = some e) (hxop : ∀ g d a b c k, i ≠ .xop g d a b c k) :
    TakesCourse s i e.spec := by
  cases i with
  | patdr | patq =>
    cases h
    dsimp only [TakesCourse, exec, execPatdr, execPatq]
    exact ⟨_, rfl⟩
  | xop g d a b c k => exact absurd rfl (hxop g d a b c k)
  | _ => cases h

theorem takesCourse_of_laneEffect (h : laneEffect s tid i = some e) : TakesCourse s i e.spec := by
  cases i with
  | flrd | flcl | gangq =>
    cases h
    dsimp only [TakesCourse, exec, execFlrd, execFlcl, execGangq]
    exact ⟨_, rfl⟩
  | rbget | rbput =>
    simp only [laneEffect] at h
    split at h <;> cases h
    all_goals dsimp only [TakesCourse, exec, execRbget, execRbput]
    all_goals exact ⟨_, rfl⟩
  | _ => cases h

/-- R266: the fields of a layout register (Table 13.4). -/
theorem layoutSpan_eq (f : BitVec 6) : layoutSpan f = layoutField f.toNat := by
  revert f
  decide

theorem takesCourse_of_strandEffect (h : strandEffect s tid i = some e) : TakesCourse s i e.spec := by
  cases i with
  | lld | lmov | fork | forkToken | rdv =>
    cases h
    dsimp only [TakesCourse, exec, execLld, execLmov, execFork, execForkToken, execRdv]
    exact ⟨_, rfl⟩
  | lset g l a f | lget g d l f =>
    simp only [strandEffect] at h
    split at h
    · cases h
    · next hspan =>
      cases h
      dsimp only [TakesCourse, exec, execLset, execLget]
      rw [← layoutSpan_eq, hspan]
      exact ⟨_, rfl⟩
  | _ => cases h

theorem takesCourse_of_lifeEffect (h : lifeEffect s tid i = some e) : TakesCourse s i e.spec := by
  cases i with
  | dflush | govrd | yield =>
    cases h
    dsimp only [TakesCourse, exec, execDflush, execGovrd, execYield]
    exact ⟨_, rfl⟩
  | wdone =>
    simp only [lifeEffect] at h
    split at h <;> cases h
    all_goals dsimp only [TakesCourse, exec, execWdone]
    all_goals exact ⟨_, rfl⟩
  | _ => cases h

theorem takesCourse_of_memForm {t : Thread} {f : MemForm} (h : memForm t i = some f) : TakesCourse s i f.spec := by
  cases i with
  | ldIndexed | ldSxIndexed | stIndexed | ldAcqIndexed | stRelIndexed | ldBShort | ldHShort | ldWShort | ldDShort | ldSxBShort
  | ldSxHShort | ldSxWShort | stBShort | stHShort | stWShort | stDShort | ldOffset32 | ldSxOffset32 | stOffset32
  | ldAcqOffset32 | stRelOffset32 | atom | cas =>
    cases h
    dsimp only [TakesCourse, exec, execLdIndexed, execLdSxIndexed, execStIndexed, execLdAcqIndexed, execStRelIndexed,
      execLdBShort, execLdHShort, execLdWShort, execLdDShort, execLdSxBShort, execLdSxHShort, execLdSxWShort, execStBShort,
      execStHShort, execStWShort, execStDShort, execLdOffset32, execLdSxOffset32, execStOffset32, execLdAcqOffset32,
      execStRelOffset32, execAtom, execCas]
    exact ⟨_, rfl⟩
  | _ => cases h

theorem takesCourse_of_gatherForm {t : Thread} {p : Nat × Spec × Wait} (h : gatherForm t i = some p) :
    TakesCourse s i p.2.1 := by
  cases i with
  | divb | join | vote | shfl | redx =>
    cases h
    dsimp only [TakesCourse, exec, execDivb, execJoin, execVote, execShfl, execRedx]
    exact ⟨_, rfl⟩
  | _ => cases h

/-- Every instruction of the tables but XOP takes the common course with its prologue. -/
theorem takesCourse_of_prologue {x : Spec} (h : prologue s tid i = some x) (hxop : ∀ g d a b c k, i ≠ .xop g d a b c k) :
    TakesCourse s i x := by
  obtain ⟨⟨n, x⟩, hform, rfl⟩ := Option.map_eq_some_iff.1 h
  simp only [formOf, Option.orElse_eq_some, Option.map_eq_some_iff] at hform
  obtain ⟨e, he, heq⟩ | ⟨-, ⟨f, hf, heq⟩ | ⟨-, p, hp, heq⟩⟩ := hform
  · cases heq
    simp only [intEffect, Option.orElse_eq_some] at he
    obtain (he | ⟨-, he⟩) | ⟨-, he | ⟨-, he | ⟨-, he | ⟨-, he | ⟨-, he | ⟨-, he | ⟨-, he | ⟨-, he | ⟨-, he | ⟨-, he⟩⟩⟩⟩⟩⟩⟩⟩⟩⟩ :=
      he
    · exact takesCourse_of_intEffectA he
    · exact takesCourse_of_intEffectB he
    · exact takesCourse_of_predEffect he
    · exact takesCourse_of_floatEffect he
    · exact takesCourse_of_flowEffect he
    · exact takesCourse_of_fenceEffect he
    · exact takesCourse_of_csrEffect he
    · exact takesCourse_of_portEffect he
    · exact takesCourse_of_tattingEffect he hxop
    · exact takesCourse_of_laneEffect he
    · exact takesCourse_of_strandEffect he
    · exact takesCourse_of_lifeEffect he
  · cases heq
    exact takesCourse_of_memForm hf
  · cases heq
    exact takesCourse_of_gatherForm hp

/-! ## Registers that are not held, and pending registers -/

/-- R212: a register that a thread names and does not hold; a control core holds all of its registers. -/
def notHeld (s : State) (tid : Nat) (r : BitVec 6) : Bool := !isControl tid && (s.thread tid).unheld r

/-- R367: a pending register that a thread reads; g0 never is. -/
def pendingIn (s : State) (tid : Nat) (r : BitVec 6) : Bool := decide (r ≠ 0) && decide ((s.thread tid).pend.get r.toNat ≠ 0)

/-- The registers of a list that are not held. -/
theorem find_notHeld (s : State) (tid : Nat) (rs : List (BitVec 6)) :
    (if isControl tid then none else rs.find? (s.thread tid).unheld) = rs.find? (notHeld s tid) := by
  unfold notHeld
  cases isControl tid with
  | false => simp
  | true => exact (List.find?_eq_none.2 (by simp)).symm

/-- R212: the first register not held is the fault of an instruction that names it. -/
theorem sharedFault_notHeld {x : Spec} {r : BitVec 6} (h : (x.reads ++ x.writes).find? (notHeld s tid) = some r) (word : Nat) :
    sharedFault x word tid (s.thread tid) = some (causeRegblock, r.toNat) := by
  unfold sharedFault
  simp only [find_notHeld, h]

/-- R367, R212: where every register is held, the first pending register read is. -/
theorem sharedFault_pending {x : Spec} {r : BitVec 6} (hheld : ∀ y ∈ x.reads ++ x.writes, notHeld s tid y = false)
    (h : x.reads.find? (pendingIn s tid) = some r) (word : Nat) :
    sharedFault x word tid (s.thread tid) = some (causeIllegal, 0x200 + r.toNat) := by
  have hnone : (x.reads ++ x.writes).find? (notHeld s tid) = none := List.find?_eq_none.2 fun y hy => by simp [hheld y hy]
  have hpend : x.reads.find? (fun r => decide (r ≠ 0) && (s.thread tid).pend.get r.toNat != 0) = some r := by
    rw [← h]
    congr 1
    funext y
    simp [pendingIn, bne, BEq.beq]
  unfold sharedFault
  simp only [find_notHeld, hnone, hpend]

/-- Where every register is held and none that is read is pending, an instruction that handlers may execute has no such fault. -/
theorem sharedFault_none {x : Spec} (hheld : ∀ y ∈ x.reads ++ x.writes, notHeld s tid y = false)
    (hready : ∀ y ∈ x.reads, pendingIn s tid y = false) (hhandler : x.noHandler = false) (word : Nat) :
    sharedFault x word tid (s.thread tid) = none := by
  have hnone : (x.reads ++ x.writes).find? (notHeld s tid) = none := List.find?_eq_none.2 fun y hy => by simp [hheld y hy]
  have hpend : x.reads.find? (fun r => decide (r ≠ 0) && (s.thread tid).pend.get r.toNat != 0) = none :=
    List.find?_eq_none.2 fun y hy => by simpa [pendingIn] using hready y hy
  unfold sharedFault
  simp only [find_notHeld, hnone, hpend, hhandler]
  exact if_neg (by simp)

/-- The word, the prefixes and the level of an instruction that a thread comes to execute raise nothing (R123). -/
theorem firstFate_of_reaches {x : Spec} (h : Reaches s tid x) (word : Nat) : firstFate x word tid (s.thread tid) s = none := by
  obtain ⟨hcur, hmay, hkind, hfeature, hprefixes, htransfer, hlevel, hguard⟩ := h
  exact firstFate_able (x := { x with reads := [], writes := [], noHandler := false })
    ⟨hcur, hmay, hkind, hfeature, hprefixes, htransfer, hlevel, hguard, by simp, by simp, by simp⟩ word

/-- R123: an instruction that its thread comes to execute raises the fault it shares with the others. -/
theorem coreInstr_of_sharedFault {x : Spec} {cause val : Nat} (h : Reaches s tid x)
    (hfault : ∀ word, sharedFault x word tid (s.thread tid) = some (cause, val)) (i : Instr) (body : Cx → State → Out) :
    coreInstr i x body s = .next (s.trap tid cause (s.thread tid).pc (BitVec.ofNat 64 val)) := by
  unfold coreInstr
  rw [running_of_cur h.cur h.may]
  simp only [State.cx_t, firstFate_of_reaches h, h.guard, hfault]
  rfl

/-- A thread that comes to execute an instruction without registers of its own executes it. -/
theorem able_of_reaches {x : Spec} (h : Reaches s tid x) (hreads : x.reads = []) (hwrites : x.writes = [])
    (hhandler : x.noHandler = false) : Able s tid x := by
  obtain ⟨hcur, hmay, hkind, hfeature, hprefixes, htransfer, hlevel, hguard⟩ := h
  exact ⟨hcur, hmay, hkind, hfeature, hprefixes, htransfer, hlevel, hguard, by simp [hreads, hwrites], by simp [hreads],
    by simp [hhandler]⟩

/-- The number of a register as a trap value. -/
theorem ofNat_reg (r : BitVec 6) : BitVec.ofNat 64 r.toNat = r.setWidth 64 := by
  apply BitVec.eq_of_toNat_eq
  simp

/-- The value of a pending register's trap. -/
theorem ofNat_pending (r : BitVec 6) : BitVec.ofNat 64 (0x200 + r.toNat) = 0x200 + r.setWidth 64 := by
  rw [BitVec.ofNat_add, ofNat_reg]
  rfl

end Sys2Proof.Machine

namespace Sys2Proof.Claims

open Sys2Proof.Machine

/-- R212, R367: the faults of registers, of every instruction of the tables but XOP. -/
theorem courseFaults {i : Instr} {x : Spec} {s : State} {tid : Nat} {r : BitVec 6} (hx : TakesCourse s i x)
    (hreach : Reaches s tid x) :
    ((x.reads ++ x.writes).find? (notHeld s tid) = some r →
      exec i s = .next (s.trap tid 0x10 (s.thread tid).pc (r.setWidth 64))) ∧
    ((∀ y ∈ x.reads ++ x.writes, notHeld s tid y = false) → x.reads.find? (pendingIn s tid) = some r →
      exec i s = .next (s.trap tid 0x01 (s.thread tid).pc (0x200 + r.setWidth 64))) := by
  obtain ⟨body, hexec⟩ := hx
  refine ⟨fun hr => ?_, fun hheld hr => ?_⟩
  · rw [hexec, coreInstr_of_sharedFault hreach (sharedFault_notHeld hr), ofNat_reg]
    rfl
  · rw [hexec, coreInstr_of_sharedFault hreach (sharedFault_pending hheld hr), ofNat_pending]
    rfl

section
variable {g : Guard} {d a b c : BitVec 6} {k : BitVec 4} {s : State} {tid cause val : Nat} {p : PatSlot}
  (hreach : Reaches s tid { guard := some g, kind := .proof, tat := true })
  (hp : (s.group (s.thread tid).gid).patterns.get k.toNat = p)
include hreach hp

/-- R329: XOP of an empty slot misses. -/
theorem xop_empty (hvalid : p.valid = false) :
    exec (.xop g d a b c k) s = .next (s.trap tid 0x08 (s.thread tid).pc (k.setWidth 64)) := by
  subst hp
  change execXop g d a b c k s = _
  exact (coreInstr_able (able_of_reaches hreach rfl rfl rfl) (.xop g d a b c k) _).trans (if_pos (by simp [hvalid]))

variable (hvalid : p.valid = true)
include hvalid

/-- R329: XOP of a pattern whose sources have a fault raises it. -/
theorem xop_sourceFault
    (hfault : ∀ word, sharedFault { reads := [a, b, c].take (patNsrc p.image) } word tid (s.thread tid) = some (cause, val)) :
    exec (.xop g d a b c k) s = .next (s.trap tid cause (s.thread tid).pc (BitVec.ofNat 64 val)) := by
  subst hp
  change execXop g d a b c k s = _
  refine (coreInstr_able (able_of_reaches hreach rfl rfl rfl) (.xop g d a b c k) _).trans ((if_neg (by simp [hvalid])).trans ?_)
  simp only [State.cx_t, State.cx_tid, hfault]
  rfl

variable (hgood : ∀ word, sharedFault { reads := [a, b, c].take (patNsrc p.image) } word tid (s.thread tid) = none)
include hgood

/-- R329: XOP of a pattern of two results with an odd gd is an illegal instruction, once its sources are good. -/
theorem xop_oddPair (hodd : patTwo p.image = true ∧ d.getLsbD 0 = true) :
    exec (.xop g d a b c k) s = .next (s.trap tid 0x01 (s.thread tid).pc
      (BitVec.ofNat 64 ((encode (.xop g d a b c k)).headD 0))) := by
  subst hp
  change execXop g d a b c k s = _
  refine (coreInstr_able (able_of_reaches hreach rfl rfl rfl) (.xop g d a b c k) _).trans ((if_neg (by simp [hvalid])).trans ?_)
  simp only [State.cx_t, State.cx_tid, hgood]
  exact if_pos hodd

/-- R329: a register XOP writes has its fault last. -/
theorem xop_resultFault (heven : ¬ (patTwo p.image = true ∧ d.getLsbD 0 = true))
    (hfault : ∀ word, sharedFault { writes := if patTwo p.image then [d, d + 1] else [d] } word tid (s.thread tid) =
      some (cause, val)) :
    exec (.xop g d a b c k) s = .next (s.trap tid cause (s.thread tid).pc (BitVec.ofNat 64 val)) := by
  subst hp
  change execXop g d a b c k s = _
  refine (coreInstr_able (able_of_reaches hreach rfl rfl rfl) (.xop g d a b c k) _).trans ((if_neg (by simp [hvalid])).trans ?_)
  simp only [State.cx_t, State.cx_tid, hgood]
  refine (if_neg heven).trans ?_
  split
  · next heq => cases (hfault _).symm.trans heq; rfl
  · next heq => cases (hfault _).symm.trans heq

end

/-- Settles O26: the common course has these faults before any body, and XOP's body looks at its own registers in R329's
order. -/
theorem registerFaults : Obligations.RegisterFaults := by
  refine ⟨fun i x s tid r hx _ hxop hreach => courseFaults (takesCourse_of_prologue hx hxop) hreach, ?_⟩
  intro g d a b c k s tid r _ hreach slot srcs two raises
  refine ⟨fun hvalid => xop_empty hreach rfl hvalid, fun hvalid => ⟨fun hr => ?_, fun hheld hr => ?_, fun hgood => ?_⟩⟩
  · have hfind : (srcs ++ []).find? (notHeld s tid) = some r := (List.append_nil srcs).symm ▸ hr
    exact (xop_sourceFault hreach rfl hvalid (sharedFault_notHeld (x := { reads := srcs }) hfind)).trans (by rw [ofNat_reg]; rfl)
  · have hheld' : ∀ y ∈ srcs ++ [], notHeld s tid y = false := (List.append_nil srcs).symm ▸ hheld
    exact (xop_sourceFault hreach rfl hvalid (sharedFault_pending (x := { reads := srcs }) hheld' hr)).trans
      (by rw [ofNat_pending]; rfl)
  · have hheld : ∀ y ∈ srcs ++ [], notHeld s tid y = false := (List.append_nil srcs).symm ▸ fun y hy => (hgood y hy).1
    have hsrcs := sharedFault_none (x := { reads := srcs }) hheld (fun y hy => (hgood y hy).2) rfl
    refine ⟨fun htwo hodd => xop_oddPair hreach rfl hvalid hsrcs ⟨htwo, hodd⟩, fun heven hr => ?_⟩
    have hpair : ¬ (two = true ∧ d.getLsbD 0 = true) := fun ⟨htwo, hodd⟩ => absurd ((heven htwo).symm.trans hodd) (by decide)
    have hfault := sharedFault_notHeld (s := s) (tid := tid) (x := { writes := if two then [d, d + 1] else [d] }) hr
    exact (xop_resultFault hreach rfl hvalid hsrcs hpair hfault).trans (by rw [ofNat_reg]; rfl)

end Sys2Proof.Claims
end

section
/-! PROOFS, proof-core family: arrival at a gathering. O27: a thread that arrives alone parks, and its group is settled at once. -/

namespace Sys2Proof.Machine

open Sys2Proof.Claims

section
variable (s : State) (tid n : Nat) (w : Wait)

@[simp] theorem State.core_waits (k : Nat) : (s.waits tid n w).core k = s.core k := by
  unfold State.waits
  dsimp only
  split <;> split <;> rfl

@[simp] theorem State.wave_waits (k : Nat) : (s.waits tid n w).wave k = s.wave k := by
  unfold State.waits
  dsimp only
  split <;> split <;> rfl

/-- What a wait leaves in the map of threads: the one that waits, with its PC, level and registers as they were. -/
theorem State.threads_waits : ∃ parked begun entered kept, (s.waits tid n w).threads = s.threads.set tid { s.thread tid with
    wait := some w, resume := s.after tid n, pfx := []
    parkedAt := parked, waited := begun, parkedIn := entered, hadWaited := kept } := by
  unfold State.waits
  dsimp only
  split <;> split <;> exact ⟨_, _, _, _, rfl⟩

end

/-- A thread that arrives at a gathering outside a gang, or as its only member, waits there, and what its arrival releases is
released at once (R213-R216). -/
theorem Cx.gather_alone {s : State} {tid n : Nat} {i : Instr} (halone : Alone s tid) (hlen : (encode i).length = n) (w : Wait) :
    (s.cx i tid).gather w s = .next ((s.waits tid n w).settleGroup (s.thread tid).gid) := by
  unfold Cx.gather
  rw [cx_park hlen]
  refine if_pos ?_
  rw [State.core_waits, State.cx_tid, laneOf_eq]
  exact halone

end Sys2Proof.Machine

namespace Sys2Proof.Claims

open Sys2Proof.Machine

/-- Settles O27: the five bodies gather, and a JOIN that has not been granted yet does. -/
theorem gatheringForms : Obligations.GatheringForms := by
  intro i n x w s tid hform _ hable halone hgranted
  cases i with
  | divb g off =>
    cases hform
    rw [← shiftLeft_two_eq]
    change execDivb g off s = _
    exact (coreInstr_able hable (.divb g off) _).trans (Cx.gather_alone halone rfl _)
  | join g =>
    cases hform
    change execJoin g s = _
    refine (coreInstr_able hable (.join g) _).trans ?_
    refine (if_neg (by simp [hgranted])).trans ?_
    exact Cx.gather_alone halone rfl _
  | vote g d idx flag kind mask =>
    cases hform
    change execVote g d idx flag kind mask s = _
    exact (coreInstr_able hable (.vote g d idx flag kind mask) _).trans (Cx.gather_alone halone rfl _)
  | shfl g d a b mask =>
    cases hform
    change execShfl g d a b mask s = _
    exact (coreInstr_able hable (.shfl g d a b mask) _).trans (Cx.gather_alone halone rfl _)
  | redx g d a cls kind mask =>
    cases hform
    change execRedx g d a cls kind mask s = _
    exact (coreInstr_able hable (.redx g d a cls kind mask) _).trans (Cx.gather_alone halone rfl _)
  | _ => cases hform

end Sys2Proof.Claims
end

section
/-! PROOFS, proof-core family: DIVB and JOIN. O28 fails of a state whose map of threads lists a thread twice: the live threads of
a group are then read off entries that are no thread's. In a map in canonical form, which every operation keeps, a group's
live threads are what R213 and R214 release: `settleGroup_divb`, of every map, and `settleGroup_join`. -/

namespace Sys2Proof.Machine

section
variable {α : Type} [Inhabited α] [DecidableEq α] {m : SMap α}

/-- A bound below a canonical map's first key is below all of its keys. -/
theorem SMap.lt_of_mem {j : Nat} {p : Nat × α} (habove : SMap.above j m = true) (hwf : SMap.wf m = true) (hp : p ∈ m) :
    j < p.1 := by
  induction m generalizing j with
  | nil => cases hp
  | cons q m ih =>
    obtain ⟨i, v⟩ := q
    simp only [SMap.above, decide_eq_true_eq] at habove
    simp only [SMap.wf, Bool.and_eq_true] at hwf
    rcases List.mem_cons.1 hp with rfl | hp
    · exact habove
    · exact habove.trans (ih hwf.1.1 hwf.2 hp)

/-- A canonical map lists no key twice. -/
theorem SMap.nodup_keys (hwf : SMap.wf m = true) : (m.map (·.1)).Nodup := by
  induction m with
  | nil => exact List.nodup_nil
  | cons q m ih =>
    obtain ⟨i, v⟩ := q
    simp only [SMap.wf, Bool.and_eq_true] at hwf
    refine List.nodup_cons.2 ⟨fun hi => ?_, ih hwf.2⟩
    obtain ⟨p, hp, rfl⟩ := List.mem_map.1 hi
    exact Nat.lt_irrefl _ (SMap.lt_of_mem hwf.1.1 hwf.2 hp)

/-- What a canonical map lists is what it reads. -/
theorem SMap.get_of_mem {k : Nat} {v : α} (hwf : SMap.wf m = true) (hp : (k, v) ∈ m) : SMap.get m k = v := by
  induction m with
  | nil => cases hp
  | cons q m ih =>
    obtain ⟨i, w⟩ := q
    simp only [SMap.wf, Bool.and_eq_true] at hwf
    rcases List.mem_cons.1 hp with heq | hp
    · cases heq
      exact if_pos rfl
    · exact (if_neg (SMap.lt_of_mem hwf.1.1 hwf.2 hp).ne).trans (ih hwf.2 hp)

omit [DecidableEq α] in
/-- What a map reads and is not the default it lists. -/
theorem SMap.mem_of_get_ne_default {k : Nat} (h : SMap.get m k ≠ default) : (k, SMap.get m k) ∈ m := by
  induction m with
  | nil => exact absurd rfl h
  | cons q m ih =>
    obtain ⟨i, w⟩ := q
    unfold SMap.get at h ⊢
    split at h
    · next hik => simp [hik]
    · next hik => simpa [hik] using .inr (ih h)

end

/-! ## The live threads of a group -/

/-- A live thread is one of its group's. -/
theorem State.mem_members_of_live {s : State} {m : Nat} (hlive : (s.thread m).live = true) : m ∈ s.members (s.thread m).gid := by
  have hne : SMap.get s.threads m ≠ default := fun h => absurd (hlive.symm.trans (congrArg Thread.live h)) (by decide)
  exact List.mem_map.2 ⟨_, List.mem_filter.2 ⟨SMap.mem_of_get_ne_default hne, by
    simp [show (SMap.get s.threads m).live = true from hlive, State.thread]⟩, rfl⟩

/-- In a canonical map, a group's live threads have its key. -/
theorem State.gid_of_mem_members {s : State} {gid m : Nat} (hwf : SMap.wf s.threads = true) (h : m ∈ s.members gid) :
    (s.thread m).gid = gid := by
  obtain ⟨⟨k, t⟩, hp, rfl⟩ := List.mem_map.1 h
  obtain ⟨hmem, hlive⟩ := List.mem_filter.1 hp
  have ht : s.thread k = t := SMap.get_of_mem hwf hmem
  simp only [Bool.and_eq_true, beq_iff_eq] at hlive
  rw [ht, hlive.2]

/-- In a canonical map, a group lists each of its live threads once. -/
theorem State.nodup_members {s : State} (hwf : SMap.wf s.threads = true) (gid : Nat) : (s.members gid).Nodup :=
  SMap.nodup_keys (SMap.wf_filter hwf _)

/-- A group some of whose live threads has another wait, or none, has not gathered. -/
theorem State.not_gathered {s : State} {gid m : Nat} {atKind : Wait → Bool} (hmem : m ∈ s.members gid)
    (h : (s.thread m).wait.any atKind = false) : s.gathered gid atKind = false := by
  unfold State.gathered
  refine Bool.eq_false_iff.2 fun hall => ?_
  have := List.all_eq_true.1 (Bool.and_eq_true_iff.1 hall).2 m hmem
  simp [h] at this

/-- A group whose live threads all wait in one way at one PC has gathered (R213, R214). -/
theorem State.gathered_of_all {s : State} {gid m : Nat} {atKind : Wait → Bool} {pc : Word} (hmem : m ∈ s.members gid)
    (h : ∀ k ∈ s.members gid, (s.thread k).wait.any atKind = true ∧ (s.thread k).granted = false ∧ (s.thread k).pc = pc) :
    s.gathered gid atKind = true := by
  obtain ⟨first, rest, hms⟩ := List.exists_cons_of_ne_nil (List.ne_nil_of_mem hmem)
  unfold State.gathered
  simp only [hms, List.mem_cons, forall_eq_or_imp] at h
  obtain ⟨⟨hwait, hgranted, hpc⟩, hrest⟩ := h
  simp only [hms, List.isEmpty_cons, Bool.not_false, Bool.true_and, List.all_eq_true, List.mem_cons, forall_eq_or_imp,
    List.headD_cons]
  refine ⟨by simp [hwait, hgranted], fun k hk => ?_⟩
  obtain ⟨hwait', hgranted', hpc'⟩ := hrest k hk
  simp [hwait', hgranted', hpc', hpc]

/-! ## What a completion leaves as it was -/

/-- A thread whose instruction completes in a cycle, going on at a PC (23 R383). -/
def Thread.completing (t : Thread) (pc : Word) (now : Nat) : Thread :=
  { t.settle with pc := pc, completed := t.completed + 1, since := now }

/-- A completed thread has its count, so it is listed. -/
theorem State.thread_setThread_completing (s : State) (m : Nat) (t : Thread) (pc : Word) (now : Nat) :
    (s.setThread m (t.completing pc now)).thread m = t.completing pc now :=
  State.thread_setThread_same s m fun h => Nat.succ_ne_zero t.completed (congrArg Thread.completed h)

/-- A completion leaves other threads, the waves and its own thread's group as they were; the BREAKPOINT that follows a
single-stepped one is a trap at level U (23 R383). -/
theorem State.complete_frame (s : State) (m : Nat) (pc : Word) :
    let u := s.complete m pc (!(s.thread m).prv)
    (∀ k, k ≠ m → u.thread k = s.thread k) ∧ u.waves = s.waves ∧ (u.thread m).gid = (s.thread m).gid := by
  by_cases htrap : (s.thread m).prv = false ∧ (s.thread m).step = true
  · have hcomplete : s.complete m pc (!(s.thread m).prv) =
        (s.setThread m ((s.thread m).completing pc s.cycle)).trap m causeBreak pc 1 := if_pos (by simpa using htrap)
    have hset := s.thread_setThread_completing m (s.thread m) pc s.cycle
    obtain ⟨hthread, hothers, _, _, hwaves, _, _⟩ := onlyThread_trap (by rw [hset]; exact htrap.1) causeBreak pc 1
    rw [hcomplete]
    exact ⟨fun k hk => (hothers k hk).trans (State.thread_setThread_ne s _ hk), hwaves, by rw [hthread, hset]; rfl⟩
  · have hcomplete : s.complete m pc (!(s.thread m).prv) = s.setThread m ((s.thread m).completing pc s.cycle) :=
      if_neg (by simpa using htrap)
    rw [hcomplete]
    exact ⟨fun k hk => State.thread_setThread_ne s _ hk, rfl, by rw [State.thread_setThread_completing]; rfl⟩

/-- R377: a checkpoint of a thread whose wave neither records nor replays is its count alone. -/
def State.passed (s : State) (m : Nat) : State := (s.setThread m { s.thread m with ckpt := (s.thread m).ckpt + 1 }).wake m

/-- Such a checkpoint leaves it so that any thread's wave records or replays. -/
theorem State.recorded_passed (s : State) (m k : Nat) : (s.passed m).recorded k = s.recorded k := by
  have hset : (s.setThread m { s.thread m with ckpt := (s.thread m).ckpt + 1 }).thread m = _ :=
    State.thread_setThread_same s m fun h => Nat.succ_ne_zero (s.thread m).ckpt (congrArg Thread.ckpt h)
  obtain ⟨hothers, hwaves, hgid⟩ := State.complete_frame (s.setThread m { s.thread m with ckpt := (s.thread m).ckpt + 1 }) m
    ((s.setThread m { s.thread m with ckpt := (s.thread m).ckpt + 1 }).thread m).resume
  have hkey : ((s.passed m).thread k).gid = (s.thread k).gid := by
    by_cases hk : k = m
    · subst hk
      exact hgid.trans (by rw [hset])
    · exact congrArg Thread.gid ((hothers k hk).trans (State.thread_setThread_ne s _ hk))
  have hwave : ∀ n, (s.passed m).wave n = s.wave n := fun n => congrArg (SMap.get · n) hwaves
  simp only [State.recorded, State.waveOfThread, hkey, hwave]

/-- R214, R377: threads of waves that neither record nor replay pass their waits one after the other. -/
theorem State.foldl_passWait {s : State} {ms : List Nat} (h : ∀ m ∈ ms, s.recorded m = false) :
    ms.foldl State.passWait s = ms.foldl State.passed s := by
  induction ms generalizing s with
  | nil => rfl
  | cons m ms ih =>
    have hpass : s.passWait m = s.passed m := if_neg (by simp [h m List.mem_cons_self])
    rw [List.foldl_cons, List.foldl_cons, hpass]
    exact ih fun k hk => (State.recorded_passed s m k).trans (h k (List.mem_cons_of_mem m hk))

/-! ## What a group's arrival releases -/

/-- Where a thread goes on from its DIVB (R213). -/
def Thread.divbExit (t : Thread) : Word :=
  match t.wait with
  | some (.divb true target) => target
  | _ => t.resume

section
variable {s : State} {gid tid : Nat} {pc : Word} (hmem : tid ∈ s.members gid)
include hmem

/-- R213: when every live thread of the group has reached the same DIVB, each goes on where it leads it. -/
theorem State.settleGroup_divb (h : ∀ m ∈ s.members gid, (∃ taken target, (s.thread m).wait = some (.divb taken target)) ∧
      (s.thread m).granted = false ∧ (s.thread m).pc = pc) :
    s.settleGroup gid =
      (s.members gid).foldl (fun u m => u.complete m (u.thread m).divbExit (!(u.thread m).prv)) s := by
  have hgathered : s.gathered gid Wait.isDivb = true := State.gathered_of_all hmem fun m hm => by
    obtain ⟨⟨taken, target, hwait⟩, hgranted, hpc⟩ := h m hm
    exact ⟨by rw [hwait]; rfl, hgranted, hpc⟩
  refine (if_pos hgathered).trans (congrArg (fun f => (s.members gid).foldl f s) (funext fun u => funext fun m => ?_))
  unfold Thread.divbExit
  generalize (u.thread m).wait = w
  rcases w with _ | w
  · rfl
  · cases w with
    | divb taken target => cases taken <;> rfl
    | _ => rfl

/-- R214: in a canonical map, when every live thread of a group has reached the same JOIN, all complete together, each passing a
checkpoint; outside deterministic mode, and where the wave neither records nor replays. -/
theorem State.settleGroup_join (hwf : SMap.wf s.threads = true) (hdet : (s.wave (waveOf gid)).node.ctl.getLsbD 23 = false)
    (hrec : (s.wave (waveOf gid)).recMode = 0)
    (h : ∀ m ∈ s.members gid, (s.thread m).wait = some .join ∧ (s.thread m).granted = false ∧ (s.thread m).pc = pc) :
    s.settleGroup gid = (s.members gid).foldl State.passed s := by
  have hdivb : s.gathered gid Wait.isDivb = false := State.not_gathered hmem (by rw [(h tid hmem).1]; rfl)
  have hjoin : s.gathered gid (· == .join) = true := State.gathered_of_all hmem fun m hm =>
    ⟨by rw [(h m hm).1]; rfl, (h m hm).2⟩
  have hrecorded : ∀ m ∈ s.members gid, s.recorded m = false := fun m hm => by
    simp [State.recorded, State.waveOfThread, State.gid_of_mem_members hwf hm, hrec]
  unfold State.settleGroup
  simp only [hdivb, hjoin, hdet, State.foldl_passWait hrecorded]
  rfl

end

end Sys2Proof.Machine

namespace Sys2Proof.Claims

open Sys2Proof.Machine

/-- An unguarded form's guard: q0 is true. -/
def always : Guard := ⟨0, false⟩

/-- Thread 0 of group 0 comes to a JOIN. The map lists thread 1 twice: as it is, waiting at a JOIN in group 1024, whose wave
records; and, in an entry no read finds, as a live thread of group 0. -/
def doubledJoin : State := { (default : State) with
  cur := .thread 0
  threads := [(0, { (default : Thread) with live := true }), (1, { (default : Thread) with wait := some .join, gid := 1024 }),
    (1, { (default : Thread) with live := true })]
  waves := [(1, { (default : Wave) with recMode := 1 })] }

/-- The JOIN lets thread 1 go on to a checkpoint of its own, as a thread of a wave that records. -/
theorem doubledJoin_grants : (match exec (.join always) doubledJoin with
    | .next u => (u.thread 1).granted
    | _ => false) = true := by decide

/-- Refutes O28: in a map that lists a thread twice, the live threads of the group at a JOIN include one of another wave, which
records, and that one does not complete. The statement asks nothing of the map; see `State.settleGroup_join`. -/
theorem not_gatheringReleases : ¬ Obligations.GatheringReleases := by
  unfold Obligations.GatheringReleases
  rintro ⟨_, hjoin⟩
  have hable : Able doubledJoin 0 { guard := some always, kind := .proof } := able_of_canExecute (by decide)
  have hdone := hjoin always doubledJoin 0 (by decide) hable (.inl (by decide)) (by decide) (by decide) (by decide) (by decide)
  have hgrant := doubledJoin_grants
  rw [hdone] at hgrant
  exact absurd hgrant (by decide)

end Sys2Proof.Claims
end

section
/-! PROOFS, proof-core family: the value of a lane collective. What the model computes is the value of R222-R224 over the lanes
that take part; it depends on registers alone, and leaves its thread's course as it was. -/

namespace Sys2Proof.Machine

open Sys2Proof.Claims

/-! ## The value of a collective -/

/-- What a function of its registers gives in the thread of a lane, and what a lane without a live thread gives (R221). -/
def laneValue {β : Type} (s : State) (tid : Nat) (absent : β) (f : Thread → β) (l : Nat) : β :=
  ((lane s tid l).map f).getD absent

/-- R222: what the votes of some lanes leave in the thread that gathers them. -/
def voted (d : BitVec 6) (kind : Nat) (lanes : List Nat) (yes : Nat → Bool) (t : Thread) : Thread :=
  match kind with
  | 0 => t.setPred (d.setWidth 3) (lanes.any yes)
  | 1 => t.setPred (d.setWidth 3) (lanes.all yes)
  | 2 => t.wr d (BitVec.ofNat 64 ((lanes.filter yes).map (2 ^ ·)).sum)
  | _ => t.wr d (BitVec.ofNat 64 (lanes.countP yes))

/-- R223: what a shuffle leaves in its thread, from its source lane, if there is one. -/
def shuffled (d a : BitVec 6) (mask : Half) (value : Nat → Word) (source : Option Nat) (t : Thread) : Thread :=
  match source with
  | none => t.wr d (t.rd a)
  | some l => t.wr d (if mask.getLsbD l then value l else 0)

/-- R224: the term of a thread in a reduction of a kind: floats take the low half of their register. -/
def reduced (a : BitVec 6) (cls : BitVec 2) (kind : BitVec 4) (u : Thread) : Nat :=
  if 8 ≤ kind.toNat then redxValue u a cls % 2 ^ 32 else redxValue u a cls

/-- R221: the lanes of a mask are those that take part. -/
theorem maskLanes_eq (tid : Nat) (mask : Half) : maskLanes tid mask.toNat = (List.range 32).filter (takesPart tid mask) := by
  simp only [maskLanes, bitOf_toNat]
  rfl

/-- The thread a collective sees in a lane. -/
theorem State.laneMate_eq (s : State) (tid l : Nat) : (s.laneMate tid l).map s.thread = lane s tid l := by
  unfold State.laneMate lane
  dsimp only
  split <;> rfl

/-- The lanes with a property as bits of a number, in the order they are gone through. -/
theorem foldl_laneBits (lanes : List Nat) (p : Nat → Bool) (n : Nat) :
    (lanes.map fun l => (l, p l)).foldl (fun m x => if x.2 then m + 2 ^ x.1 else m) n =
      n + ((lanes.filter p).map (2 ^ ·)).sum := by
  induction lanes generalizing n with
  | nil => rfl
  | cons l lanes ih =>
    cases h : p l with
    | false => simp [h, ih]
    | true => simp [h, ih, Nat.add_assoc]

/-- The lanes with a property counted. -/
theorem length_filter_lanes (lanes : List Nat) (p : Nat → Bool) :
    ((lanes.map fun l => (l, p l)).filter (·.2)).length = lanes.countP p := by
  rw [List.filter_map, List.length_map, List.countP_eq_length_filter]
  rfl

/-- R224: the class of a reduction names a register, a predicate or the flags. -/
theorem redxValue_eq (t : Thread) (a : BitVec 6) (cls : BitVec 2) : redxValue t a cls = match cls.toNat with
    | 0 => (t.rd a).toNat
    | 1 => (t.pred (a.setWidth 3)).toNat
    | _ => t.fl.toNat := by
  obtain rfl | rfl | rfl | rfl := minor_cases cls
  · rfl
  · unfold redxValue
    cases t.pred (a.setWidth 3) <;> rfl
  · rfl
  · rfl

/-- R223: the source lane of a shuffle by the mode and the distance its control value holds. -/
theorem shflLane_eq (b l : Nat) : shflLane b l = match b / 32 % 4 with
    | 0 => some (b % 32)
    | 1 => if l < b % 32 then none else some (l - b % 32)
    | 2 => if 31 < l + b % 32 then none else some (l + b % 32)
    | _ => some (l ^^^ b % 32) := by
  unfold shflLane
  rcases b / 32 % 4 with _ | _ | _ | _
  · rfl
  · exact (ite_not ..).symm.trans (if_congr Nat.not_le rfl rfl)
  · exact (ite_not ..).symm.trans (if_congr (by omega) rfl rfl)
  · rfl

section
variable (s : State) (tid : Nat) (g : Guard) (d : BitVec 6) (t : Thread)

theorem collectiveValue_vote (idx : BitVec 3) (flag : Bool) (kind : BitVec 4) (mask : Half) :
    collectiveValue s tid (.vote g d idx flag kind mask) t =
      voted d kind.toNat ((List.range 32).filter (takesPart tid mask)) (laneValue s tid false (voteValue · idx flag)) t := by
  have hyes : laneValue s tid false (voteValue · idx flag) = fun l => match lane s tid l with
      | some u => if flag then u.fl.getLsbD idx.toNat else u.pred idx
      | none => false := by
    funext l
    unfold laneValue
    cases lane s tid l <;> rfl
  rw [hyes]
  rfl

theorem collectiveResult_vote (idx : BitVec 3) (flag : Bool) (kind : BitVec 4) (mask : Half) :
    s.collectiveResult tid (.vote g d idx flag kind mask) t =
      voted d kind.toNat ((List.range 32).filter (takesPart tid mask)) (laneValue s tid false (voteValue · idx flag)) t := by
  have hyes : laneValue s tid false (voteValue · idx flag) = fun l => (lane s tid l).any fun u => voteValue u idx flag := by
    funext l
    unfold laneValue
    cases lane s tid l <;> rfl
  simp only [State.collectiveResult, collectiveMask, maskLanes_eq, List.map_map, Function.comp_def, State.laneMate_eq,
    List.any_map, List.all_map, foldl_laneBits, length_filter_lanes, Nat.zero_add, hyes]
  rfl

theorem collectiveValue_shfl (a b : BitVec 6) (mask : Half) :
    collectiveValue s tid (.shfl g d a b mask) t =
      shuffled d a mask (laneValue s tid 0 (·.rd a)) (shflLane (t.rd b).toNat (tid % 32)) t := by
  rw [shflLane_eq]
  rfl

theorem collectiveResult_shfl (a b : BitVec 6) (mask : Half) :
    s.collectiveResult tid (.shfl g d a b mask) t =
      shuffled d a mask (laneValue s tid 0 (·.rd a)) (shflLane (t.rd b).toNat (tid % 32)) t := by
  simp only [State.collectiveResult, collectiveMask, bitOf_toNat]
  cases shflLane (t.rd b).toNat (tid % 32) with
  | none => rfl
  | some l =>
    simp only [shuffled, laneValue, ← State.laneMate_eq]
    split
    · cases s.laneMate tid l <;> rfl
    · rfl

theorem collectiveValue_redx (a : BitVec 6) (cls : BitVec 2) (kind : BitVec 4) (mask : Half) :
    collectiveValue s tid (.redx g d a cls kind mask) t = t.wr d (BitVec.ofNat 64 (reduceTree (redxOp kind.toNat) 0
      (((List.range 32).filter (takesPart tid mask)).map (laneValue s tid 0 (reduced a cls kind))))) := by
  have hterm : laneValue s tid 0 (reduced a cls kind) = fun l => match lane s tid l with
      | none => 0
      | some u =>
        let v := match cls.toNat with
          | 0 => (u.rd a).toNat
          | 1 => (u.pred (a.setWidth 3)).toNat
          | _ => u.fl.toNat
        if 8 ≤ kind.toNat then v % 2 ^ 32 else v := by
    funext l
    simp only [← redxValue_eq, laneValue]
    cases lane s tid l <;> rfl
  rw [hterm]
  rfl

theorem collectiveResult_redx (a : BitVec 6) (cls : BitVec 2) (kind : BitVec 4) (mask : Half) :
    s.collectiveResult tid (.redx g d a cls kind mask) t = t.wr d (BitVec.ofNat 64 (reduceTree (redxOp kind.toNat) 0
      (((List.range 32).filter (takesPart tid mask)).map (laneValue s tid 0 (reduced a cls kind))))) := by
  have hterm : laneValue s tid 0 (reduced a cls kind) = fun l => match lane s tid l with
      | some u => if kind.toNat ≥ 8 then redxValue u a cls % 2 ^ 32 else redxValue u a cls
      | none => 0 := by
    funext l
    unfold laneValue
    cases lane s tid l <;> rfl
  simp only [State.collectiveResult, collectiveMask, maskLanes_eq, List.map_map, Function.comp_def, State.laneMate_eq, hterm]
    <;> rfl

end

/-- R222-R224: the result of a collective is the value over the lanes that take part. -/
theorem State.collectiveResult_eq (s : State) (tid : Nat) (i : Instr) (t : Thread) :
    s.collectiveResult tid i t = collectiveValue s tid i t := by
  cases i with
  | vote g d idx flag kind mask => exact (collectiveResult_vote ..).trans (collectiveValue_vote ..).symm
  | shfl g d a b mask => exact (collectiveResult_shfl ..).trans (collectiveValue_shfl ..).symm
  | redx g d a cls kind mask => exact (collectiveResult_redx ..).trans (collectiveValue_redx ..).symm
  | _ => rfl

/-! ## What a collective reads and leaves -/

/-- Two threads with the same registers, predicates and flags. -/
structure SameRegs (t u : Thread) : Prop where
  g : t.g = u.g
  q : t.q = u.q
  fl : t.fl = u.fl

namespace SameRegs
variable {t u : Thread} (h : SameRegs t u)
include h

theorem rd (r : BitVec 6) : t.rd r = u.rd r := by simp only [Thread.rd, h.g]
theorem pred (r : BitVec 3) : t.pred r = u.pred r := by simp only [Thread.pred, h.q]

theorem wr (d : BitVec 6) (v : Word) : SameRegs (t.wr d v) (u.wr d v) := by
  unfold Thread.wr
  split
  · exact h
  · exact ⟨congrArg (SMap.set · d.toNat v) h.g, h.q, h.fl⟩

theorem setPred (p : BitVec 3) (b : Bool) : SameRegs (t.setPred p b) (u.setPred p b) := by
  unfold Thread.setPred
  split
  · exact h
  · exact ⟨h.g, by simp only [h.q], h.fl⟩

theorem voteValue_eq (idx : BitVec 3) (flag : Bool) : voteValue t idx flag = voteValue u idx flag := by
  simp only [voteValue, h.pred, h.fl]

theorem reduced_eq (a : BitVec 6) (cls : BitVec 2) (kind : BitVec 4) : reduced a cls kind t = reduced a cls kind u := by
  simp only [reduced, redxValue, h.rd, h.pred, h.fl]

theorem voted (d : BitVec 6) (kind : Nat) (lanes : List Nat) (yes : Nat → Bool) :
    SameRegs (voted d kind lanes yes t) (voted d kind lanes yes u) := by
  unfold Machine.voted
  split
  · exact h.setPred _ _
  · exact h.setPred _ _
  · exact h.wr _ _
  · exact h.wr _ _

theorem shuffled (d a : BitVec 6) (mask : Half) (value : Nat → Word) (source : Option Nat) :
    SameRegs (shuffled d a mask value source t) (shuffled d a mask value source u) := by
  cases source with
  | none => simpa only [Machine.shuffled, h.rd] using h.wr d (u.rd a)
  | some l => exact h.wr _ _

end SameRegs

/-- Two states whose threads are live, in their groups and with their registers alike. -/
def SameLanes (s p : State) : Prop :=
  ∀ m, (s.thread m).live = (p.thread m).live ∧ (s.thread m).gid = (p.thread m).gid ∧ SameRegs (s.thread m) (p.thread m)

/-- What depends on a thread's registers alone is alike in the lanes of such states. -/
theorem SameLanes.laneValue_eq {β : Type} {s p : State} (h : SameLanes s p) (tid : Nat) (absent : β) {f : Thread → β}
    (hf : ∀ t u, SameRegs t u → f t = f u) : laneValue s tid absent f = laneValue p tid absent f := by
  funext l
  obtain ⟨hlive, hgid, hregs⟩ := h (tid / 32 * 32 + l)
  unfold laneValue lane
  rw [hlive, hgid, (h tid).2.1]
  split
  · exact hf _ _ hregs
  · rfl

/-- So is the value of a collective. -/
theorem SameLanes.collectiveValue {s p : State} (h : SameLanes s p) (tid : Nat) (i : Instr) {t u : Thread} (htu : SameRegs t u) :
    SameRegs (collectiveValue s tid i t) (collectiveValue p tid i u) := by
  cases i with
  | vote g d idx flag kind mask =>
    simp only [collectiveValue_vote, h.laneValue_eq tid false fun _ _ hr => hr.voteValue_eq idx flag]
    exact htu.voted _ _ _ _
  | shfl g d a b mask =>
    simp only [collectiveValue_shfl, h.laneValue_eq tid 0 fun _ _ hr => hr.rd a, htu.rd b]
    exact htu.shuffled _ _ _ _ _
  | redx g d a cls kind mask =>
    simp only [collectiveValue_redx, h.laneValue_eq tid 0 fun _ _ hr => hr.reduced_eq a cls kind]
    exact htu.wr _ _
  | _ => exact htu

/-- Two threads that wait and go on alike. -/
structure SameCourse (t u : Thread) : Prop where
  wait : t.wait = u.wait
  resume : t.resume = u.resume
  step : t.step = u.step
  prv : t.prv = u.prv

theorem sameCourse_wr (t : Thread) (d : BitVec 6) (v : Word) : SameCourse (t.wr d v) t := by
  unfold Thread.wr
  split <;> exact ⟨rfl, rfl, rfl, rfl⟩

theorem sameCourse_setPred (t : Thread) (p : BitVec 3) (b : Bool) : SameCourse (t.setPred p b) t := by
  unfold Thread.setPred
  split <;> exact ⟨rfl, rfl, rfl, rfl⟩

/-- A collective writes a register or a predicate of its thread. -/
theorem sameCourse_collectiveValue (s : State) (tid : Nat) (i : Instr) (t : Thread) :
    SameCourse (collectiveValue s tid i t) t := by
  cases i with
  | vote g d idx flag kind mask =>
    rw [collectiveValue_vote]
    unfold voted
    split
    · exact sameCourse_setPred _ _ _
    · exact sameCourse_setPred _ _ _
    · exact sameCourse_wr _ _ _
    · exact sameCourse_wr _ _ _
  | shfl g d a b mask =>
    rw [collectiveValue_shfl]
    unfold shuffled
    split <;> exact sameCourse_wr _ _ _
  | redx g d a cls kind mask =>
    rw [collectiveValue_redx]
    exact sameCourse_wr _ _ _
  | _ => exact ⟨rfl, rfl, rfl, rfl⟩

end Sys2Proof.Machine
end

section
/-! PROOFS, proof-core family: the release of a collective. O29 fails of a state whose map of threads lists a thread twice: the
collective then completes twice in it, the second time on its own result. In a map in canonical form, which every
operation keeps, each thread completes once: `collective_completes`. -/

namespace Sys2Proof.Machine

open Sys2Proof.Claims

/-! ## Threads that complete one after the other -/

/-- One thread's collective completed, on the registers as they stand in `s` (R217). -/
def State.collected (s r : State) (p : Nat × Instr) : State :=
  (r.setThread p.1 (s.collectiveResult p.1 p.2 (r.thread p.1))).wake p.1

/-- The collectives of a group that can complete. -/
def State.readyCollectives (s : State) (gid : Nat) : List (Nat × Instr) :=
  (s.members gid).filterMap fun m =>
    match (s.thread m).wait with
    | some (.collective i) => if s.collectiveReady m i then some (m, i) else none
    | _ => none

theorem State.settleCollectives_eq (s : State) (gid : Nat) :
    s.settleCollectives gid = (s.readyCollectives gid).foldl s.collected s := rfl

/-- A collective that can complete is one of its group's. -/
theorem State.mem_readyCollectives {s : State} {gid m : Nat} {i : Instr} (hmem : m ∈ s.members gid)
    (hwait : (s.thread m).wait = some (.collective i)) (hready : s.collectiveReady m i = true) :
    (m, i) ∈ s.readyCollectives gid :=
  List.mem_filterMap.2 ⟨m, hmem, by simp [hwait, hready]⟩

/-- In a canonical map each thread completes at most once. -/
theorem State.nodup_readyCollectives {s : State} (hwf : SMap.wf s.threads = true) (gid : Nat) :
    ((s.readyCollectives gid).map (·.1)).Nodup := by
  have hself : ∀ m p, (match (s.thread m).wait with
      | some (.collective i) => if s.collectiveReady m i then some (m, i) else none
      | _ => none) = some p → p.1 = m := fun m p h => by
    split at h
    · split at h <;> cases h
      rfl
    · cases h
  unfold State.readyCollectives
  rw [List.map_filterMap]
  refine (State.nodup_members hwf gid).filterMap fun m n k hm hn => ?_
  obtain ⟨p, hp, rfl⟩ := Option.map_eq_some_iff.1 hm
  obtain ⟨q, hq, hqp⟩ := Option.map_eq_some_iff.1 hn
  rw [← hself m p hp, ← hself n q hq, hqp]

/-- A thread's completion leaves the others as they were. -/
theorem State.thread_collected_ne (s r : State) {p : Nat × Instr} {k : Nat} (h : k ≠ p.1) :
    (s.collected r p).thread k = r.thread k :=
  ((State.complete_frame (r.setThread p.1 _) p.1 _).1 k h).trans (State.thread_setThread_ne r _ h)

/-- So do the completions of several. -/
theorem State.thread_foldl_collected_ne (s : State) {ps : List (Nat × Instr)} {k : Nat} (h : k ∉ ps.map (·.1)) (r : State) :
    (ps.foldl s.collected r).thread k = r.thread k := by
  induction ps generalizing r with
  | nil => rfl
  | cons p ps ih =>
    obtain ⟨hp, hps⟩ := not_or.1 (mt List.mem_cons.2 h)
    exact (ih hps _).trans (s.thread_collected_ne r hp)

/-- A thread that completes once completes from what it was at first. -/
theorem State.thread_foldl_collected (s : State) {ps : List (Nat × Instr)} {m : Nat} {i : Instr} (hnodup : (ps.map (·.1)).Nodup)
    (hmem : (m, i) ∈ ps) (r : State) :
    ∃ r', r'.thread m = r.thread m ∧ (ps.foldl s.collected r).thread m = (s.collected r' (m, i)).thread m := by
  induction ps generalizing r with
  | nil => cases hmem
  | cons p ps ih =>
    obtain ⟨hp, hps⟩ := List.nodup_cons.1 hnodup
    rcases List.mem_cons.1 hmem with rfl | hmem
    · exact ⟨r, rfl, s.thread_foldl_collected_ne hp _⟩
    · have hne : m ≠ p.1 := fun heq => hp (List.mem_map.2 ⟨_, hmem, heq⟩)
      obtain ⟨r', hr', heq⟩ := ih hps hmem (s.collected r p)
      exact ⟨r', hr'.trans (s.thread_collected_ne r hne), heq⟩

/-- A collective's completion in its thread, which is not single-stepped at level U (R217, 23 R383). -/
theorem State.thread_collected (s r : State) {m : Nat} {i : Instr} (hwait : (r.thread m).wait ≠ none)
    (hstep : (r.thread m).step = false ∨ (r.thread m).prv = true) :
    (s.collected r (m, i)).thread m =
      (collectiveValue s m i (r.thread m)).completing (r.thread m).resume r.cycle := by
  obtain ⟨hkeeps, hresume, hstep', hprv⟩ := sameCourse_collectiveValue s m i (r.thread m)
  have hset : (r.setThread m (collectiveValue s m i (r.thread m))).thread m = collectiveValue s m i (r.thread m) :=
    State.thread_setThread_same r m fun h => hwait (hkeeps.symm.trans (congrArg Thread.wait h))
  unfold State.collected State.wake
  rw [State.collectiveResult_eq, State.complete_plain, hset, hresume]
  · exact State.thread_setThread_completing _ m _ _ _
  · rw [hset, hstep', hprv]
    exact hstep.symm.imp (by simp) id

/-! ## What a group's arrival releases -/

/-- A group one of whose live threads waits at a collective, short of WDONE, releases the collectives that can complete and
nothing else. -/
theorem State.settleGroup_collective {s : State} {gid tid : Nat} {i : Instr} (hmem : tid ∈ s.members gid)
    (hwait : (s.thread tid).wait = some (.collective i)) (hwdone : (s.thread tid).wdone = false) :
    s.settleGroup gid = s.settleCollectives gid := by
  have hdivb : s.gathered gid Wait.isDivb = false := State.not_gathered hmem (by rw [hwait]; rfl)
  have hjoin : s.gathered gid (· == .join) = false := State.not_gathered hmem (by rw [hwait]; rfl)
  have hdflush : s.gathered gid (· == .dflush) = false := State.not_gathered hmem (by rw [hwait]; rfl)
  have hlast : ((s.members gid).all fun m => (s.thread m).wdone || (s.thread m).wait.any Wait.isWdone) = false :=
    List.all_eq_false.2 ⟨tid, hmem, by simp [hwait, hwdone, Wait.isWdone]⟩
  unfold State.settleGroup
  simp [hdivb, hjoin, hdflush, hlast]

/-- R216: a collective can complete once every other live thread its mask names stands at it. -/
theorem State.collectiveReady_of_lanes {s : State} {tid : Nat} {i : Instr} (hown : (s.thread tid).wait = some (.collective i))
    (h : ∀ l < 32, takesPart tid (BitVec.ofNat 32 (collectiveMask i)) l = true → l ≠ tid % 32 →
      ∀ u, lane s tid l = some u → u.wait = some (.collective i) ∧ u.pc = (s.thread tid).pc) :
    s.collectiveReady tid i = true := by
  refine List.all_eq_true.2 fun l hl => ?_
  obtain ⟨hlt, hpart⟩ := List.mem_filter.1 hl
  have hlt := List.mem_range.1 hlt
  have hstands : ∀ u, lane s tid l = some u → u.wait = some (.collective i) ∧ u.pc = (s.thread tid).pc := by
    by_cases hself : l = tid % 32
    · intro u hu
      have hm : tid / 32 * 32 + l = tid := by omega
      unfold lane at hu
      rw [hm] at hu
      split at hu <;> cases hu
      exact ⟨hown, rfl⟩
    · refine h l hlt ?_ hself
      have hbit : (BitVec.ofNat 32 (collectiveMask i)).getLsbD l = bitOf (collectiveMask i) l := by
        rw [BitVec.getLsbD_ofNat, Nat.testBit_eq_decide_div_mod_eq]
        simp [hlt, bitOf, beq_eq_decide]
      simpa only [takesPart, hbit] using hpart
  rw [← State.laneMate_eq] at hstands
  cases hmate : s.laneMate tid l with
  | none => rfl
  | some m =>
    obtain ⟨hwait, hpc⟩ := hstands (s.thread m) (by rw [hmate]; rfl)
    simp [hwait, hpc, Wait.isCollective]

/-- A thread's wait: its own course in the map of threads, the others as they were. -/
theorem State.thread_waits (s : State) (tid n : Nat) (w : Wait) : ∃ parked begun entered kept,
    (s.waits tid n w).thread tid = { s.thread tid with
      wait := some w, resume := s.after tid n, pfx := []
      parkedAt := parked, waited := begun, parkedIn := entered, hadWaited := kept } := by
  obtain ⟨parked, begun, entered, kept, hthreads⟩ := s.threads_waits tid n w
  refine ⟨parked, begun, entered, kept, ?_⟩
  unfold State.thread
  rw [hthreads]
  exact SMap.get_set_of_ne_default _ _ fun h => Option.some_ne_none w (congrArg Thread.wait h)

theorem State.thread_waits_ne (s : State) {tid m : Nat} (n : Nat) (w : Wait) (h : m ≠ tid) :
    (s.waits tid n w).thread m = s.thread m := by
  obtain ⟨_, _, _, _, hthreads⟩ := s.threads_waits tid n w
  unfold State.thread
  rw [hthreads]
  exact SMap.get_set_ne _ _ h

/-- A wait changes no thread's registers, life or group. -/
theorem State.sameLanes_waits (s : State) (tid n : Nat) (w : Wait) : SameLanes (s.waits tid n w) s := fun m => by
  by_cases hm : m = tid
  · subst hm
    obtain ⟨_, _, _, _, hself⟩ := s.thread_waits m n w
    rw [hself]
    exact ⟨rfl, rfl, rfl, rfl, rfl⟩
  · rw [s.thread_waits_ne n w hm]
    exact ⟨rfl, rfl, rfl, rfl, rfl⟩

/-- The lanes other than the waiting thread's own see what they saw. -/
theorem State.lane_waits_ne (s : State) {tid l : Nat} (n : Nat) (w : Wait) (h : l ≠ tid % 32) :
    lane (s.waits tid n w) tid l = lane s tid l := by
  have hm : tid / 32 * 32 + l ≠ tid := by omega
  unfold lane
  rw [s.thread_waits_ne n w hm, (s.sameLanes_waits tid n w tid).2.1]

/-- R216, R221-R224: what O29 says, in a canonical map of threads. -/
theorem State.collective_completes {i : Instr} {x : Spec} {s : State} {tid : Nat} (hwf : SMap.wf s.threads = true)
    (hform : gatherForm (s.thread tid) i = some (2, x, .collective i)) (hwell : wellFormed i = true) (hable : Able s tid x)
    (halone : Alone s tid) (hgranted : (s.thread tid).granted = false) (hwdone : (s.thread tid).wdone = false)
    (hstep : (s.thread tid).step = false ∨ (s.thread tid).prv = true)
    (hlanes : ∀ l < 32, takesPart tid (BitVec.ofNat 32 (collectiveMask i)) l = true → l ≠ tid % 32 →
      ∀ u, lane s tid l = some u → u.wait = some (.collective i) ∧ u.pc = (s.thread tid).pc) :
    ∃ u, exec i s = .next u ∧ (u.thread tid).wait = none ∧ (u.thread tid).pc = s.after tid 2 ∧
      (u.thread tid).g = (collectiveValue s tid i (s.thread tid)).g ∧
      (u.thread tid).q = (collectiveValue s tid i (s.thread tid)).q := by
  obtain ⟨_, _, _, _, hself⟩ := s.thread_waits tid 2 (.collective i)
  have hsame : SameLanes (s.waits tid 2 (.collective i)) s := s.sameLanes_waits tid 2 _
  have hvalue := hsame.collectiveValue tid i (hsame tid).2.2
  have hwfp : SMap.wf (s.waits tid 2 (.collective i)).threads = true := by
    obtain ⟨_, _, _, _, hthreads⟩ := s.threads_waits tid 2 (.collective i)
    rw [hthreads]
    exact SMap.wf_set hwf _ _
  have hlive : (s.thread tid).live = true := by
    have hmay := hable.may
    simp only [State.mayIssue, Bool.and_eq_true] at hmay
    exact hmay.1.1
  have hexec : exec i s = .next ((s.waits tid 2 (.collective i)).settleGroup (s.thread tid).gid) :=
    gatheringForms i 2 x _ s tid hform hwell hable halone hgranted
  generalize hp : s.waits tid 2 (.collective i) = p at *
  have hwait : (p.thread tid).wait = some (.collective i) := by rw [hself]
  have hpc : (p.thread tid).pc = (s.thread tid).pc := by rw [hself]
  have hgid : (p.thread tid).gid = (s.thread tid).gid := (hsame tid).2.1
  have hmem : tid ∈ p.members (s.thread tid).gid := by
    rw [← hgid]
    exact State.mem_members_of_live ((hsame tid).1.trans hlive)
  have hready : p.collectiveReady tid i = true := State.collectiveReady_of_lanes hwait fun l hl hpart hne u hu => by
    rw [← hp, s.lane_waits_ne 2 _ hne] at hu
    rw [hpc]
    exact hlanes l hl hpart hne u hu
  obtain ⟨r, hr, hdone⟩ := p.thread_foldl_collected (State.nodup_readyCollectives hwfp _)
    (State.mem_readyCollectives hmem hwait hready) p
  rw [State.thread_collected p r (by rw [hr, hwait]; exact Option.some_ne_none _) (by rw [hr, hself]; exact hstep), hr] at hdone
  refine ⟨_, hexec, ?_⟩
  rw [State.settleGroup_collective hmem hwait (by rw [hself]; exact hwdone), State.settleCollectives_eq, hdone]
  refine ⟨rfl, ?_, hvalue.g, hvalue.q⟩
  rw [hself]
  rfl

end Sys2Proof.Machine

namespace Sys2Proof.Claims

open Sys2Proof.Machine

/-- A shuffle that gives g1 the g2 of the lane that g1 names; its mask names lane 0 alone. -/
def shuffle : Instr := .shfl always 1 2 1 1

/-- Thread 0, with 5 in g2 and 0 in g1, comes to the shuffle. The map lists it twice. -/
def doubledShuffle : State := { (default : State) with
  cur := .thread 0
  threads := [(0, { (default : Thread) with live := true, g := [(2, 5)] }), (0, { (default : Thread) with live := true })] }

/-- The first completion gives g1 the 5 of lane 0, so the second shuffles from lane 5, which the mask does not name. -/
theorem doubledShuffle_clears : (match exec shuffle doubledShuffle with
    | .next u => (u.thread 0).g
    | _ => default) = [(2, 5)] := by decide

/-- Its value over the lanes that take part is lane 0's. -/
theorem doubledShuffle_value : (collectiveValue doubledShuffle 0 shuffle (doubledShuffle.thread 0)).g = [(1, 5), (2, 5)] := by
  decide

/-- Refutes O29: where the map lists a thread twice its collective completes twice, the second time on its own result. The
statement asks nothing of the map; see `State.collective_completes`. -/
theorem not_collectiveResults : ¬ Obligations.CollectiveResults := by
  unfold Obligations.CollectiveResults
  intro h
  have hable : Able doubledShuffle 0 { guard := some always, kind := .proof, reads := [2, 1], writes := [1] } :=
    able_of_canExecute (by decide)
  have halone : ∀ l < 32, takesPart 0 (BitVec.ofNat 32 (collectiveMask shuffle)) l = true → ¬ l ≠ 0 % 32 := by decide
  obtain ⟨u, hexec, _, _, hg, _⟩ := h shuffle _ doubledShuffle 0 rfl (by decide) hable (.inl (by decide)) (by decide)
    (by decide) (.inl (by decide)) fun l hl hpart hne => absurd hne (halone l hl hpart)
  have hclears := doubledShuffle_clears
  rw [hexec] at hclears
  exact absurd ((hclears.symm.trans hg).trans doubledShuffle_value) (by decide)

end Sys2Proof.Claims
end

section
/-! PROOFS, engine family: the control core's hold on its strands. O17 and O18 run the bodies of their instructions from four
facts: a field of a layout register is put in place by masks as by arithmetic; a thread whose earlier stores are performed
passes a release; RDV's mask names the engines one above its bits; and an image that can be read is what its
instruction goes on with. -/

namespace Sys2Proof.Machine

open Sys2Proof.Claims

/-! ## Fields of a layout register -/

/-- R266: the fields lie within a layout register. -/
theorem layoutSpan_le {f : BitVec 6} {lo w : Nat} (h : layoutSpan f = some (lo, w)) : lo + w ≤ 128 := by
  have hall : ∀ f : BitVec 6, ∀ p ∈ layoutSpan f, p.1 + p.2 ≤ 128 := by decide
  exact hall f _ h

/-- A number with a field replaced is what lies above the field, the value, and what lies below. -/
theorem putField_eq (x lo w v : Nat) :
    putField x lo w v = 2 ^ lo * (2 ^ w * (x / 2 ^ (lo + w)) + v) + x % 2 ^ lo := by
  have hsplit : x = 2 ^ lo * (2 ^ w * (x / 2 ^ (lo + w)) + bitsOf x lo w) + x % 2 ^ lo := by
    rw [bitsOf, Nat.pow_add, ← Nat.div_div_eq_div_mul, Nat.div_add_mod, Nat.div_add_mod]
  unfold putField
  generalize x / 2 ^ (lo + w) = high at hsplit ⊢
  generalize bitsOf x lo w = mid at hsplit ⊢
  generalize x % 2 ^ lo = low at hsplit ⊢
  simp only [Nat.mul_add, Nat.mul_comm _ (2 ^ lo)] at hsplit ⊢
  omega

/-- The bits of a number with a field replaced. -/
theorem testBit_putField (x lo w : Nat) {v : Nat} (hv : v < 2 ^ w) (i : Nat) :
    (putField x lo w v).testBit i = if i < lo then x.testBit i else if i < lo + w then v.testBit (i - lo) else x.testBit i := by
  rw [putField_eq, Nat.testBit_two_pow_mul_add _ (Nat.mod_lt _ (Nat.two_pow_pos lo))]
  split
  · next hlow => simp [hlow]
  · next hlow =>
    rw [Nat.testBit_two_pow_mul_add _ hv]
    by_cases hmid : i < lo + w
    · rw [if_pos (by omega), if_pos hmid]
    · rw [if_neg (by omega), if_neg hmid, Nat.testBit_div_two_pow]
      congr 1
      omega

/-- R266: a field put in place by arithmetic is the field masked out and the value laid in. -/
theorem ofNat_putField (x : BitVec 128) {lo w : Nat} (v : Word) (hv : v.toNat < 2 ^ w) (hfits : lo + w ≤ 128) :
    BitVec.ofNat 128 (putField x.toNat lo w v.toNat) =
      (x &&& ~~~(BitVec.ofNat 128 (2 ^ w - 1) <<< lo)) ||| (v.setWidth 128 <<< lo) := by
  refine BitVec.eq_of_getLsbD_eq fun i hi => ?_
  simp only [BitVec.getLsbD_ofNat, testBit_putField _ _ _ hv, BitVec.getLsbD_or, BitVec.getLsbD_and, BitVec.getLsbD_not,
    BitVec.getLsbD_shiftLeft, BitVec.getLsbD_setWidth, Nat.testBit_two_pow_sub_one, BitVec.testBit_toNat, hi, decide_true,
    Bool.true_and]
  by_cases hlow : i < lo
  · simp [hlow]
  · by_cases hmid : i < lo + w
    · have hpos : i - lo < w := by omega
      have hpos' : i - lo < 128 := by omega
      simp [hlow, hmid, hpos, hpos']
    · have hpos : ¬ i - lo < w := by omega
      have hzero : v.getLsbD (i - lo) = false := by
        rw [← BitVec.testBit_toNat]
        exact Nat.testBit_lt_two_pow (hv.trans_le (Nat.pow_le_pow_right (by decide) (by omega)))
      simp [hlow, hmid, hpos, hzero]

/-! ## Releases -/

/-- R103: a thread none of whose stores awaits an answer passes a release. -/
theorem Cx.release_performed {c : Cx} {s : State} (h : AllPerformed s c.tid) (rel : Bool) (k : State → Out) :
    c.release rel k s = k s := by
  have howes : s.owes c.tid = false := List.any_eq_false.2 fun p hp => by simpa using h p hp
  exact if_neg (by simp [howes])

/-! ## Token masks -/

/-- R248: RDV's mask names the engines from E1 on; each of them has its token. -/
theorem Tile.tokensReady_rdv {t : Tile} {mask : BitVec 9}
    (h : ∀ k < 9, mask.getLsbD k = true → 0 < t.tokenCount (k + 1) 0) : t.tokensReady (mask.toNat * 2) 0 = true := by
  refine List.all_eq_true.2 fun i hi => ?_
  obtain ⟨hrange, hbit⟩ := List.mem_filter.1 hi
  have hlt := List.mem_range.1 hrange
  rcases i with _ | k
  · simp [bitOf] at hbit
  · have hhalf : mask.toNat * 2 / 2 ^ (k + 1) = mask.toNat / 2 ^ k := by
      rw [Nat.pow_succ, Nat.mul_div_mul_right _ _ (by decide)]
    have hmask : mask.getLsbD k = true := by rwa [bitOf, hhalf, ← bitOf, bitOf_toNat] at hbit
    exact decide_eq_true (h k (by omega) hmask)

/-! ## Images -/

/-- R326: bytes that can be read are what the instruction goes on with. -/
theorem Cx.readThen_ok {c : Cx} {s r : State} {va n : Nat} {bs : List Byte} (h : s.readPlain c.tid va true n = .ok r bs)
    (k : List Byte → State → Out) : c.readThen va n k s = k bs r := by
  unfold Cx.readThen
  rw [h]

/-- R324, R326: a legal image goes into its slot, where no command is bound to the slot and the store has room. -/
theorem Cx.loadPattern_installs {c : Cx} {k : Nat} {img : List Byte} {s : State} (hlegal : patCheck img = none)
    (hfree : s.slotBound (unitOf c.tid) k = false)
    (hroom : ((s.group c.t.gid).patterns.get k).valid = true ∨ (s.group c.t.gid).unit < 96 ∨
      (s.storeEntries (s.group c.t.gid).unit).length < 64) :
    c.loadPattern k img s = c.done (s.setSlot c.t.gid k ⟨true, img, s.cycle, s.cycle, false⟩) := by
  have hinstall : s.installPattern c.t.gid k img = some (s.setSlot c.t.gid k ⟨true, img, s.cycle, s.cycle, false⟩) := if_pos hroom
  unfold Cx.loadPattern
  simp only [hlegal, Cx.stuckSlot, hfree, Bool.and_false, Bool.false_eq_true, if_false, hinstall]

end Sys2Proof.Machine

namespace Sys2Proof.Claims

open Sys2Proof.Machine

/-- LSET of a value that fits its field puts it there (R266). -/
theorem lset_completes {s : State} {tid : Nat} {g : Guard} {l : BitVec 4} {a f : BitVec 6} {e : Effect}
    (he : strandEffect s tid (.lset g l a f) = some e) (hable : Able s tid e.spec) (hneeds : e.needs) :
    exec (.lset g l a f) s = .next (e.state.complete tid e.next (!(s.thread tid).prv)) := by
  simp only [strandEffect] at he
  split at he
  · cases he
  · next lo w hspan =>
    obtain rfl := Option.some.inj he
    have hfits : ((s.thread tid).rd a).toNat < 2 ^ w := hneeds
    change execLset g l a f s = _
    unfold execLset
    simp only [← layoutSpan_eq, hspan]
    refine (coreInstr_able hable (.lset g l a f) _).trans ((if_neg (Nat.not_le.2 hfits)).trans ?_)
    rw [State.cx_t, ofNat_putField _ _ hfits (layoutSpan_le hspan)]
    rfl

/-- LGET gives a field (R266). -/
theorem lget_completes {s : State} {tid : Nat} {g : Guard} {d : BitVec 6} {l : BitVec 4} {f : BitVec 6} {e : Effect}
    (he : strandEffect s tid (.lget g d l f) = some e) (hable : Able s tid e.spec) :
    exec (.lget g d l f) s = .next (e.state.complete tid e.next (!(s.thread tid).prv)) := by
  simp only [strandEffect] at he
  split at he
  · cases he
  · next hspan =>
    obtain rfl := Option.some.inj he
    change execLget g d l f s = _
    unfold execLget
    simp only [← layoutSpan_eq, hspan]
    exact coreInstr_able hable (.lget g d l f) _

/-- The engines FORK may name (R123, R246). -/
theorem engine_of_wellFormed {n : BitVec 4} {others : Bool}
    (h : (others && decide (n.toNat ≥ 1) && decide (n.toNat ≤ 9)) = true) : ¬ (n.toNat = 0 ∨ n.toNat > 9) := by
  simp only [Bool.and_eq_true, decide_eq_true_eq] at h
  omega

/-- FORK of an idle engine starts its strand (R246). -/
theorem fork_completes {s : State} {tid : Nat} {g : Guard} {a : BitVec 6} {n : BitVec 4} {e : Effect}
    (he : strandEffect s tid (.fork g a n) = some e) (hwell : wellFormed (.fork g a n) = true) (hable : Able s tid e.spec)
    (hneeds : e.needs) : exec (.fork g a n) s = .next (e.state.complete tid e.next (!(s.thread tid).prv)) := by
  obtain rfl := Option.some.inj he
  obtain ⟨halign, hhoop, hidle, hperformed⟩ := hneeds
  change execFork g a n s = _
  calc execFork g a n s
    _ = _ := coreInstr_able hable (.fork g a n) _
    _ = _ := if_neg (engine_of_wellFormed hwell)
    _ = _ := if_neg (not_not.2 halign)
    _ = _ := if_neg (fun ⟨hle, habsent⟩ => by simp [hhoop hle] at habsent)
    _ = _ := if_neg (by simp [hidle])
    _ = _ := Cx.release_performed hperformed true _

/-- FORK of a token pushes it on a queue with room (R247). -/
theorem forkToken_completes {s : State} {tid : Nat} {g : Guard} {n : BitVec 4} {e : Effect}
    (he : strandEffect s tid (.forkToken g n) = some e) (hwell : wellFormed (.forkToken g n) = true) (hable : Able s tid e.spec)
    (hneeds : e.needs) : exec (.forkToken g n) s = .next (e.state.complete tid e.next (!(s.thread tid).prv)) := by
  obtain rfl := Option.some.inj he
  obtain ⟨hroom, hperformed⟩ := hneeds
  change execForkToken g n s = _
  calc execForkToken g n s
    _ = _ := coreInstr_able hable (.forkToken g n) _
    _ = _ := if_neg (engine_of_wellFormed hwell)
    _ = _ := if_neg (Nat.not_le.2 hroom)
    _ = _ := Cx.release_performed hperformed true _

/-- Settles O17: the bodies of the seven instructions. -/
theorem strandControlResults : Obligations.StrandControlResults := by
  intro s tid i e he hwell hable hneeds
  cases i with
  | lld g l a b =>
    obtain rfl := Option.some.inj he
    change execLld g l a b s = _
    unfold execLld layoutForm
    exact coreInstr_able hable (.lld g l a b) _
  | lset g l a f => exact lset_completes he hable hneeds
  | lget g d l f => exact lget_completes he hable
  | lmov g l m =>
    obtain rfl := Option.some.inj he
    change execLmov g l m s = _
    unfold execLmov layoutForm
    exact coreInstr_able hable (.lmov g l m) _
  | fork g a n => exact fork_completes he hwell hable hneeds
  | forkToken g n => exact forkToken_completes he hwell hable hneeds
  | rdv g mask =>
    obtain rfl := Option.some.inj he
    change execRdv g mask s = _
    exact (coreInstr_able hable (.rdv g mask) _).trans (if_pos (Tile.tokensReady_rdv hneeds))
  | _ => cases he

/-- Settles O18: each body goes on with the image it reads. -/
theorem imageLoads : Obligations.ImageLoads := by
  refine ⟨fun g k a e s r tid bs _ hable hlow hhigh halign hidle hread => ?_,
    fun g a k s r q tid head rest _ hable hwait halign hhead hrest hlegal hfree hroom => ?_⟩
  · change execTmld g k a e s = _
    calc execTmld g k a e s
      _ = _ := if_neg (by omega)
      _ = _ := coreInstr_able hable (.tmld g k a e) _
      _ = _ := if_neg fun h => h.2 halign
      _ = _ := if_neg (by simp [hidle])
      _ = _ := Cx.readThen_ok hread _
  · intro grp
    change execPatld g a k s = _
    refine (coreInstr_able hable (.patld g a k) _).trans ?_
    simp only [State.cx_t, hwait]
    exact (if_neg (not_not.2 halign)).trans ((Cx.readThen_ok hhead _).trans ((Cx.readThen_ok hrest _).trans
      (Cx.loadPattern_installs hlegal hfree hroom)))

end Sys2Proof.Claims
end

section
/-! PROOFS, engine family: strand words. O40: each word runs in the engine that fetches it. -/

namespace Sys2Proof.Machine

open Sys2Proof.Claims

section
variable {s : State} {tile e : Nat} {st : Strand}

/-- R257: SLOOP outside a loop, with a body of whole stages, is taken. -/
theorem execSloop_outside {b : BitVec 6} {k : BitVec 3} {n : BitVec 13} (h : Fetching s tile e st) (hloop : st.loop = none)
    (hb : b ≠ 0) (hdiv : b.toNat % (k.toNat + 1) = 0) :
    let l : StrandLoop := ⟨st.pc, b.toNat, k.toNat + 1, n.toNat, 0, k.toNat, 0⟩
    execSloop b k n s = .next (s.setEngine tile e { s.engine tile e with
      strand := some (if n = 0 then { st with pc := l.out } else { st with pc := l.word k.toNat 0, loop := some l }) }) := by
  unfold execSloop
  rw [patchWord_fetching h]
  exact if_neg (by simpa [hloop, hdiv] using hb)

/-- R256: IDLE_END finds no IDLE to end in an engine that fetches. -/
theorem onIdleEnd_fetching (h : Fetching s tile e st) : onIdleEnd s = none := by
  obtain ⟨hcur, hstrand, _, hidle, _⟩ := h
  simp [onIdleEnd, hcur, hstrand, hidle]

end

end Sys2Proof.Machine

namespace Sys2Proof.Claims

open Sys2Proof.Machine

/-- Settles O40: the bodies of the three words, and IDLE_END where no IDLE holds the sequencer. -/
theorem strandWordResults : Obligations.StrandWordResults := by
  intro s tile e st hfetch onEngine
  refine ⟨fun v => ?_, fun b k n hloop hb hdiv => ⟨fun hn => ?_, fun hn => ?_⟩, fun hloop => ?_, ?_⟩
  · change execIdle v s = _
    exact patchWord_fetching hfetch _
  · change execSloop b k n s = _
    rw [execSloop_outside hfetch hloop hb hdiv, if_pos hn]
    rfl
  · change execSloop b k n s = _
    rw [execSloop_outside hfetch hloop hb hdiv, if_neg hn]
    rfl
  · change execSdone s = _
    exact (patchWord_fetching hfetch _).trans (if_neg (by simp [hloop]))
  · change execIdleEnd s = _
    exact happens_none (onIdleEnd_fetching hfetch)

end Sys2Proof.Claims
end

section
/-! PROOFS, engine family: strand loops. O41: each step of a strand in a loop leaves one word fewer to execute, and the step from
the last word leaves the loop. -/

namespace Sys2Proof.Machine

/-- A loop whose strand stands at a word of its body, cut into stages of as many words (R257). -/
structure StrandLoop.Runs (l : StrandLoop) : Prop where
  stages : 0 < l.stages
  body : l.stages * (l.body / l.stages) = l.body
  pos : l.pos < l.body / l.stages

/-- The words a loop still executes, the one it stands at included: of its stage, of the stages after it in its round, and of the
rounds after that (R257). -/
def StrandLoop.left (l : StrandLoop) : Nat :=
  (l.body / l.stages - l.pos) + l.j * (l.body / l.stages) + (l.trips + l.stages - 1 - (l.t + 1)) * l.body

/-- R257: a step in a loop leaves one word fewer, and the step from the last word goes on after the body. -/
theorem Strand.advance_loop {st : Strand} {l : StrandLoop} (hloop : st.loop = some l) (hruns : l.Runs) :
    (l.left = 1 ∧ st.advance = { st with pc := l.out, loop := none }) ∨
    ∃ pc l', st.advance = { st with pc := pc, loop := some l' } ∧ l'.Runs ∧ l.left = l'.left + 1 ∧ l'.out = l.out := by
  obtain ⟨hstages, hbody, hpos⟩ := hruns
  unfold Strand.advance
  simp only [hloop]
  split
  · next hnext =>
    refine .inr ⟨_, _, rfl, ⟨hstages, hbody, hnext⟩, ?_, rfl⟩
    simp only [StrandLoop.left]
    omega
  · next hend =>
    have hlast : l.body / l.stages - l.pos = 1 := by omega
    split
    · next hstage =>
      refine .inr ⟨_, _, rfl, ⟨hstages, hbody, Nat.zero_lt_of_lt hpos⟩, ?_, rfl⟩
      obtain ⟨j, hj⟩ := Nat.exists_eq_add_one.2 hstage
      simp only [StrandLoop.left, hlast, hj, Nat.add_sub_cancel, Nat.succ_mul]
      omega
    · next hstage =>
      have hj : l.j = 0 := Nat.eq_zero_of_not_pos hstage
      split
      · next hround =>
        refine .inr ⟨_, _, rfl, ⟨hstages, hbody, Nat.zero_lt_of_lt hpos⟩, ?_, rfl⟩
        obtain ⟨r, hr⟩ : ∃ r, l.trips + l.stages - 1 - (l.t + 1) = r + 1 := Nat.exists_eq_add_one.2 (by omega)
        have hr' : l.trips + l.stages - 1 - (l.t + 1 + 1) = r := by omega
        have hbodies : l.body / l.stages + (l.stages - 1) * (l.body / l.stages) = l.body := by
          rw [Nat.add_comm, ← Nat.succ_mul, Nat.succ_eq_add_one, Nat.sub_add_cancel hstages, hbody]
        simp only [StrandLoop.left, hlast, hj, hr, hr', Nat.zero_mul, Nat.succ_mul]
        omega
      · next hround =>
        have hr : l.trips + l.stages - 1 - (l.t + 1) = 0 := by omega
        exact .inl ⟨by simp only [StrandLoop.left, hlast, hj, hr, Nat.zero_mul], rfl⟩

/-- R257: a strand in a loop goes on after its body once it has executed the words left. -/
theorem Strand.iterate_advance_left {n : Nat} {st : Strand} {l : StrandLoop} (hloop : st.loop = some l) (hruns : l.Runs)
    (hleft : l.left = n) : Nat.iterate Strand.advance n st = { st with pc := l.out, loop := none } := by
  induction n generalizing st l with
  | zero =>
    have hpos := hruns.pos
    unfold StrandLoop.left at hleft
    omega
  | succ n ih =>
    rw [Function.iterate_succ_apply]
    obtain ⟨hone, hadvance⟩ | ⟨pc, l', hadvance, hruns', hless, hout⟩ := Strand.advance_loop hloop hruns
    · obtain rfl : n = 0 := by omega
      exact hadvance
    · rw [hadvance, ih rfl hruns' (by omega), hout]

/-- The words of a loop of `n` trips at its first word: `n + m - 1` rounds of its body. -/
theorem StrandLoop.left_start {a : Word} {b m n : Nat} (hstages : 0 < m) (hbody : m * (b / m) = b) (htrips : 0 < n) :
    (⟨a, b, m, n, 0, m - 1, 0⟩ : StrandLoop).left = b * (n + m - 1) := by
  obtain ⟨m, rfl⟩ := Nat.exists_eq_add_one.2 hstages
  obtain ⟨n, rfl⟩ := Nat.exists_eq_add_one.2 htrips
  calc (b / (m + 1) - 0) + m * (b / (m + 1)) + (n + 1 + (m + 1) - 1 - (0 + 1)) * b
    _ = (m + 1) * (b / (m + 1)) + (n + m) * b := by
      rw [show n + 1 + (m + 1) - 1 - (0 + 1) = n + m by omega, Nat.succ_mul, Nat.sub_zero, Nat.add_comm (b / (m + 1))]
    _ = b * (n + 1 + (m + 1) - 1) := by
      rw [hbody, show n + 1 + (m + 1) - 1 = n + m + 1 by omega, Nat.mul_succ, Nat.mul_comm b, Nat.add_comm]

end Sys2Proof.Machine

namespace Sys2Proof.Claims

open Sys2Proof.Machine

/-- Settles O41: the words left at the first word are those of all the rounds. -/
theorem loopRunsThrough : Obligations.LoopRunsThrough := by
  intro st a b m n hb hm hdiv hn l
  have hbody : m * (b / m) = b := Nat.mul_div_cancel' (Nat.dvd_of_mod_eq_zero hdiv)
  have hruns : l.Runs := ⟨hm, hbody, Nat.pos_of_mul_pos_left (hbody.symm ▸ hb)⟩
  exact Strand.iterate_advance_left rfl hruns (StrandLoop.left_start hm hbody hn)

end Sys2Proof.Claims
end

section
/-! PROOFS, engine family: element-wise commands. O43: every row of the table describes the work of its opcode on one element,
and the work on a vector is that on each of its elements. -/

namespace Sys2Proof.Machine

open Sys2Proof.Claims

/-! ## Template opcodes -/

/-- What the machine does for a template opcode. -/
def templateOp (i : Instr) : Option EngOp :=
  match i with
  | .vadd => some opVadd
  | .vsub => some opVsub
  | .vmul => some opVmul
  | .vfma => some opVfma
  | .vmin => some opVmin
  | .vmax => some opVmax
  | .vabs => some opVabs
  | .vcmp => some opVcmp
  | .vsel => some opVsel
  | .vlog => some opVlog
  | .vshf => some opVshf
  | .vidle => some opVidle
  | .vxop => some opVxop
  | .vexp2 => some opVexp2
  | .vlog2 => some opVlog2
  | .vrcp => some opVrcp
  | .vrsq => some opVrsq
  | .vsqrt => some opVsqrt
  | .vcvt => some opVcvt
  | .vpackmx => some opVpackmx
  | .vunpk => some opVunpk
  | .vscale => some opVscale
  | .vsrnd => some opVsrnd
  | .vred => some opVred
  | .vscan => some opVscan
  | .vperm => some opVperm
  | .vbcast => some opVbcast
  | .vtrn => some opVtrn
  | .cpy => some (copyOp 0x01)
  | .gath => some (copyOp 0x02)
  | .scat => some (copyOp 0x03)
  | .mcst => some (copyOp 0x04)
  | .halo => some (copyOp 0x05)
  | .coll => some opColl
  | .dpos => some (copyOp 0x07)
  | .wld => some opWld
  | .mma => some opMma
  | .mmw => some opMmw
  | .acrd => some opAcrd
  | .acz => some opAcz
  | _ => none

/-- A template opcode executed is a turn of its engine with it. -/
theorem exec_of_templateOp {i : Instr} {op : EngOp} (h : templateOp i = some op) (s : State) : exec i s = op.exec s := by
  cases i with
  | vadd | vsub | vmul | vfma | vmin | vmax | vabs | vcmp | vsel | vlog | vshf | vidle | vxop | vexp2 | vlog2 | vrcp | vrsq
  | vsqrt | vcvt | vpackmx | vunpk | vscale | vsrnd | vred | vscan | vperm | vbcast | vtrn | cpy | gath | scat | mcst | halo
  | coll | dpos | wld | mma | mmw | acrd | acz =>
    cases h
    rfl
  | _ => cases h

/-! ## One element -/

/-- Every format has bits (Table 3.1). -/
theorem fmtBits_ne_zero (f : Nat) : fmtBits f ≠ 0 := by
  unfold fmtBits
  split <;> decide

/-- An element-wise opcode of the machine is what a row of the table says of a command `c`: it reads operands of the row's
widths, and gives the row's result, where an operand of no bits is 0. -/
structure MatchesRow (c : Command) (w : Nat × Nat × Nat) (f : Nat → Nat → Nat → Nat → Nat) (bits : Command → Nat × Nat × Nat)
    (g : Command → Nat → Nat → Nat → Nat → Nat) : Prop where
  widths : bits c = w
  first : w.1 ≠ 0
  value : ∀ n a b x, g c n a (if w.2.1 = 0 then 0 else b) (if w.2.2 = 0 then 0 else x) = f n a b x

section
variable {c : Command} {f : Nat → Nat → Nat → Nat → Nat} {g : Command → Nat → Nat → Nat → Nat → Nat}

/-- A row whose operands all have the source format. -/
theorem matchesRow_plain (h : ∀ n a b x, g c n a b x = f n a b x) :
    MatchesRow c (fmtBits c.fmt, fmtBits c.fmt, fmtBits c.fmt) f plainBits g :=
  ⟨rfl, fmtBits_ne_zero _, fun n a b x => by simpa only [if_neg (fmtBits_ne_zero _)] using h n a b x⟩

/-- R270: the lesser of two elements. -/
theorem minMaxElem_false (fmt a b : Nat) : minMaxElem false fmt a b = match floatOf fmt with
    | some f => (minMaxF f false false a b).bits
    | none => if intValue fmt a ≤ intValue fmt b then a else b := by
  unfold minMaxElem
  cases floatOf fmt with
  | some f => rfl
  | none => simp

/-- R270: the greater of two elements. -/
theorem minMaxElem_true (fmt a b : Nat) : minMaxElem true fmt a b = match floatOf fmt with
    | some f => (minMaxF f false true a b).bits
    | none => if intValue fmt a ≤ intValue fmt b then b else a := by
  unfold minMaxElem
  cases floatOf fmt with
  | some f => rfl
  | none => simp [-not_le, ← ite_not (_ ≤ _)]

/-- A field of one bit is that bit. -/
theorem bitsOf_one (x i : Nat) : bitsOf x i 1 = (x.testBit i).toNat := (Nat.toNat_testBit x i).symm

theorem bitOf_eq_testBit (x i : Nat) : bitOf x i = x.testBit i := Nat.testBit_eq_decide_div_mod_eq.symm

/-- Every row of the table is that of the opcode's meaning. -/
theorem templateOp_of_elementRow {i : Instr} {cls opc : Nat} {w : Nat × Nat × Nat}
    (h : elementRow i c = some (cls, opc, w, f)) :
    ∃ bits g, templateOp i = some (elemOp cls opc bits g) ∧ MatchesRow c w f bits g := by
  cases i with
  | vadd | vsub | vmul | vfma | vcmp | vshf | vexp2 | vlog2 | vrcp | vrsq | vsqrt | vcvt =>
    cases h
    exact ⟨_, _, rfl, matchesRow_plain fun _ _ _ _ => rfl⟩
  | vmin =>
    cases h
    exact ⟨_, _, rfl, matchesRow_plain fun _ a b _ => minMaxElem_false c.fmt a b⟩
  | vmax =>
    cases h
    exact ⟨_, _, rfl, matchesRow_plain fun _ a b _ => minMaxElem_true c.fmt a b⟩
  | vabs =>
    cases h
    exact ⟨_, _, rfl, matchesRow_plain fun _ a _ _ => by simp only [Int.natCast_natAbs] <;> rfl⟩
  | vlog =>
    cases h
    refine ⟨_, _, rfl, matchesRow_plain fun _ a b _ => ?_⟩
    simp only [bitsOf_one, bitOf_eq_testBit, List.sum_eq_foldl, List.foldl_map]
  | vsel =>
    cases h
    refine ⟨_, _, rfl, rfl, fmtBits_ne_zero _, fun n a b x => ?_⟩
    simp only [if_neg (fmtBits_ne_zero _), ite_not]
    rfl
  | vscale =>
    cases h
    exact ⟨_, _, rfl, rfl, fmtBits_ne_zero _, fun _ _ _ _ => rfl⟩
  | vsrnd =>
    cases h
    refine ⟨_, _, rfl, rfl, fmtBits_ne_zero _, fun n a b x => ?_⟩
    simp only [bitsOf, ge_iff_le, ← Nat.not_lt, ite_not] <;> rfl
  | _ => cases h

/-- VIDLE is no row of the table: a strip works on its elements while it does not idle. -/
theorem elementRow_ne_vidle {i : Instr} {cls opc : Nat} {w : Nat × Nat × Nat} (h : elementRow i c = some (cls, opc, w, f)) :
    (cls == 2 && opc == 0x0C) = false := by
  cases i with
  | vadd | vsub | vmul | vfma | vmin | vmax | vabs | vcmp | vsel | vlog | vshf | vexp2 | vlog2 | vrcp | vrsq | vsqrt | vcvt
  | vscale | vsrnd =>
    cases h
    rfl
  | _ => cases h

end

/-! ## One vector -/

/-- R263, R264: with its operands there and room for its results, an opcode's work on a vector is its results delivered. -/
theorem elemWork_vector {s u : State} {tile e : Nat} {c : Command} {w : Nat × Nat × Nat} {f : Nat → Nat → Nat → Nat → Nat}
    {bits : Command → Nat × Nat × Nat} {g : Command → Nat → Nat → Nat → Nat → Nat} {a b x : Nat → Nat}
    (hrow : MatchesRow c w f bits g) (hcursor : c.cursor < c.vectors) (hready : s.inputsReady tile e c = true)
    (hops : ∀ n ∈ c.vecElems c.cursor, s.operand tile e c 0 w.1 n = .ok (a n) ∧
      (w.2.1 ≠ 0 → s.operand tile e c 1 w.2.1 n = .ok (b n)) ∧ (w.2.2 ≠ 0 → s.operand tile e c 2 w.2.2 n = .ok (x n)))
    (hdeliver : s.deliverElems tile e c (c.vecElems c.cursor) ((c.vecElems c.cursor).map fun n => f n (a n) (b n) (x n)) = .ok u) :
    elemWork bits g s tile e c = .ok (u.nextVector tile e c) := by
  obtain ⟨rfl, hfirst, hvalue⟩ := hrow
  have hread : ∀ (k wk n v : Nat), (wk ≠ 0 → s.operand tile e c k wk n = .ok v) →
      (if wk = 0 then Eng.ok 0 else s.operand tile e c k wk n) = .ok (if wk = 0 then 0 else v) := fun k wk n v h => by
    split
    · rfl
    · next hw => exact h hw
  unfold elemWork
  rw [if_neg (Nat.not_le.2 hcursor), if_neg (by simp [hready])]
  dsimp only
  rw [Eng.collect_ok (g := fun n => f n (a n) (b n) (x n)) fun n hn => by
    obtain ⟨ha, hb, hx⟩ := hops n hn
    rw [if_neg hfirst, ha, hread 1 _ n _ hb, hread 2 _ n _ hx]
    exact congrArg Eng.ok (hvalue n (a n) (b n) (x n))]
  rw [Eng.andThen_ok, hdeliver]
  rfl

end Sys2Proof.Machine

namespace Sys2Proof.Claims

open Sys2Proof.Machine

/-- Settles O43: the engine's turn is a piece of its one started command's work, which is the vector at the cursor. -/
theorem elementwiseResults : Obligations.ElementwiseResults := by
  intro i s u tile e cls opc w f c a b x hrow hworking hcursor hready hops hdeliver
  obtain ⟨bits, g, hop, hmatches⟩ := templateOp_of_elementRow hrow
  obtain ⟨hcur, hrun, hstarted, ⟨rfl, rfl⟩, hfinished, hwait, hrefusal⟩ := hworking
  rw [exec_of_templateOp hop]
  refine EngOp.exec_work hcur hrun hstarted (by simp [EngOp.isFor, elemOp]) hfinished hwait (elementRow_ne_vidle hrow)
    (elemWork_vector hmatches hcursor hready hops hdeliver) ?_
  simp only [State.settleWork, hrefusal]
  rfl

end Sys2Proof.Claims
end

section
/-! PROOFS, engine family: the start of a command. O45: an engine's turn with the opcode of its oldest issued command ends as its
start meets the overlap checker, which first makes a place where it is full, and then compares footprints. -/

namespace Sys2Proof.Machine

open Sys2Proof.Claims

/-- What follows a value is a value when both are. -/
theorem Eng.andThen_eq_ok {α β : Type} {x : Eng α} {f : α → Eng β} {b : β} :
    x.andThen f = .ok b ↔ ∃ a, x = .ok a ∧ f a = .ok b := by
  cases x <;> simp [Eng.andThen]

/-! ## The template row of a command -/

section
variable {s : State} {tile : Nat} {c : Command}

theorem footOf_hoop (h : imgClass c.image = 1) : footOf s tile c = hoopFoot s tile c := by
  simp only [footOf, h]

theorem footOf_copy (h : imgClass c.image = 6) : footOf s tile c = copyFoot s tile c := by
  simp only [footOf, h]

/-- R371: a VIDLE has no operands. -/
theorem footOf_vidle (hcls : imgClass c.image = 2) (hopc : imgOpc c.image = 0x0C) : footOf s tile c = [] := by
  unfold footOf
  rw [hcls, hopc]
  rfl

theorem footOf_strip {cls opc : Nat} (hcls : imgClass c.image = cls) (hopc : imgOpc c.image = opc) (hhoop : cls ≠ 1)
    (hcopy : cls ≠ 6) (hidle : ¬ (cls = 2 ∧ opc = 0x0C)) : footOf s tile c = stripFoot s tile c := by
  subst hcls hopc
  unfold footOf
  split
  · next h => exact absurd h hhoop
  · next h => exact absurd h hcopy
  · exact if_neg hidle

end

/-- The machine does for a template opcode what its row says of its class and opcode, its start and its operands (R250, R371). -/
structure DoesRow (i : Instr) (cls opc : Nat) (op : EngOp) : Prop where
  doesOp : templateOp i = some op
  row : op.cls = cls ∧ op.opc = opc
  start : op.start = startOf i
  foot : ∀ (s : State) (tile : Nat) (c : Command), imgClass c.image = cls → imgOpc c.image = opc →
    op.foot s tile c = footOf s tile c

/-- Every template row names an opcode of the machine. -/
theorem doesRow_of_templateRow {i : Instr} {cls opc : Nat} (h : templateRow i = some (cls, opc)) : ∃ op, DoesRow i cls opc op := by
  cases i with
  | vadd | vsub | vmul | vfma | vmin | vmax | vabs | vcmp | vsel | vlog | vshf | vxop | vexp2 | vlog2 | vrcp | vrsq | vsqrt
  | vcvt | vpackmx | vunpk | vscale | vsrnd | vred | vscan | vperm | vbcast | vtrn =>
    cases h
    exact ⟨_, rfl, ⟨rfl, rfl⟩, rfl, fun _ _ _ hcls hopc => (footOf_strip hcls hopc (by decide) (by decide) (by decide)).symm⟩
  | vidle =>
    cases h
    exact ⟨_, rfl, ⟨rfl, rfl⟩, rfl, fun _ _ _ hcls hopc => (footOf_vidle hcls hopc).symm⟩
  | cpy | gath | scat | mcst | halo | coll | dpos =>
    cases h
    exact ⟨_, rfl, ⟨rfl, rfl⟩, rfl, fun _ _ _ hcls _ => (footOf_copy hcls).symm⟩
  | wld | mma | mmw | acrd | acz =>
    cases h
    exact ⟨_, rfl, ⟨rfl, rfl⟩, rfl, fun _ _ _ hcls _ => (footOf_hoop hcls).symm⟩
  | _ => cases h

/-! ## What a start leaves of its command -/

theorem keepRecord_image {s : State} {tile e key w rows k : Nat} {use : Bool} {ok : Nat → Nat → Bool} {c d : Command}
    (h : keepRecord s tile e use key w rows k ok c = .ok d) : d.image = c.image := by
  unfold keepRecord at h
  split at h
  · cases h
  · split at h
    · obtain ⟨_, _, h⟩ := Eng.andThen_eq_ok.1 h
      cases h
      rfl
    · cases h
      rfl

theorem wldStart_image {s v : State} {tile e : Nat} {c d : Command} (h : wldStart s tile e c = .ok (v, d)) :
    d.image = c.image := by
  obtain ⟨c1, h1, h⟩ := Eng.andThen_eq_ok.1 h
  cases h
  exact keepRecord_image h1

theorem mmaStart_image {s v : State} {tile e : Nat} {c d : Command} (h : mmaStart s tile e c = .ok (v, d)) :
    d.image = c.image := by
  obtain ⟨c1, h1, h⟩ := Eng.andThen_eq_ok.1 h
  obtain ⟨c2, h2, h⟩ := Eng.andThen_eq_ok.1 h
  obtain ⟨c3, h3, h⟩ := Eng.andThen_eq_ok.1 h
  split at h
  · cases h
  · cases h
    exact (keepRecord_image h3).trans ((keepRecord_image h2).trans (keepRecord_image h1))

/-- A start keeps the image of its command. -/
theorem startOf_image {i : Instr} {s v : State} {tile e : Nat} {c d : Command} (h : startOf i s tile e c = .ok (v, d)) :
    d.image = c.image := by
  unfold startOf at h
  split at h
  · cases h
    rfl
  · exact wldStart_image h
  · exact mmaStart_image h
  · exact mmaStart_image h
  · cases h
    rfl
  · cases h
    rfl

/-- So does the popping of its tokens. -/
theorem State.popFor_image {s u : State} {tile e : Nat} {c d : Command} (h : s.popFor tile e c = some (u, d)) :
    d.image = c.image := by
  unfold State.popFor at h
  split at h
  · cases h
    rfl
  · dsimp only at h
    split at h
    · cases h
      rfl
    · cases h

/-! ## The start of the oldest issued command -/

/-- The engine has nothing started, and its oldest issued command `c`, of an opcode, may start: with its tokens popped it is `d`
in the state `u`, and its gate is passed (R252). -/
structure EngOp.MayStart (op : EngOp) (s u : State) (tile e : Nat) (c d : Command) (rest : List Command) : Prop where
  cur : s.cur = .engine tile e
  running : (s.tile tile).stopped = false
  started : (s.engine tile e).started = []
  issued : (s.engine tile e).issued = c :: rest
  row : op.isFor c = true
  free : s.dieHeld (dieOf tile) = false
  popped : s.popFor tile e c = some (u, d)
  gate : imgGen d.image = false ∨ d.passed = true

/-- The commands of a list that what follows a start on an engine is ordered after: on a hoop queue the started command, and what
it is ordered after, besides (R307, R371). -/
def orderedAfter (e : Nat) (x : Command) (l : List Nat) : List Nat :=
  if e ≤ 4 then (l ++ commandId e x :: x.after).dedup else l

/-- The state with a command started, and those issued after it waiting from now. -/
def State.started (y : State) (tile e : Nat) (x : Command) (rest : List Command) : State :=
  let g := y.engine tile e
  y.setEngine tile e { g with
    issued := rest.map fun z => { z with after := orderedAfter e x z.after, waited := y.cycle }
    started := g.started ++ [{ x with started := true, waited := y.cycle }]
    after := orderedAfter e x g.after, order := orderedAfter e x g.order }

/-- How a start ends as the overlap checker answers it: the command started, its cause raised, or nothing changed (R371, R372). -/
def State.startEnd (s u : State) (tile e : Nat) (d x : Command) (rest : List Command) (r : Eng State) : State :=
  match r with
  | .ok y => y.started tile e x rest
  | .fault cause val => (u.setCommand tile e d).failCommand tile e d cause val
  | _ => s

/-- R252: the oldest issued command starts as the overlap checker answers. -/
theorem EngOp.exec_start {op : EngOp} {s u v : State} {tile e : Nat} {c d x : Command} {rest : List Command}
    (h : op.MayStart s u tile e c d rest) (hstart : op.start (u.setCommand tile e d) tile e d = .ok (v, x)) :
    op.exec s = .next (s.startEnd u tile e d x rest (v.overlapStart tile e x (op.foot v tile x))) := by
  obtain ⟨hcur, hrunning, hstarted, hissued, hrow, hfree, hpopped, hgate⟩ := h
  have hroom : decide (0 ≥ if e ≤ 4 then 1 else 4) = false := by split <;> rfl
  have hpassed : (imgGen d.image && !d.passed) = false := by rcases hgate with h | h <;> simp [h]
  have hturn : op.turn s = op.startNext tile e s := by
    simp [EngOp.turn, hcur, hstarted, hissued, hrow, hrunning, Engine.idles, EngOp.workOn]
  unfold EngOp.exec happens
  rw [hturn]
  unfold EngOp.startNext
  simp only [hissued, hrow, hstarted, List.length_nil, hroom, hfree, hpopped, hpassed, hstart, Bool.not_true, Bool.or_self,
    Bool.false_and, Bool.false_eq_true, if_false, Eng.andThen_ok]
  cases v.overlapStart tile e x (op.foot v tile x) <;> rfl

/-! ## The overlap checker -/

/-- The command a footprint is of (R371). -/
def Footprint.owner (f : Footprint) : Nat := f.engine * 2 ^ 32 + f.seq

/-- R371: a kept footprint that meets one of a starting command's, with a write in either, of a command that is not ordered
before it. -/
def Command.meets (x : Command) (foot : List (Nat × Nat × Bool)) (f : Footprint) : Bool :=
  decide (f.owner ∉ x.after) && foot.any fun p => decide (f.lo < p.2.1) && decide (p.1 < f.hi) && (f.write || p.2.2)

section
variable (s : State) (tile e : Nat) (x : Command) (foot : List (Nat × Nat × Bool))

/-- The state with a command's footprints beside those kept. -/
def State.keeping (kept : List Footprint) : State :=
  s.setTile tile { s.tile tile with
    footprints := kept ++ foot.map fun p => ⟨e, x.seq.toNat, p.1, p.2.1, p.2.2, false⟩ }

/-- R371: the comparison of a starting command's footprints with those kept. -/
def State.compared (kept : List Footprint) : Eng State :=
  match kept.find? (x.meets foot) with
  | some f => .fault causeOverlap f.owner
  | none => .ok (s.keeping tile e x foot kept)

/-- R372: CHKMISS set. -/
def State.chkMissed : State := s.setThread (controlTid tile) { s.thread (controlTid tile) with chkmiss := true }

/-- R372: as many commands' footprints are kept as there are places for. -/
def State.checkerFull : Prop := 256 ≤ (((s.tile tile).footprints.map Footprint.owner).dedup).length

end

section
variable {s : State} {tile e : Nat} {x : Command} {foot : List (Nat × Nat × Bool)}

theorem Command.meets_eq (x : Command) (foot : List (Nat × Nat × Bool)) : (fun f : Footprint =>
    !x.after.contains (f.engine * 2 ^ 32 + f.seq) && foot.any (clash f)) = x.meets foot := by
  funext f
  rw [List.contains_eq_mem, ← decide_not]
  rfl

/-- R371: outside deterministic mode, and of a command without scratchpad operands, nothing is checked. -/
theorem State.overlapStart_unchecked (h : ¬ (s.det (controlTid tile) = true ∧ foot ≠ [])) :
    s.overlapStart tile e x foot = .ok s := by
  unfold State.overlapStart
  refine if_pos ?_
  by_contra hn
  simp only [not_or, Bool.not_eq_true', Bool.not_eq_false] at hn
  exact h hn

variable (hdet : s.det (controlTid tile) = true) (hfoot : foot ≠ [])
include hdet hfoot

/-- R371: with a place free, the command is compared with all that is kept. -/
theorem State.overlapStart_room (hroom : ¬ s.checkerFull tile) :
    s.overlapStart tile e x foot = s.compared tile e x foot (s.tile tile).footprints := by
  have hfull : decide ((((s.tile tile).footprints.map fun f => f.engine * 2 ^ 32 + f.seq).dedup).length ≥ 256) = false :=
    decide_eq_false hroom
  unfold State.overlapStart
  rw [if_neg (by simp [hdet, hfoot])]
  simp only [hfull, Command.meets_eq]
  unfold State.compared
  cases (s.tile tile).footprints.find? (x.meets foot) <;> rfl

/-- R372: with no place free and no command complete, the start waits. -/
theorem State.overlapStart_waits (hfull : s.checkerFull tile) (hnone : ∀ f ∈ (s.tile tile).footprints, f.complete = false) :
    s.overlapStart tile e x foot = .stall := by
  have hfull : decide ((((s.tile tile).footprints.map fun f => f.engine * 2 ^ 32 + f.seq).dedup).length ≥ 256) = true :=
    decide_eq_true hfull
  have hnone : (s.tile tile).footprints.find? (·.complete) = none := List.find?_eq_none.2 fun f hf => by simp [hnone f hf]
  unfold State.overlapStart
  rw [if_neg (by simp [hdet, hfoot])]
  simp only [hfull, hnone]

/-- R372: with no place free, the oldest completed command makes one, CHKMISS is set, and the command is compared with the rest. -/
theorem State.overlapStart_evicts {old : Footprint} (hfull : s.checkerFull tile)
    (hold : (s.tile tile).footprints.find? (·.complete) = some old) :
    s.overlapStart tile e x foot = (s.chkMissed tile).compared tile e x foot
      ((s.tile tile).footprints.filter fun f => decide (¬ (f.engine = old.engine ∧ f.seq = old.seq))) := by
  have hfull : decide ((((s.tile tile).footprints.map fun f => f.engine * 2 ^ 32 + f.seq).dedup).length ≥ 256) = true :=
    decide_eq_true hfull
  have hleft : (fun f : Footprint => !(f.engine == old.engine && f.seq == old.seq)) =
      fun f => decide (¬ (f.engine = old.engine ∧ f.seq = old.seq)) := by
    funext f
    simp only [decide_not, Bool.decide_and, beq_eq_decide]
  unfold State.overlapStart
  rw [if_neg (by simp [hdet, hfoot])]
  simp only [hfull, hold, Command.meets_eq, hleft]
  unfold State.compared
  cases ((s.tile tile).footprints.filter fun f => decide (¬ (f.engine = old.engine ∧ f.seq = old.seq))).find? (x.meets foot) <;>
    rfl

end

/-- R371: a footprint met is the cause. -/
theorem State.compared_meets {s : State} {tile e : Nat} {x : Command} {foot : List (Nat × Nat × Bool)} {kept : List Footprint}
    {f : Footprint} (h : kept.find? (x.meets foot) = some f) : s.compared tile e x foot kept = .fault causeOverlap f.owner := by
  unfold State.compared
  rw [h]

/-- R371: with none met, the command's own are kept beside the others. -/
theorem State.compared_clear {s : State} {tile e : Nat} {x : Command} {foot : List (Nat × Nat × Bool)} {kept : List Footprint}
    (h : kept.find? (x.meets foot) = none) : s.compared tile e x foot kept = .ok (s.keeping tile e x foot kept) := by
  unfold State.compared
  rw [h]

end Sys2Proof.Machine

namespace Sys2Proof.Claims

open Sys2Proof.Machine

/-- Settles O45: a start ends as the overlap checker answers it, and each clause is one of its answers. -/
theorem commandStarts : Obligations.CommandStarts := by
  intro i s u v tile e cls opc c d x rest hrow hcur hrun hstarted hissued hcls hopc hfree hpop hgate hstart
  obtain ⟨op, hop, ⟨rfl, rfl⟩, hopStart, hfoot⟩ := doesRow_of_templateRow hrow
  have himage : x.image = c.image := (startOf_image hstart).trans (State.popFor_image hpop)
  have hexec : exec i s = .next (s.startEnd u tile e d x rest (v.overlapStart tile e x (footOf v tile x))) := by
    rw [exec_of_templateOp hop, ← hfoot v tile x (himage ▸ hcls) (himage ▸ hopc)]
    exact EngOp.exec_start ⟨hcur, hrun, hstarted, hissued, by simp [EngOp.isFor, hcls, hopc], hfree, hpop, hgate⟩
      (hopStart ▸ hstart)
  intro order starts foot checked kept id full meets raises joins
  refine ⟨fun hunchecked => ?_, fun ⟨hdet, hfoot⟩ hroom => ⟨fun f hf => ?_, fun hnone => ?_⟩,
    fun ⟨hdet, hfoot⟩ hfull hnone => ?_, fun old ⟨hdet, hfoot⟩ hfull hold => ⟨fun f hf => ?_, fun hnone => ?_⟩⟩
  · rw [State.overlapStart_unchecked hunchecked] at hexec
    exact hexec
  · rw [State.overlapStart_room hdet hfoot hroom, State.compared_meets hf] at hexec
    exact hexec
  · rw [State.overlapStart_room hdet hfoot hroom, State.compared_clear hnone] at hexec
    exact hexec
  · rw [State.overlapStart_waits hdet hfoot hfull hnone] at hexec
    exact hexec
  · rw [State.overlapStart_evicts hdet hfoot hfull hold, State.compared_meets hf] at hexec
    exact hexec
  · rw [State.overlapStart_evicts hdet hfoot hfull hold, State.compared_clear hnone] at hexec
    exact hexec

end Sys2Proof.Claims
end
